-- ==== Sys2Proof/Word.lean ====
section
/-! DEFINITION. The word types of the SK9: what the manual treats as bits (Table 0-4, R6). -/

namespace Sys2Proof

/-- One byte of a memory, a buffer or a record. -/
abbrev Byte := BitVec 8

/-- A 32-bit word: a binary32 bit pattern, an ordering key, a register value, a PASS word. -/
abbrev Word := BitVec 32

/-- A token ID of 24 bits (R6). -/
abbrev TokenId := BitVec 24

/-- A 32-bit handle: request, adapter version, grammar or encode job (R6, R233). -/
abbrev Handle := BitVec 32

/-- NONE, the token ID that names no token (R6). -/
def tokNone : TokenId := 0xFFFFFF#24

/-- The reserved token IDs of R6: 0x10_0000 to 0xFF_FFFE. -/
def tokReserved (t : TokenId) : Bool := decide (0x100000 ≤ t.toNat) && decide (t.toNat < 0xFFFFFF)

end Sys2Proof
end

