-- ==== Sys2Proof/Syntax.lean ====
section
/-! DEFINITION. The commands the SK9 takes: one constructor for each row of spec/opcode_table.json.

The table gives no operand fields, so the operands are the model's: the signals, register values and command bodies
the spec gives the row, and what the outside world answers a read with. Every command carries the counts of the
clocks at the moment it happens (`Time`). -/

namespace Sys2Proof

/-- When a command happens: the shell's own FAB cycle of the step (R42), and the counts of ENG, CTL and AON cycles.
The host moves the FAB clock as it likes (R383), so each count is an input. A count below the one the block holds
means that no time has passed in that domain. -/
structure Time where
  fab : Nat
  eng : Nat
  ctl : Nat
  aon : Nat
deriving DecidableEq, Repr

/-- What the check bits of a read find (R34, R52, R62 to R64). -/
inductive Ecc where
  | clean
  | correctable
  | uncorrectable
  | tagParity
deriving DecidableEq, Repr

/-- What the reads of a row's work find: a vat row corrected (R62); a poisoned vat row or tag (R63); an uncorrectable error
in the strainer's own buffers (R409: part 0 histogram, 1 survivor buffer, 2 candidate register) or in a store of the draw
unit (R115: store 0 program, 1 bias, 2 penalty); a correctable or an uncorrectable error in a rennet cache (R197: cache 0
state, 1 chunk). -/
inductive RowFault where
  | rowCe (pra : BitVec 17)
  | rowUe (pra : BitVec 17)
  | tagParity (pra : BitVec 17)
  | strainerUe (strainer : BitVec 4) (part : Nat)
  | storeUe (store : Nat) (index : Nat)
  | maskCe (cache : Nat) (index : Nat)
  | maskUe (cache : Nat) (index : Nat)
deriving DecidableEq, Repr

/-- The digit that a row pass counts (R107): a key digit of Table 5-2, or a local-index digit. -/
inductive Digit where
  | key (p : Nat)      -- pass p, from 1, of the row's own schedule (Table 5-2)
  | key32 (p : Nat)    -- pass p, from 1, of the 32-bit schedule applied to k32 (R154)
  | indexHi            -- local index [19:9]
  | indexLo            -- local index [8:0]
  | baseHi             -- SHARD_BASE[19:9] (R155)
  | baseLo             -- SHARD_BASE[8:0] (R155)
deriving DecidableEq, Repr

/-- A request for one row pass (R107). Bounds are on the order value of R79. -/
structure PassReq where
  digit    : Digit
  prefixV  : Nat
  lo       : Nat                     -- inclusive lower bound
  hi       : Nat                     -- exclusive upper bound
  weighted : Bool
  km       : Option Word             -- kM of R82, undefined as none
  invT     : Word
  excl     : List Nat                -- order values left out (R154)
deriving DecidableEq, Repr

/-- Which register half a vat power write reaches (R366, Table 15-15). -/
inductive PwrHalf where
  | lo | hi | both
deriving DecidableEq, Repr

/-- Which of the timers of R158 expires. -/
inductive RoundTimer where
  | gather | merged | pass
deriving DecidableEq, Repr

/-- What a rennet cellar read brings (R194, R195). -/
inductive FillKind where
  | state (state : Nat) (cls : Nat)
  | map (n : Nat)
  | chunk (n : Nat)
deriving DecidableEq, Repr

/-- How a rennet cellar read ends (R197, R227). -/
inductive FillEnd where
  | landed | cellarError | cacheUe
deriving DecidableEq, Repr

/-- What churn finds while it takes a buffer: nothing; an uncorrectable error in the stream's context (R239, R409); an
uncorrectable or a correctable error in a cache line that it looks up, of the image or a piece's memo (R262). -/
inductive ChurnFault where
  | none
  | contextUe
  | lineUe (line : Nat)
  | memoUe (piece : List Byte)
  | lineCe
deriving DecidableEq, Repr

/-- The mailbox side of a firmware command: the context that sent it and the header's TAG (Table 14-7). -/
structure Sender where
  ctx : BitVec 8
  tag : Word
deriving DecidableEq, Repr

/-- The step shape as SET_STEP_SHAPE carries it (Table 14-12), every field as sent. -/
structure ShapeFields where
  stepLen : Nat
  manDeadline : Nat
  ingestEnd : Nat
  shardBase : Nat
  shardLen : Nat
  slots : Nat
  groupSize : Nat
  xallow : Nat
  feedWidth : Nat
  draftRows : Nat
  format : Nat
deriving DecidableEq, Repr

/-- One entry of SET_VAT_PLAN (Tables 3-1 and 14-13). -/
structure AreaFields where
  area : Nat
  use : Nat
  firstBank : Nat
  nbanks : Nat
  rows : Nat
deriving DecidableEq, Repr

/-- The row position whose extend block or row pass ends, and what the reads of that work found (R52, R63, R115). -/
structure WorkRead where
  posn : Nat
  found : List RowFault
deriving DecidableEq, Repr

/-- A timer that expires, and what the reads of the windows in its control tick found (R157, R158). -/
structure Expiry where
  timer : RoundTimer
  found : List (BitVec 17 × Ecc)
deriving DecidableEq, Repr

/-- When the reset sequence is looked at, and the step of Table 16-4 it has reached by then. -/
structure Release where
  time : Time
  upTo : Nat
deriving DecidableEq, Repr

/-- A register read: its offset and how many bytes it asks for (R365, R366). -/
structure RegRead where
  offset : Nat
  size : Nat
deriving DecidableEq, Repr

/-- The commands of the SK9. A `src` operand is what a read of the command's source returned: `none` when it failed. -/
inductive Instr where
  -- fabric shell (02_fabric_shell_and_slot_manifest.md)
  | stepStart (t : Time)
  | freeze (t : Time)
  | maskCutoff (t : Time)
  | manifestRead (t : Time) (slot : BitVec 12) (ecc : Ecc)
  | tokenPortRead (t : Time) (pair : BitVec 11) (eccLo eccHi : Ecc)
  | headerBeat (t : Time) (hdr : BitVec 512)
  | dataBeat (t : Time) (data : BitVec 8192)
  | ingestDeadline (t : Time)
  | stretch (t : Time)
  | frequencyChange (t : Time) (mhz : Nat)
  | manifestEntryWrite (t : Time) (slot : BitVec 12) (entry : BitVec 512) (record : BitVec 256)
  | manifestBuild (t : Time)
  -- the vat (03_logit_vat.md) and power (16_clocks_reset_and_power.md)
  | inboundWrite (t : Time) (addr : BitVec 64) (data : BitVec 512) (tagBad : Bool)
  | scrubVisit (t : Time) (bank : BitVec 6) (ecc : Ecc)
  | writeBack (t : Time) (pra : BitVec 17)
  | writeBackDrop (t : Time) (pra : BitVec 17)
  | bankAckRise (t : Time) (bank : BitVec 6)
  | bankInitDone (t : Time) (bank : BitVec 6)
  | bankDrainDone (t : Time) (bank : BitVec 6)
  | bankAckFall (t : Time) (bank : BitVec 6)
  | ackTimeout (t : Time) (unit : Nat)
  | strainerAckRise (t : Time) (strainer : BitVec 4)
  | strainerInitDone (t : Time) (strainer : BitVec 4)
  | strainerReleased (t : Time) (strainer : BitVec 4)
  | strainerAckFall (t : Time) (strainer : BitVec 4)
  -- strainers (05_radix_selection.md)
  | floorUpdate (t : Time) (slot : BitVec 12) (posn : Nat) (strainer : BitVec 4) (counted : Nat)
  | listSelectionDone (t : Time) (slot : BitVec 12) (posn : Nat) (found : List RowFault)
  | extendBlock (t : Time) (slot : BitVec 12) (posn : Nat)
  | extendBlockDone (t : Time) (slot : BitVec 12) (work : WorkRead)
  | rowPass (t : Time) (slot : BitVec 12) (posn : Nat) (req : PassReq)
  | rowPassDone (t : Time) (slot : BitVec 12) (work : WorkRead)
  -- draw unit, verifier, commit (06, 08, 13)
  | draw (t : Time) (slot : BitVec 12) (found : List RowFault)
  | verify (t : Time) (slot : BitVec 12) (found : List RowFault)
  | commit (t : Time) (slot : BitVec 12)
  -- skimmer (12_detokenisation_stop_strings_and_pails.md)
  | skimCommit (t : Time) (req : Handle)
  | consumerPoll (t : Time) (req : Handle)
  | consumerReadDone (t : Time) (req : Handle) (value : Option (BitVec 64))
  -- collective engine (07_rubewa_collective.md)
  | collectiveTick (t : Time) (found : List (BitVec 17 × Ecc))
  | messageSend (t : Time)
  | roundTimeout (t : Time) (slot : BitVec 12) (posn : Nat) (timer : Expiry)
  -- rennet (09_grammar_engine.md)
  | prefetch (t : Time)
  | maskFillDone (t : Time) (gidx : BitVec 12) (kind : FillKind) (fin : FillEnd)
  | prefetchTune (t : Time) (gidx : BitVec 12)
  -- churn (11_tokenisation.md)
  | bufferTaken (t : Time) (stream : BitVec 10) (text : Option (List Byte)) (fault : ChurnFault)
  | laneSwitch (t : Time) (lane : BitVec 4)
  | vocabFillDone (t : Time) (vidx : BitVec 6) (line : Nat) (ok : Bool)
  | partitionRetune (t : Time)
  -- control cores (13, 14)
  | recordMoveDone (t : Time) (index : BitVec 16) (ecc : Ecc)
  | epochCorrection (t : Time)
  | doneWordPoll (t : Time)
  | doneWordReadDone (t : Time) (value : Option (BitVec 64)) (failed : List Word)
  | ladle (t : Time) (role : Nat) (src : Option (List Byte)) (last : Bool)
  | logWrite (t : Time)
  | watchdogExpiry (t : Time) (core : Nat)
  | unhandledTrap (t : Time) (core : Nat) (addr : Word) (code : Byte)
  | coreFailover (t : Time)
  | clockLoss (t : Time) (domain : Nat)
  | cellarError (t : Time) (addr : BitVec 48) (cls : Nat)
  -- reset and boot (14, 15, 16)
  | coldReset (t : Time)
  | warmReset (t : Time)
  | resetRelease (t : Release)
  | selftestDone (t : Time) (passed : BitVec 5)
  | sramInitDone (t : Time) (ue : Option Word) (badLog : List Nat)
  | authDone (t : Time)
  | loadDone (t : Time)
  | ready (t : Time)
  | fwInitTimeout (t : Time)
  | go (t : Time) (value : Word)
  | clear (t : Time) (value : Word)
  | repairData (t : Time) (entry : Word)
  | stagingWindowWrite (t : Time) (offset : Nat) (data : List Byte)
  | commandWindowWrite (t : Time) (offset : Nat) (data : List Byte)
  | doorbell (t : Time) (ctx : BitVec 8) (value : Word)
  -- registers (15_register_map.md)
  | vatPwr (t : Time) (half : PwrHalf) (value : BitVec 64)
  | strPwr (t : Time) (value : Word)
  | errStatus (t : Time) (value : Word)
  | readClear (t : Time) (read : RegRead)
  | tsLo (t : Time)
  | registerWrite (t : Time) (offset : Nat) (size : Nat) (value : BitVec 64)
  -- test access (17_errors_log_capacity_and_test.md)
  | fuseSvn (t : Time) (value : Word)
  | fuseKeyrev (t : Time) (value : Word)
  | fuseWriteDone (t : Time)
  | wirUpdate (t : Time) (code : BitVec 4)
  | wrapperReset (t : Time)
  | skReg (t : Time) (value : BitVec 64)
  | skMbist (t : Time) (value : Word)
  | mbistDone (t : Time) (failing : List (BitVec 17)) (other : Bool)
  | mbistCapture (t : Time)
  | ringConsumerReadDone (t : Time) (ctx : BitVec 8) (value : Option (BitVec 64))
  -- the mailbox commands (Tables 14-10 to 14-13)
  | identify (t : Time) (by_ : Sender)
  | attach (t : Time) (by_ : Sender) (ring cidxAddr : BitVec 64) (log2r flags : Byte)
  | detach (t : Time) (by_ : Sender) (context : BitVec 8)
  | readLog (t : Time) (by_ : Sender) (dest : BitVec 64) (first count : Word)
  | readBootReport (t : Time) (by_ : Sender)
  | admitRequest (t : Time) (by_ : Sender) (service : BitVec 256) (sampling : BitVec 512) (speculation : BitVec 128)
      (grammar start : Word) (options output : BitVec 256) (pass : BitVec 256) (src : Option (List Byte))
  | cancelRequest (t : Time) (by_ : Sender) (req : Handle)
  | readRequest (t : Time) (by_ : Sender) (req : Handle) (dest : BitVec 64)
  | setGrammar (t : Time) (by_ : Sender) (req : Handle) (handle start : Word)
  | postDrafts (t : Time) (by_ : Sender) (req : Handle) (pos0 : Word) (count : Nat) (tokens : List Word)
  | encodeOpen (t : Time) (by_ : Sender) (customer : Nat) (options : BitVec 256)
  | appendInput (t : Time) (by_ : Sender) (stream : Handle) (flags : Byte) (addr : BitVec 64) (len : Word)
      (src : Option (List Byte))
  | encodeClose (t : Time) (by_ : Sender) (job : Handle)
  | setStepShape (t : Time) (by_ : Sender) (f : ShapeFields)
  | setHomeSlots (t : Time) (by_ : Sender) (first count : Nat)
  | setCustomer (t : Time) (by_ : Sender) (customer pool : Nat) (flags : Byte) (weight iw rate burst : Nat)
  | setPool (t : Time) (by_ : Sender) (pool weight turn : Nat)
  | readCustomer (t : Time) (by_ : Sender) (customer : Nat)
  | setVatPlan (t : Time) (by_ : Sender) (areas : List AreaFields)
  | setPower (t : Time) (by_ : Sender) (banks : BitVec 64) (strainers : BitVec 16)
  | openWindow (t : Time) (by_ : Sender) (die area role firstRow length peer : Nat)
  | closeWindow (t : Time) (by_ : Sender) (window : Nat)
  | setCollective (t : Time) (by_ : Sender) (blen : Nat) (src : Option (List Byte))
  | loadLogitProgram (t : Time) (by_ : Sender) (prog : Nat) (image : BitVec 1024)
  | loadBiasList (t : Time) (by_ : Sender) (list : Nat) (nent : Nat) (src : Option (List Byte))
  | loadVocab (t : Time) (by_ : Sender) (vidx : Nat) (len : Nat) (addr : BitVec 64) (src : Option (List Byte))
  | releaseVocab (t : Time) (by_ : Sender) (vidx : Nat)
  | setVocabPartition (t : Time) (by_ : Sender) (lock : Bool) (masks : List (BitVec 16)) (map : List Nat)
  | loadGrammar (t : Time) (by_ : Sender) (handle : Handle) (len : Nat) (addr : BitVec 64) (src : Option (List Byte))
  | releaseGrammar (t : Time) (by_ : Sender) (handle : Handle)
  | loadStopSet (t : Time) (by_ : Sender) (index : Nat) (host : Bool) (len : Nat) (src : Option (List Byte))
  | releaseStopSet (t : Time) (by_ : Sender) (index : Nat)
  | setAdapterPool (t : Time) (by_ : Sender) (library : BitVec 64) (rslots log2g eventCtx slotBytes : Nat)
      (gring doneAddr : BitVec 64)
  -- power and clocks of the whole block; rings and streams
  | powerLoss (t : Time)
  | ringConsumerPoll (t : Time) (ctx : BitVec 8)
  | privateSramError (t : Time) (core : Nat)
  | clockRunsAgain (t : Time) (domain : Nat)
  | entryReport (t : Time) (stream : BitVec 10) (text : List Byte)
deriving DecidableEq, Repr

end Sys2Proof
end

