-- ==== Sys2Proof/Config.lean ====
section
/-! DEFINITION. What an implementation fixes and the manual leaves open: free values (no body, so no proof can see
them) and the part's constants. -/

namespace Sys2Proof.Config

/-- The set of the state cache that a key indexes, "a hash of the key" (R194); the manual gives no hash. Free. -/
opaque stateSet : Nat → Nat → Nat → Nat

/-- The set of the vocabulary cache that a line or a memo indexes (R258); the manual gives no index function. Free.
Operands: vocabulary index, load generation, line number or bytes of the piece as a number. -/
opaque vocabSet : Nat → Nat → Nat → Nat

/-- Whether a participant takes the last row position of a prefill entry as the last prompt token: R38 stores that row
only then, and no field of a DECISION says it (Tables 2-3 and 7-6). Free. Operands: step, slot. -/
opaque promptEnds : Nat → Nat → Bool

/-- The die whose shard begins at a token ID: how the root of a row walk knows it (R155) is not given. Free. -/
opaque shardOwner : Nat → Nat

/-- Whether a base bucket that the root resolves held entries of two dies of equal SHARD_BASE (R155): the summed histogram
does not say it. Free. Operands: step, slot. -/
opaque baseShared : Nat → Nat → Bool

/-- RSTEP of a request that has committed before the first decision a root has had of it (R129, R155): no message carries
it. Free. Operands: request handle, slot. -/
opaque rootRstep : Nat → Nat → Nat

/-- Figures of the draw record that only the root's walks over the row set know, as a home that is another die puts them
into its record (R155): no message carries them. Free. Operands: step, slot, which figure. -/
opaque rootFigure : Nat → Nat → Nat → Nat

/-- Length of the vocabulary bound to a request of another home that has no grammar (R78, R87): no message carries it.
Free. Operand: request handle. -/
opaque vocabLength : Nat → Nat

/-- The 8 SECDED check bits of a 64-bit word and the parity bit of a generation tag (R44): the manual gives no code. Free. -/
opaque secded : BitVec 64 → BitVec 8
opaque tagParity : BitVec 8 → Bool

/-- Where the cellar keeps the record of a request index that lies in the overflow, and how many beats of 128 B it takes
(R301): the manual gives neither. Free. -/
opaque overflowAddr : Nat → Nat
opaque recordBeats : Nat

/-- The code that firmware has posted in FW_PROGRESS at an AON time (Table 15-9): firmware's own, the manual lists none. Free. -/
opaque fwProgress : Nat → BitVec 32

/-- What the manual leaves undefined and nothing above names: the n-th such value that the block forms. Free. -/
opaque freeValue : Nat → Nat

/-- PART and STEPPING of register ID (Table 15-3). -/
def partId : Nat := 0x0009
def stepping : Nat := 0x00B0

/-- Entries of the trouble log (R401) and requests CC0 holds (R403). -/
def logSize : Nat := 32768
def logPending : Nat := 256

/-- Capacities of the stores (R115, R194, R195, R232, R259, R274, R299, R330). -/
def biasEntries : Nat := 262144
def stateEntries : Nat := 1048576
def chunkSlots : Nat := 49152
def pinnedPages : Nat := 24576
def imagePages : Nat := 8192
def streamContexts : Nat := 1024
def pinnedLines : Nat := 16384
def stopStates : Nat := 262144
def stopEdges : Nat := 262144
def requestIndices : Nat := 65536
def hotRecords : Nat := 4096
def versions : Nat := 16384
def spillEntries : Nat := 512

end Sys2Proof.Config
end

