-- ==== Sys2Proof/Machine/Codes.lean ====
section
/-! DEFINITION. Status codes, error codes with their ERR_STATUS bits (Table 17-2), dry causes (Table 2-5), end reasons
(Table 13-5) and boot causes. -/

namespace Sys2Proof.Machine

/-! ### Status codes of responses, each named and numbered by the chapter that owns the command -/

def stOk : Nat := 0x0000
def stCmdOpcode : Nat := 0x0001
def stCmdLength : Nat := 0x0002
def stCmdReserved : Nat := 0x0003
def stSkim : Nat := 0x0004
def stSource : Nat := 0x0005
def stShapeTiming : Nat := 0x0301
def stShapeSlots : Nat := 0x0302
def stShapeVocab : Nat := 0x0303
def stShapeRows : Nat := 0x0304
def stShapeFormat : Nat := 0x0305
def stVatPlan : Nat := 0x0401
def stVatBankBusy : Nat := 0x0402
def stRepairFormat : Nat := 0x0403
def stVatCapacity : Nat := 0x0404
def stStrLast : Nat := 0x0405
def stProgFormat : Nat := 0x0701
def stProgOperand : Nat := 0x0702
def stProgBusy : Nat := 0x0703
def stBiasFormat : Nat := 0x0704
def stBiasFull : Nat := 0x0705
def stSamplingParam : Nat := 0x0706
def stWinNoneFree : Nat := 0x0801
def stWinArea : Nat := 0x0802
def stWinBusy : Nat := 0x0803
def stCollConfig : Nat := 0x0804
def stWinDie : Nat := 0x0805
def stCollBudget : Nat := 0x0806
def stWinState : Nat := 0x0807
def stSpecParam : Nat := 0x0901
def stSpecTopk : Nat := 0x0902
def stDraftFormat : Nat := 0x0903
def stDraftReq : Nat := 0x0904
def stGramImage : Nat := 0x0A01
def stGramVocab : Nat := 0x0A02
def stGramFull : Nat := 0x0A03
def stGramBusy : Nat := 0x0A04
def stGramHandle : Nat := 0x0A05
def stGramStart : Nat := 0x0A06
def stGramFollow : Nat := 0x0A07
def stVocabImage : Nat := 0x0B01
def stVocabBusy : Nat := 0x0B02
def stVocabFull : Nat := 0x0B03
def stVocabIndex : Nat := 0x0B04
def stEncStreams : Nat := 0x0B05
def stEncInput : Nat := 0x0B06
def stEncInvalid : Nat := 0x0B07
def stEncFull : Nat := 0x0B08
def stEncFault : Nat := 0x0B09
def stEncOptions : Nat := 0x0B0A
def stEncStream : Nat := 0x0B0B
def stEncQueue : Nat := 0x0B0C
def stVocabPart : Nat := 0x0B0D
def stStopFormat : Nat := 0x0C01
def stStopFull : Nat := 0x0C02
def stStopBusy : Nat := 0x0C03
def stStopIndex : Nat := 0x0C04
def stPailParam : Nat := 0x0C05
def stReqFull : Nat := 0x0D01
def stReqHandle : Nat := 0x0D02
def stReqParam : Nat := 0x0D03
def stReqEnding : Nat := 0x0D04
def stCustUnknown : Nat := 0x0D05
def stCustParam : Nat := 0x0D06
def stPoolParam : Nat := 0x0D07
def stPair : Nat := 0x0D08
def stAdapterEntry : Nat := 0x0D09
def stAdapterVersion : Nat := 0x0D0A
def stAdapterOwner : Nat := 0x0D0B
def stAdapterFull : Nat := 0x0D0C
def stAdapterFault : Nat := 0x0D0D
def stAdapterPool : Nat := 0x0D0E
def stHomeSlots : Nat := 0x0D0F
def stCustBusy : Nat := 0x0D10
def stCtxAttached : Nat := 0x0E01
def stCtxRing : Nat := 0x0E02
def stCtxNone : Nat := 0x0E03
def stCtxBusy : Nat := 0x0E04
def stLogRange : Nat := 0x0E05

/-! ### Error codes of the trouble log (Table 17-2) -/

def errLogVoid : Nat := 0x0001   -- R405
def errLogLost : Nat := 0x0002   -- R403
def errReset : Nat := 0x0003   -- R393
def errGroupVatFull : Nat := 0x0101   -- R20
def errHeaderOverflow : Nat := 0x0102   -- R35
def errBeatOrphan : Nat := 0x0103   -- R35
def errTileRefused : Nat := 0x0104   -- R37
def errCrossingLate : Nat := 0x0105   -- R41
def errStepEarly : Nat := 0x0106   -- R42
def errStepLate : Nat := 0x0107   -- R42
def errGuardRead : Nat := 0x0108   -- R43
def errBufferUe : Nat := 0x0109   -- R34
def errDryMarkDropped : Nat := 0x010A   -- R387
def errRowUe : Nat := 0x0201   -- R63
def errTagParity : Nat := 0x0202   -- R63
def errAreaRange : Nat := 0x0203   -- R46
def errWindowReject : Nat := 0x0204   -- R55
def errRepairCandidate : Nat := 0x0205   -- R65
def errBankOut : Nat := 0x0206   -- R67, R391
def errRepairRejected : Nat := 0x0207   -- R68
def errNoWorkArea : Nat := 0x0208   -- R412
def errSlabEntered : Nat := 0x0301   -- R113
def errLookMismatch : Nat := 0x0302   -- R114
def errDrawStoreUe : Nat := 0x0303   -- R115
def errStrainerUe : Nat := 0x0304   -- R409
def errLinkLoop : Nat := 0x0401   -- R138
def errBufferOverrun : Nat := 0x0402   -- R144
def errMessageMismatch : Nat := 0x0403   -- R146
def errPeerMissing : Nat := 0x0404   -- R159
def errMessageLate : Nat := 0x0405   -- R160
def errLostPeer : Nat := 0x0406   -- R161
def errGrammarMismatch : Nat := 0x0501   -- R188
def errMaskLatePeer : Nat := 0x0502   -- R199
def errGrammarFault : Nat := 0x0503   -- R203, R227
def errRennetCellar : Nat := 0x0504   -- R197
def errRennetCacheUe : Nat := 0x0505   -- R197
def errEncodeFault : Nat := 0x0601   -- R239
def errVocabFault : Nat := 0x0602   -- R246
def errVocabCacheUe : Nat := 0x0603   -- R262
def errLaneOut : Nat := 0x0604   -- R409
def errStopSource : Nat := 0x0701   -- R273
def errConsumerIndex : Nat := 0x0702   -- R292
def errConsumerReadFailed : Nat := 0x0703   -- R292
def errCoreFailed : Nat := 0x0801   -- R338
def errHalt : Nat := 0x0802   -- R341, R385
def errBootFail : Nat := 0x0803   -- R347
def errDoorbellIgnored : Nat := 0x0804   -- R352
def errGatherFailed : Nat := 0x0805   -- R336
def errRingConsumerIndex : Nat := 0x0806   -- R354
def errClockLost : Nat := 0x0901   -- R385
def errAckTimeout : Nat := 0x0902   -- R398
def errAckFell : Nat := 0x0903   -- R398
def errPowerRefused : Nat := 0x0904   -- R378, R396
def errAccessDropped : Nat := 0x0A01   -- R365, R368, R371
def errStagingDropped : Nat := 0x0A02   -- R374
def errCellarError : Nat := 0x0A03   -- cel_err on any command not above

/-- The ERR_STATUS bit that an error code sets (Table 17-2, Table 15-19). -/
def errBit (code : Nat) : Option Nat :=
  if [0x0101, 0x0102, 0x0103, 0x0104, 0x0105, 0x0106, 0x0109].contains code then some 0
  else if [0x0201, 0x0202, 0x0903].contains code then some 1
  else if [0x0303, 0x0304, 0x0505, 0x0603].contains code then some 2
  else if [0x0504, 0x0A03].contains code then some 3
  else if [0x0204].contains code then some 4
  else if [0x0A01].contains code then some 5
  else if [0x0A02].contains code then some 6
  else if [0x0801].contains code then some 7
  else if [0x0802, 0x0901].contains code then some 8
  else if [0x0803].contains code then some 9
  else if [0x0904].contains code then some 10
  else none

/-! ### Dry causes (Table 2-5) -/

def dryTokenLate : Nat := 0x01
def dryMaskLate : Nat := 0x02
def dryAdapterLate : Nat := 0x03
def dryNoDecision : Nat := 0x04
def dryStepEarly : Nat := 0x05
def dryBufferEcc : Nat := 0x06
def dryVatFull : Nat := 0x10
def dryTileError : Nat := 0x11
def dryCrossing : Nat := 0x12
def dryRoundTimeout : Nat := 0x13
def dryPeerDry : Nat := 0x14
def dryRowEcc : Nat := 0x15

/-! ### End reasons (Table 13-5) -/

def endEndToken : Nat := 0x01
def endStop : Nat := 0x02
def endGrammarComplete : Nat := 0x03
def endAllowance : Nat := 0x04
def endNoValidToken : Nat := 0x05
def endCancelled : Nat := 0x06
def endPromptTooLong : Nat := 0x07
def endEmptyPrompt : Nat := 0x08
def endInvalidInput : Nat := 0x09
def endEncodeFault : Nat := 0x0A
def endAdapterFault : Nat := 0x0B
def endRecordFault : Nat := 0x0C

end Sys2Proof.Machine
end

