-- ==== Sys2Proof/Machine/State.lean ====
section
/-! DEFINITION. The state of one SK9: every register, store, queue, table, counter and port the manual names, as
plain data, unit by unit (Table 1-1), and the queue of waiting commands.

A field's default is its value at reset. Where the manual gives no reset value, notes/assumptions/2.md names the one
taken. Lists of (key, value) pairs hold only the keys whose value differs from the default. -/

namespace Sys2Proof.Machine

/-! ### Clocks and power units -/

/-- Power state of a vat bank or a strainer (R58, R394). -/
inductive Power where
  | off | goingOn | on | goingOff
deriving DecidableEq, Repr

/-- One bank's or strainer's power controls: its state, its request field and pin, and the acknowledge. -/
structure PowerUnit where
  st : Power := .off
  want : Bool := false                             -- the bit of VAT_PWR or STR_PWR (R377)
  req : Bool := false                              -- pwr_*_req
  ack : Bool := false                              -- pwr_*_ack
  later : Option Bool := none                      -- a change asked during a transition (R58, R394)
  stuck : Bool := false                            -- an acknowledge that never fell (R398)
  release : Bool := false                          -- strainer: power-down applied, waits under R110
  since : Nat := 0                                 -- AON count when the acknowledge began to be awaited (R398)
  changed : Option (Nat × Power) := none           -- CTL count of its last change of state, and the state before that cycle (R379)
deriving DecidableEq, Repr

/-! ### Fabric shell -/

/-- A step shape in force or pending (Table 2-1), with XALLOW already the value selected. -/
structure Shape where
  stepLen : Nat
  manDeadline : Nat
  ingestEnd : Nat
  xallow : Nat
  slots : Nat
  groupSize : Nat
  feedWidth : Nat
  draftRows : Nat
  shardBase : Nat
  shardLen : Nat
  format : Nat
deriving DecidableEq, Repr

inductive EntryKind where
  | idle | live | dry
deriving DecidableEq, Repr

/-- A manifest entry (Table 2-3). -/
structure Entry where
  kind : EntryKind := .idle
  spec : Bool := false
  prefill : Bool := false
  first : Bool := false
  feed : Nat := 0
  dryCause : Nat := 0
  adslot : Nat := 0
  noAdapter : Bool := true
  req : Handle := 0
  pos : Nat := 0
  tok0 : TokenId := tokNone
  step : Nat := 0
  pass : List Word := [0, 0, 0, 0, 0, 0, 0, 0]
deriving DecidableEq, Repr

/-- A token-port record (Table 2-4): TOK1 to TOK8, REQ and STEP. -/
structure TokRecord where
  toks : List TokenId := List.replicate 8 tokNone
  req : Handle := 0
  step : Nat := 0
deriving DecidableEq, Repr

/-- One manifest and token-port buffer pair (R25, R27): what firmware has written over the defaults. `early` marks the
override of R42. -/
structure Buffer where
  step : Nat
  shape : Shape
  cells : List (Nat × Entry × TokRecord) := []
  early : Bool := false
deriving DecidableEq, Repr

/-- A decoded tile header (Table 2-7). -/
structure Header where
  kind : Nat
  format : Nat
  posn : Nat
  step16 : Nat
  group : Nat
  gsize : Nat
  chunkFirst : Nat
  chunkLen : Nat
  bytes : Nat
deriving DecidableEq, Repr

/-- A queued header and the data beats bound to it so far (R35). -/
structure PendingHeader where
  hdr : Header
  beats : Nat := 0
  refused : Bool := false
  tile : Option Nat := none                        -- number of the stored tile, once allocated
deriving DecidableEq, Repr

/-- A stored tile (R48): its place in the RAW or DRAFT area and the slots it keeps. -/
structure Tile where
  num : Nat
  step : Nat
  group : Nat
  draft : Bool
  posn : Nat
  chunkFirst : Nat
  chunkLen : Nat
  area : Nat
  firstRow : Nat
  rows : Nat
  written : Nat := 0                               -- rows written so far, as published (R48)
  buf : List Byte := []                            -- stored bytes that do not make a whole row yet (R61)
  kept : List Nat                                  -- kept slots in slot order
  landed : Bool := false
deriving DecidableEq, Repr

/-- One row position of a group in the step in flight (R37, R39). -/
structure Position where
  group : Nat
  draft : Bool
  posn : Nat
  covered : Nat := 0                               -- entries covered by accepted headers
  landed : Nat := 0                                -- entries of tiles whose beats have all landed
  begun : Bool := false
deriving DecidableEq, Repr

/-- What the shell holds of a batch group in the step in flight. -/
structure Group where
  num : Nat
  dealt : Option (List (Nat × List Nat)) := none   -- kept slot, its team of strainers (R88)
  dropped : Bool := false                          -- later tiles of the group are dropped, and nothing of it is kept
  cut : Bool := false                              -- later tiles are dropped, what is stored stands (R41)
  full : Bool := false                             -- run dry under R20
  late : Option Nat := none                        -- FAB cycles beyond E + A of the last late beat (R41)
  crossing : Bool := false                         -- R39 ran it dry with cause CROSSING
deriving DecidableEq, Repr

/-- The fabric shell (02_fabric_shell_and_slot_manifest.md). -/
structure Shell where
  current : Option Buffer := none                  -- the entries of the step in flight, as issued
  serving : Option Buffer := none                  -- buffer pair that serves reads (R25)
  building : Option Buffer := none                 -- build buffer pair
  pendingShape : Option (Shape × Nat) := none      -- accepted shape and its first step (R24)
  step : Nat := 0                                  -- step in flight
  started : Bool := false                          -- the first fs_step_start has come (R418)
  frozen : Bool := false                           -- the freeze of this step has happened
  cutoff : Bool := false                           -- the mask cutoff of this build has passed (R198)
  deadline : Bool := false                         -- the decision of R39 has been made in this step
  held : List (Nat × BitVec 512 × BitVec 256) := []  -- writes held in the CTL-to-FAB queue (R26)
  missed : List (Nat × Nat) := []                  -- (step, slot) entries reported to firmware as missing the freeze
  headers : List PendingHeader := []
  positions : List Position := []
  groups : List Group := []
  tiles : List Tile := []
  nextTile : Nat := 0
  dry : List (Nat × Nat) := []                     -- (slot, cause) dry in the step in flight (R32)
  dryNext : List (Nat × Nat) := []                 -- the same for the step that the frozen buffer serves (R43)
  orphans : Nat := 0                               -- beats dropped since the last BEAT_ORPHAN entry
  dropped : Nat := 0                               -- logit beats dropped and counted before a shape (R418)
  stretches : Nat := 0                             -- stretched periods of the step (R40)
  startAon : Nat := 0                              -- AON count at the last fs_step_start
  lastLen : Nat := 0                               -- length of the last step in AON ticks (R40)
  lastStretches : Nat := 0
  startDiff : Int := 0                             -- recorded difference of the last step start (R42)
  corrected : Nat := 0                             -- correctable buffer errors counted (R34)
  errPulses : Nat := 0                             -- pulses given on fs_err
  engMarks : List Nat := []                        -- dry marks in the ENG-to-FAB queue: FAB counts at which they leave it (R387)
  -- Pins fs_man_data and fs_tok_data, as the last read returned them; at reset IDLE content with STEP 0 (Table 16-3).
  manData : BitVec 512 := 0xffffff00000000000000000000100000000000
  tokData : BitVec 512 :=
    0xffffffffffffffffffffffffffffffffffffffffffffffff0000000000000000ffffffffffffffffffffffffffffffffffffffffffffffff
deriving DecidableEq, Repr

/-! ### The vat -/

/-- A memory: byte cells in strictly rising address order, none equal to the byte 0 that an unlisted address reads. -/
abbrev Memory := List Host.Cell

/-- An area of the plan in force (Table 3-1). -/
structure Area where
  num : Nat
  use : Nat
  firstBank : Nat
  nbanks : Nat
  rows : Nat
deriving DecidableEq, Repr

inductive WinState where
  | free | opened | closed
deriving DecidableEq, Repr

/-- An inbound window entry (R53, R141, R142). -/
structure Window where
  st : WinState := .free
  stamp : BitVec 26 := 0
  opens : Nat := 0                                 -- count of the entry's openings, modulo 1,024
  die : Nat := 0
  area : Nat := 0
  firstRow : Nat := 0
  length : Nat := 0
  role : Nat := 0                                  -- 1 UP, 2 DOWN, 3 HOME, 4 ROOT
  peer : Nat := 0
  banks : List Nat := []                           -- banks its rows lay in
  closedAt : Nat := 0                              -- order of closing
  rejects : Nat := 0                               -- rejected writes counted (R55)
  logged : List (Nat × Nat) := []                  -- (response code, span) already logged (R55)
  marked : List Nat := []                          -- buffers marked by a header write (R144)
  released : List (Nat × Byte) := []               -- window row, tag recorded at the last release (R144)
deriving DecidableEq, Repr

/-- A corrected row waiting for its bank's write port (R62). -/
structure WriteBack where
  pra : Nat
  since : Nat                                      -- ENG count when it was queued
deriving DecidableEq, Repr

/-- The logit vat (03_logit_vat.md). -/
structure Vat where
  mem : Memory := []                               -- byte PRA * 128 + offset
  tags : Memory := []                              -- generation tag of row PRA (R44)
  -- Check bits of word PRA * 16 + w and parity bit of the tag of row PRA, each as its difference from those of a zero word
  -- and of tag 0 (R44).
  checks : Memory := []
  parity : Memory := []
  banks : List PowerUnit := List.replicate 64 {}
  mapOut : List Nat := []                          -- PRAs mapped out for this boot, ascending (R66)
  dead : List Nat := []                            -- banks treated as wholly mapped out (R67, R391)
  plan : List Area := []
  windows : List Window := List.replicate 64 {}
  closeCount : Nat := 0
  writeBacks : List WriteBack := []
  dropped : Nat := 0                               -- write-backs dropped and counted (R62)
  correctable : List (Nat × Nat) := []             -- correctable errors counted per row (R62, R65)
  uncorrectable : List Nat := []                   -- rows with an uncorrectable error since boot (R65)
  poisonLogged : List Nat := []                    -- rows logged in this step (R63)
  scrub : List Nat := List.replicate 64 0          -- next good index of each bank (R64)
deriving DecidableEq, Repr

/-! ### Strainers -/

/-- A list entry (Table 5-3): k32 and token ID. -/
structure ListEntry where
  key : Word
  id : TokenId
deriving DecidableEq, Repr

/-- The result record of Table 5-4 with SIG (R91). Counts are below 2^32. -/
structure Result where
  selstat : Word := 0
  valid : Nat := 0
  above : Nat := 0
  ties : Nat := 0
  tau : Word := 0
  lmax : Word := 0
  nancnt : Nat := 0
  count : Nat := 0
  block : Nat := 0
  sig : Nat := 0
deriving DecidableEq, Repr

/-- One strainer's share of a row's first pass (R92): entries counted so far, its histogram buffer (bucket and count, filled
buckets ascending), its floor, and its part of the survivor buffer (kn and local index). -/
structure Member where
  strainer : Nat
  counted : Nat := 0
  hist : List (Nat × Nat) := []
  floor : Option Nat := none
  survivors : List (Nat × Nat) := []
deriving DecidableEq, Repr

inductive RowStage where
  | landing      -- dealt: its first pass waits for a buffer or runs as tiles land
  | retained     -- first-pass figures delivered, raw rows held (R103)
deriving DecidableEq, Repr

/-- A bucket of a histogram: count and weight sum (R86). -/
structure Bucket where
  count : Nat := 0
  weight : Nat := 0
deriving DecidableEq, Repr

/-- Slab work of a row taken in looks (R111 to R114). -/
structure SlabState where
  look : Nat := 1
  upTo : Nat := 0                                  -- local entries merged in this look
  figures : Option (Nat × Nat × Word × Nat) := none -- VALID, NANCNT, LMAX, SIG of look 1
  list : List ListEntry := []                      -- running list of the look
  acc : Result := {}                               -- figures summed over the slabs of the look
  blkList : List ListEntry := []                   -- the same for an extend block asked for
  blkAcc : Result := {}
  hist : List Bucket := []                         -- running histogram of a row-pass look
  logged : Bool := false                           -- SLAB_ENTERED written for the request
deriving DecidableEq, Repr

/-- Work asked of a retained row (R105, R107): an extend block by number, or a row pass. -/
inductive RowWork where
  | block (n : Nat)
  | pass (q : PassReq)
deriving DecidableEq, Repr

/-- A piece of work asked for: its place in the order of request, and whether it holds a histogram buffer (R109). -/
structure Ask where
  work : RowWork
  order : Nat
  running : Bool := false
deriving DecidableEq, Repr

/-- A row position of a slot in a strainer or team. -/
structure Row where
  step : Nat
  slot : Nat
  posn : Nat                                       -- F + j for draft row j (R171)
  group : Nat
  draft : Bool                                     -- a row of KIND 2 tiles
  tposn : Nat                                      -- POSN of its tiles
  req : Handle
  drafts : List TokenId := []                      -- TOK1 to TOKj that the row follows (R122, R170)
  partner : Option Nat := none                     -- slot whose row gives the y of MIX (R123)
  begun : Bool := false                            -- its first pass has begun: it holds a histogram buffer (R86)
  shape : Shape                                    -- the shape its tiles were taken under
  team : List Nat
  k : Nat
  stage : RowStage := .landing
  members : List Member := []
  sovf : Bool := false                             -- SOVF (R93)
  list : List ListEntry := []                      -- list of the last block delivered
  res : Result := {}
  cursor : Option ListEntry := none                -- last entry of the last block (R104)
  made : Option Nat := none                        -- number of the last block made
  asks : List Ask := []                            -- work asked for and not done, in order of request (R109)
  passes : List (PassReq × List Bucket) := []      -- histograms kept in the WORK area (R133)
  slab : Option SlabState := none
deriving DecidableEq, Repr

/-- The strainers (05_radix_selection.md). -/
structure Strainers where
  units : List PowerUnit := List.replicate 16 {}
  usable : BitVec 16 := 0xFFFF                     -- UNITS_OK [15:0]
  rows : List Row := []
  asked : Nat := 0                                 -- order counter of requests for work (R109)
  cand : List (List ListEntry) := List.replicate 16 []  -- candidate registers, as the last collect left them (R86, R97)
  record : BitVec 256 := 0                         -- result record as last delivered (R99)
deriving DecidableEq, Repr

/-! ### Draw unit and verifier -/

/-- An operation of a logit program (Table 6-3), as loaded. -/
structure Op where
  opc : Nat
  sela : Nat
  selb : Nat
  selc : Nat
  a : Word
  b : Word
  c : Word
deriving DecidableEq, Repr

/-- A loaded logit program (R117). -/
structure Program where
  nanPass : Bool := false                          -- NAN_POLICY (Table 6-2)
  ops : List Op := []
deriving DecidableEq, Repr

/-- A bias list entry (Table 6-6): KIND 0 ADD, 1 BAN, 2 ALLOW. -/
structure BiasEntry where
  id : TokenId
  kind : Nat
  v : Word
deriving DecidableEq, Repr

/-- A sampling record (Table 6-1). -/
structure Sampling where
  prog : Nat := 0
  greedy : Bool := false
  hasPartner : Bool := false
  follow : Bool := false
  topk : Nat := 0
  topp : Nat := 0
  minp : Nat := 0
  partner : Handle := 0
  seed : BitVec 64 := 0
  param : List Word := [0, 0, 0, 0]
deriving DecidableEq, Repr

/-- A draw record (Table 6-8). -/
structure DrawRecord where
  selstat : Word := 0
  token : TokenId := tokNone
  greedy : Bool := false
  kcut : Bool := false
  mpcut : Bool := false
  pcut : Bool := false
  empty : Bool := false
  attempt : Nat := 0
  key : Word := 0
  weight : Nat := 0
  wnuc : Nat := 0
  target : Nat := 0
  nnuc : Nat := 0
  kminp : Word := 0
  rstep : Nat := 0
  invT : Word := 0
deriving DecidableEq, Repr

/-- A verification record (Table 8-5). ENDING: 0 RESIDUAL, 1 BONUS, 2 END, 3 EMPTY. -/
structure VerifyRecord where
  fed : Nat := 0
  accepted : Nat := 0
  ncommit : Nat := 0
  ending : Nat := 0
  rows : Bool := false
  fallback : Bool := false
  rejIndex : Nat := 0
  pRej : Nat := 0
  qRej : Nat := 0
  rtotal : Nat := 0
deriving DecidableEq, Repr

/-- The draw unit's stores (R115). -/
structure DrawUnit where
  programs : List (Nat × Program) := []
  bias : List (Nat × List BiasEntry) := []
  penalty : List (Nat × List (TokenId × Nat)) := []  -- slot, its list, most recent first (R122)
  records : List (Nat × BitVec 512) := []            -- last draw record delivered for each slot (R135)
  verifies : List (Nat × VerifyRecord) := []         -- last verification record (R177)
deriving DecidableEq, Repr

/-! ### Rennet -/

/-- A transition (Table 10-6). -/
structure Trans where
  byte : Nat
  top : Nat
  push : Nat
  any : Bool
  pop : Bool
  next : Nat
deriving DecidableEq, Repr

/-- A state entry (Table 10-5). -/
structure StateEntry where
  first : Nat
  count : Nat
  klo : Nat
  khi : Nat
  keyBase : Nat
deriving DecidableEq, Repr

/-- A key record (Table 10-7), as stored; `crcOk` says whether KCRC holds. -/
structure KeyRec where
  map : Nat
  accept : Bool
  dead : Bool
  hasCond : Bool
  present : Bool
  ncond : Nat
  nsucc : Nat
  cond : Nat                                       -- byte offset within COND
  succ : Nat                                       -- byte offset within SUCC
  state : Nat
  cls : Nat
  crcOk : Bool
deriving DecidableEq, Repr

/-- A grammar table image as its bytes decode (R220 to R225). The host keeps the region unchanged while it is loaded
(R189, R228), so what is read as needed is what stood there at the load. -/
structure Grammar where
  handle : Handle
  addr : BitVec 64 := 0
  vocabId : BitVec 64
  vocabLen : Nat
  start : Nat
  nsym : Nat
  nclass : Nat
  maxSucc : Nat
  nmaps : Nat
  nchunks : Nat
  condLen : Nat                                    -- bytes in COND
  succLen : Nat                                    -- bytes in SUCC
  secs : List Nat                                  -- section offsets, in the order of Table 10-4
  ends : List TokenId
  states : List StateEntry
  trans : List Trans
  klass : List Nat                                 -- 256 bytes of CLASS
  keys : List KeyRec
  conds : List TokenId
  succs : List (Nat × Nat)                         -- state, class
  maps : List (List Nat)
  chunks : List (List Byte)
  pinned : Nat                                     -- pinned pages (R230)
deriving DecidableEq, Repr

/-- Tuning of an image's prefetch depth (R201, R202) and its counts. -/
structure Tune where
  depth : Nat := 8                                 -- P_d
  steps : Nat := 0                                 -- steps in which the image had a commit
  commits : Nat := 0
  hits : Nat := 0
  prefetched : Nat := 0
  unused : Nat := 0
  faults : Nat := 0                                -- image faults counted (R203, R227)
  lastStep : Option Nat := none                    -- step of the last commit counted in `steps`
  changes : List (Nat × Nat) := []                 -- telemetry: step and new P_d of each change, newest first (R202)
deriving DecidableEq, Repr

/-- A grammar state (R183): state number and stack, top first. -/
structure GState where
  state : Nat
  stack : List Nat := []                           -- top first
deriving DecidableEq, Repr

/-- A cache entry or slot of rennet (R194, R195): what it holds, its pin count and its last use. -/
structure CacheItem where
  gidx : Nat
  gver : Nat
  kind : FillKind
  pins : Nat := 0
  used : Nat := 0                                  -- order of last use
  prefetched : Option Nat := none                  -- step it was prefetched in, until a commit uses it
deriving DecidableEq, Repr

/-- A rennet cellar read outstanding (R197), with its class of Table 1-4. -/
structure RennetRead where
  gidx : Nat
  gver : Nat
  kind : FillKind
  cls : Nat
  dead : Bool := false                             -- its handle has been released since (R190)
deriving DecidableEq, Repr

/-- The keys a slot's rows use in the step in flight or the next (R196), of one version of a grammar and for the shard that
they were pinned for. -/
structure SlotKeys where
  slot : Nat
  step : Nat
  keys : List (Nat × Nat × Nat)                    -- grammar index, state, class; position by position
  gver : Nat := 0
  base : Nat := 0
  len : Nat := 0
deriving DecidableEq, Repr

/-- Rennet (09_grammar_engine.md). -/
structure Rennet where
  images : List (Nat × Grammar) := []
  loading : List Nat := []
  tune : List (Nat × Tune) := []
  states : List CacheItem := []                    -- state cache
  chunks : List CacheItem := []                    -- chunk cache, maps and mask chunks
  reads : List RennetRead := []
  uses : Nat := 0                                  -- order counter of uses
  pinnedFor : List SlotKeys := []                  -- keys pinned, by slot and step
  corrected : Nat := 0
deriving DecidableEq, Repr

/-! ### Churn -/

/-- A token entry of a vocabulary with its string (Table 11-5). -/
structure VocabTok where
  off : Nat                                        -- OFFSET within STRINGS
  str : List Byte
  special : Bool
  ended : Bool
  fallback : Bool
  noenc : Bool
deriving DecidableEq, Repr

/-- A trie node (Table 11-6). -/
structure TrieNode where
  token : TokenId
  nchild : Nat
  first : Nat
deriving DecidableEq, Repr

/-- A pair slot (Table 11-6). -/
structure PairSlot where
  left : Nat
  right : Nat
  merged : Nat
  rank : Nat
  used : Bool
deriving DecidableEq, Repr

/-- A vocabulary image as its bytes decode (R240 to R243). -/
structure Vocab where
  addr : BitVec 64 := 0
  mode : Nat
  vocabId : BitVec 64
  maxTok : Nat
  nclass : Nat
  defClass : Nat
  pairBits : Nat
  secs : List Nat                                  -- section offsets, in the order of Table 11-4
  runMax : List Nat
  boundary : List Nat
  toks : List VocabTok
  byteTok : List TokenId
  specials : List TokenId
  ranges : List (Nat × Nat × Nat)                  -- first, last, class
  nodes : List TrieNode
  edges : List (Nat × Nat)                         -- byte, child
  pairs : List PairSlot
  gen : Nat := 0                                   -- load generation
  pinned : Nat := 0                                -- pinned lines (R259)
  faults : Nat := 0                                -- image faults counted (R246)
  faulted : List Nat := []                         -- fault kinds already logged for this load
deriving DecidableEq, Repr

/-- A stream options record (Table 11-1). -/
structure EncOptions where
  vidx : Nat := 0
  invalid : Nat := 0
  specials : Bool := false
  bytes : Bool := false
  destHost : Bool := false
  lang : Nat := 0
  dest : BitVec 64 := 0
  dcap : Nat := 0
deriving DecidableEq, Repr

/-- A token output entry (Table 11-2). -/
structure EncEntry where
  id : TokenId
  inv : Bool := false
  spc : Bool := false
  unk : Bool := false
deriving DecidableEq, Repr

/-- The counters of Table 11-13, in table order. -/
structure EncCounters where
  bytesIn : Nat := 0
  tokensOut : Nat := 0
  specials : Nat := 0
  invalidSeq : Nat := 0
  invalidBytes : Nat := 0
  unknownBytes : Nat := 0
  pieces : Nat := 0
  memoHits : Nat := 0
  misses : Nat := 0
deriving DecidableEq, Repr

/-- A buffer accepted for a stream and waiting (R235), with the command that its taking answers. -/
structure InBuffer where
  ids : Option (List TokenId)                      -- some for an IDS buffer
  ended : Bool
  host : Bool
  addr : BitVec 64
  len : Nat
  by_ : Sender
deriving DecidableEq, Repr

/-- The stream's text that churn has not yet turned into entries (R248, R256): source bytes held back, the carry at
their end, and how many bytes of the first character's text are written already (a token may end inside one, R252). -/
structure Pending where
  text : List Byte := []
  skip : Nat := 0
deriving DecidableEq, Repr

/-- A stream context (R232). -/
structure Stream where
  job : Option (Nat × Nat)                         -- generation and customer of an encode job; none for a request
  req : Handle := 0                                -- the request whose prompt it is
  opts : EncOptions
  queue : List InBuffer := []
  pending : Pending := {}
  got : Nat := 0                                   -- text bytes of the oldest waiting buffer encoded so far (R238)
  entries : List EncEntry := []                    -- entries written, in stream order
  reported : Nat := 0                              -- entries reported to CC1 and CC2 (R238)
  charged : Nat := 0                               -- entries charged (R319)
  ended : Bool := false                            -- an END buffer has been accepted
  waitFill : Option Nat := none                    -- line whose fill it waits for (R262)
  served : List Nat := []                          -- lines that landed for the buffer being taken (R260)
  lane : Option Nat := none
  laneStart : Nat := 0                             -- ENG count when it began to run
  counters : EncCounters := {}
deriving DecidableEq, Repr

/-- A line of the vocabulary cache (R258): an image line, or a memo of a piece (R255). -/
inductive LineTag where
  | image (vidx gen line : Nat)
  | memo (vidx gen : Nat) (piece : List Byte)
deriving DecidableEq, Repr

/-- A cache line: where it lies, its tag, its pin, its last use, and for a memo its tokens. -/
structure CacheLine where
  tag : LineTag
  set : Nat
  way : Nat
  pinned : Bool := false
  used : Nat := 0
  toks : List TokenId := []
deriving DecidableEq, Repr

/-- A fill (R260, R262): its line, the way chosen when it was issued, the streams that wait, the lane that missed, and
whether it has been issued. -/
structure Fill where
  vidx : Nat
  gen : Nat
  line : Nat
  set : Nat
  way : Option Nat := none
  streams : List Nat
  lane : Option Nat := none
  mask : BitVec 16 := 0xFFFF                       -- ways of the partition of the stream that asked
  issued : Bool := false
deriving DecidableEq, Repr

/-- Churn (11_tokenisation.md). -/
structure Churn where
  vocabs : List (Nat × Vocab) := []
  loading : List Nat := []
  gens : List (Nat × Nat) := []                    -- load generation of each index
  streams : List (Nat × Stream) := []              -- context index, stream
  jobGens : List (Nat × Nat) := []                 -- generation last given to each context
  stopped : List Handle := []                      -- tracked requests whose stream has ended or stopped
  masks : List (BitVec 16) := 0xFFFF :: List.replicate 15 0
  map : List Nat := List.replicate 256 0
  lock : Bool := false
  lines : List CacheLine := []
  fills : List Fill := []
  uses : Nat := 0
  misses : List Nat := List.replicate 16 0         -- misses of the epoch per partition (R261)
  missSums : List Nat := List.replicate 16 0       -- MISSES summed per partition (R265)
  sums : List (Nat × EncCounters) := []            -- counters summed per vocabulary index (R265)
  moves : Nat := 0                                 -- partition moves written to telemetry
  lanes : BitVec 16 := 0xFFFF                      -- usable lanes, UNITS_OK [31:16]
  laneErrors : List Nat := List.replicate 16 0     -- uncorrectable context errors since boot (R409)
  running : List (Nat × Nat) := []                 -- lane, context it runs
  corrected : Nat := 0
deriving DecidableEq, Repr

/-! ### Skimmer -/

/-- An output record (Table 12-3). -/
structure OutRecord where
  base : BitVec 64 := 0
  log2n : Nat := 6
  text : Bool := false
  tokens : Bool := false
  drop : Bool := false
  replace : Bool := false
  nospecial : Bool := false
  nopidx : Bool := false
  notify : Bool := false
  ctx : Nat := 0
  every : Nat := 0
  stop : Option Nat := none                        -- SSET when STOP = 1
  pidxAddr : BitVec 64 := 0
  cidxAddr : BitVec 64 := 0
deriving DecidableEq, Repr

/-- A pail entry before it gets its number (Tables 12-5 and 12-6): everything but PHASE. -/
structure PailEntry where
  kind : Nat                                       -- 1 TEXT, 2 TOKENS, 3 END, 4 LOSS
  inv : Bool := false
  count : Nat := 0
  nanm : Nat := 0
  nanwm : Nat := 0
  pos : Nat := 0
  payload : List Byte := []
deriving DecidableEq, Repr

/-- A request's skimmer context and pail (R267, R286 to R297). -/
structure Pail where
  carry : List Byte := []
  stopState : List Byte := []                      -- prefix of the stop automaton's state (R277)
  held : List (Byte × Bool) := []                  -- held bytes and their INV marks (R278)
  bytesScanned : Nat := 0                          -- output stream bytes so far
  bytesOut : Nat := 0                              -- bytes released, modulo 2^32
  tokensOut : Nat := 0
  withheld : Nat := 0
  lostBytes : Nat := 0
  stopped : Option (Nat × Bool) := none            -- string completed and its INCL
  ended : Bool := false                            -- END has been made
  p : Nat := 0                                     -- entries written, modulo 2^32
  c : Nat := 0                                     -- shadow of the consumer word
  spill : List PailEntry := []
  lossEntries : Nat := 0
  lossBytes : Nat := 0
  lossTokens : Nat := 0
  reading : Bool := false                          -- a consumer read is outstanding
  idxLogged : Bool := false                        -- CONSUMER_INDEX logged for the request
  failLogged : Bool := false
  closed : Bool := false
  invSeq : Nat := 0
  invBytes : Nat := 0
deriving DecidableEq, Repr

/-- A loaded stop set (R272): each string with its INCL. -/
structure StopSet where
  strs : List (List Byte × Bool)
  states : Nat
  edges : Nat
deriving DecidableEq, Repr

/-- A commit handed to the skimmer and not yet taken (R266): tokens, their NAN and NANWIN marks, and an end. -/
structure SkimWork where
  req : Handle
  toks : List (TokenId × Bool × Bool)
  finish : Option Nat := none                      -- end reason that the skimmer must flush for
deriving DecidableEq, Repr

/-- The skimmer (12_detokenisation_stop_strings_and_pails.md). -/
structure Skimmer where
  sets : List (Nat × StopSet) := []
  work : List SkimWork := []
  bells : List (Nat × Nat) := []                   -- context, AON time of its last doorbell (R293)
  bellsDue : List (Nat × Option Handle) := []      -- context and pail of events that its next doorbell carries (R293)
  bellsDropped : Nat := 0                          -- doorbells to detached contexts
  since : List (Nat × Nat) := []                   -- request, entries written to its pail since the last doorbell (R293)
deriving DecidableEq, Repr

/-! ### Collective engine -/

/-- The collective configuration (Table 7-1). Address words are (STAMP, WINDOW). -/
structure CollConfig where
  die : Nat
  rowset : Nat
  parent : Nat
  d : Nat
  ds : Nat
  height : Nat
  fmax : Nat
  rechecks : Nat
  np : Nat
  ownDown : Nat
  ownHome : Nat
  ownRoot : Nat
  hopNs : Nat
  nb : Nat
  parentAddr : Nat × Nat
  rootAddr : Nat × Nat
  selBudget : Nat
  firstStep : Nat
  children : List (Nat × Nat)                      -- die, this die's UP window for it
  spread : List (Nat × Nat × Nat)                  -- die, STAMP and WINDOW of its DOWN window
  homes : List (Nat × Nat × Nat)                   -- root only: die, STAMP and WINDOW of its HOME window
  bMax : Nat := 255                                -- B_max of R209 when the command was accepted
deriving DecidableEq, Repr

/-- One part of a merge (R148): a list, its record, and the dry mark it carries. -/
structure Part where
  list : List ListEntry := []
  res : Result := {}
  dryCause : Nat := 0
  missing : Nat := 0xFFFF
  hops : Nat := 0
  req : Handle := 0
  src : Nat := 0
deriving DecidableEq, Repr

/-- What a WALK message names (Table 7-7). -/
structure WalkMsg where
  wkind : Nat
  digit : Nat
  owner : Nat := 0xFFFF
  prefixV : Nat := 0
  lo : Nat := 0
  hi : Nat := 0
  km : Word := 0
  invT : Word := 0
  excl : List Nat := []
  target : Nat := 0
deriving DecidableEq, Repr

/-- What the root of a retained selection has learnt (R133, R154, R155): the gather's record, the passes made, the
entries found, and the entries the home rejected. The walks' next step follows from these. -/
structure RootWalk where
  res : Result
  done : List (WalkMsg × List Bucket) := []        -- summed histograms kept for the selection (R133)
  founds : List (WalkMsg × ListEntry × Nat × Nat) := []  -- entry, ACC and WEIGHT that FOUND gave
  removed : List ListEntry := []                   -- entries the home rejected (R155)
deriving DecidableEq, Repr

/-- One row position of one slot's selection, as the collective engine's slot table holds it (R148). -/
structure Sel where
  step : Nat
  slot : Nat
  posn : Nat
  k : Nat
  own : Option Part := none
  parts : List Part := []                          -- children's PARTIALs taken
  sent : Bool := false
  merged : Option Part := none                     -- at the home
  late : Bool := false                             -- its gather timer has expired (R159)
  tG : Nat := 0                                    -- ENG time that its timers run from: its last own tile, its own HIST (R158)
  early : List Part := []                          -- children's PARTIALs of the round to come
  hist : Option (List Bucket) := none              -- own histogram of the pass round in progress
  hists : List (Nat × List Bucket) := []           -- children's histograms, by child die
  histHops : Nat := 0                              -- the largest HOPS among them, plus 1 (R138)
  round : Nat := 0
  walk : Option WalkMsg := none                    -- pass this die is running
  root : Option RootWalk := none                   -- at the root of a retained selection
  tries : Nat := 0                                 -- at the home: entries rejected so far (R204)
  last : Option DrawRecord := none                 -- at the home: the last draw, whose entry was rejected (R135)
  waits : Bool := false                            -- waits for its pass buffer (R143)
  saved : Option RootWalk := none                  -- at the root: walks of a selection in slab looks, for the next look (R113)
  lateRound : Option Nat := none                   -- pass round that a timer has ended here (R160)
  endRound : Option Nat := none                    -- pass round that ended here with a dry mark (R113, R159)
  blk : Option Nat := none                         -- block round in progress or last made (R156); none in the gather
  cursor : Option ListEntry := none                -- at the root: last entry of the last block of the whole row (R156)
  block : Option Part := none                      -- at the home: the last block of a longer list (R156)
  taken : Bool := false                            -- at the home: its commit or dry result has been met (R18)
deriving DecidableEq, Repr

/-- An outbound message waiting in the WORK area (R144): its class of port priority, key and cells still to send. -/
structure OutMsg where
  cls : Nat                                        -- 1 highest to 4
  step : Nat
  slot : Nat
  posn : Nat
  stamp : Nat
  window : Nat
  base : Nat                                       -- byte offset of its buffer in the window
  cells : List (Nat × BitVec 512)                  -- cell index and content, header last
deriving DecidableEq, Repr

/-- The collective engine (07_rubewa_collective.md). -/
structure Collective where
  config : Option CollConfig := none
  prior : List CollConfig := []                    -- configurations before it, newest first, for selections they began (R140)
  pending : List CollConfig := []                  -- accepted, for later steps (R140)
  sels : List Sel := []
  outbox : List OutMsg := []
  lateLogged : List (Nat × Nat) := []              -- (die, step) logged as late (R160)
  loopLogged : Option Nat := none                  -- step in which a link loop was logged (R138)
  missLogged : List (Nat × Nat) := []              -- (die, step) logged missing (R159)
  missing : List (Nat × Nat × Nat) := []           -- die, consecutive steps it was missing from gathers, the last of them (R161)
  lost : List Nat := []                            -- dies lost under the configuration in force (R161)
  dry : List (Nat × Nat) := []                     -- slot table: slot and cause of dry marks that the shell never got (R148, R387)
  lateCount : Nat := 0
  gsum : List (Nat × Nat) := []                    -- slot, grammar state record of its last DECISION (R187, R188)
  homeOf : List (Nat × Nat) := []                  -- slot, die that sent its last DECISION
  sampling : List (Nat × Sampling) := []           -- slot, sampling record a FIRST decision gave (R147)
  rsteps : List (Nat × Nat) := []                  -- slot of another home, RSTEP of its request, counted from its decisions (R129)
  records : List (Nat × BitVec 512) := []          -- slot, draw record that this root formed last (R155)
deriving DecidableEq, Repr

/-! ### Requests -/

inductive ReqState where
  | encoding | waiting | slotted | paused | ending
deriving DecidableEq, Repr

/-- A speculation record (Table 8-1). -/
structure SpecRecord where
  src : Nat := 0
  dmax : Nat := 0
  dinit : Nat := 0
  lookupN : Nat := 0
  low : Nat := 0
  high : Nat := 0
deriving DecidableEq, Repr

/-- The counters of the telemetry record (Table 13-9) that no other field holds. -/
structure Telemetry where
  tAdmit : Nat := 0
  tFirstLive : Nat := 0
  tFirstToken : Nat := 0
  tLastCommit : Nat := 0
  tEnd : Nat := 0
  waitTicks : Nat := 0
  pausedTicks : Nat := 0
  charged : Nat := 0
  inputTokens : Nat := 0
  stepsLive : Nat := 0
  maxGap : Nat := 0
  dry : List Nat := List.replicate 12 0
  specSteps : Nat := 0
  draftsFed : Nat := 0
  draftsAccepted : Nat := 0
  draftsWasted : Nat := 0
  draftsLostDry : Nat := 0
  staleSets : Nat := 0
  noDraftSteps : Nat := 0
  rechecks : Nat := 0
  settles : Nat := 0
  slabLooks : Nat := 0
  nanRows : Nat := 0
  nanWin : Nat := 0
  wastedRows : Nat := 0                            -- rows selected for nothing (R176)
  churn : EncCounters := {}
deriving DecidableEq, Repr

/-- What firmware has settled of a request's next entry while it builds it: the step, the drafts chosen at the start of the
build with the grammar states after them (R169), and whether the ready test has passed (R198). -/
structure NextBuild where
  step : Nat
  drafts : List TokenId := []
  path : List GState := []
  ready : Bool := false
deriving DecidableEq, Repr

/-- A tracked request (R299 to R316). -/
structure Request where
  handle : Handle
  customer : Nat := 0
  evictable : Bool := false
  maxOut : Nat := 0
  maxPos : Nat := 0
  telemAddr : BitVec 64 := 0
  sampling : Sampling := {}
  spec : SpecRecord := {}
  opts : EncOptions := {}
  out : OutRecord := {}
  pass : List Word := []
  grammar : Option Handle := none
  gstate : Option GState := none
  startKey : Bool := false                         -- the grammar state is still its start state (R420)
  switchTo : Option (Option (Handle × Nat)) := none  -- SET_GRAMMAR accepted, not yet taken (R192)
  st : ReqState := .encoding
  slot : Option Nat := none
  cancel : Bool := false                           -- ends at its next commit or dry result (R313)
  endReason : Nat := 0
  streamEnded : Bool := false
  prompt : List TokenId := []                      -- prompt tokens reported (R238)
  fed : Nat := 0                                   -- prompt tokens fed
  pos : Nat := 0                                   -- next position to feed
  last : Option TokenId := none                    -- token committed last
  outToks : List TokenId := []                     -- committed output tokens
  rstep : Nat := 0                                 -- steps with a commit (R129)
  posted : Option (Nat × List TokenId) := none     -- POS0 and tokens of the posted set (R167)
  dcur : Nat := 0                                  -- current draft length (R179)
  window : List (Nat × Nat) := []                  -- FED and ACCEPTED of the last steps (R179)
  pathStates : List GState := []                   -- grammar states after TOK1 to TOKj of the entry built (R208)
  building : Option NextBuild := none              -- the build of its next entry, once begun (R169, R198)
  unwritten : Option Nat := none                   -- step whose entry is not written: its verdict came after the cutoff (R282)
  penalty : List (TokenId × Nat) := []             -- list kept while it holds no slot (R122)
  untold : List TokenId := []                      -- tokens committed since its slot's last DECISION (R147)
  eligible : Nat := 0                              -- order in which it became eligible (R326)
  turnSteps : Nat := 0                             -- steps since it was last picked (R323)
  hot : Bool := true                               -- its record lies in the hot table (R301)
  moving : Bool := false                           -- its record is moving (R301)
  lastUse : Nat := 0                               -- order of last use, for R302
  adapter : Handle := 0                            -- version bound, exact; 0 for none
  verdict : Bool := true                           -- the skimmer has given its verdict on the last commit (R282)
  noWork : Bool := false                           -- NO_WORK_AREA written (R412)
  since : Nat := 0                                 -- AON count when its state began
  firstIssued : Bool := false                      -- its first entry in this slot has been issued
  pail : Pail := {}
  tele : Telemetry := {}
deriving DecidableEq, Repr

/-- What a draw or verification decided for a slot of the step in flight, until its commit (R18). -/
structure Decided where
  slot : Nat
  toks : List TokenId                              -- tokens to commit, in order
  state : Option GState := none                    -- grammar state after the last (R207)
  record : DrawRecord := {}
  verify : Option VerifyRecord := none
  drained : Bool := false                          -- the draw ended empty (R131, R132)
  reason : Nat := 0                                -- end reason that an empty draw gives
  nans : List Bool := []                           -- NANWIN of each token (R77)
  rechecks : Nat := 0
  settles : Nat := 0
  wasted : Nat := 0
deriving DecidableEq, Repr

/-- Request tracking and commits, the work of CC1 (13_requests_rations_and_adapters.md). -/
structure Requests where
  table : List (Nat × Request) := []               -- index, request; ascending index
  gens : List (Nat × Nat) := []                    -- generation last carried by each index
  home : Nat × Nat := (0, 0)                       -- first homed slot and count in force (R303)
  nextHome : Option (Nat × Nat) := none            -- accepted, for the next build
  decided : List Decided := []
  settled : List Nat := []                         -- slots of the step in flight whose commit or dry result is known (R18)
  order : Nat := 0                                 -- order counter of eligibility and use
deriving DecidableEq, Repr

/-! ### Rations and arbiters -/

/-- A configured customer (R317, R318, R321, R325). -/
structure Customer where
  pool : Nat
  weight : Nat
  rate : Nat
  burst : Nat
  iw : Nat
  hard : Bool
  level : Int
  frac : Nat := 0
  t : Nat := 0                                     -- AON count of the last charge
  nextRate : Option (Nat × Nat × Nat) := none      -- RATE, BURST, IW from the next charge
  next : Option (Nat × Nat × Bool) := none         -- POOL, WEIGHT, HARD from the next build
  pass : Nat := 0
  backlogged : Bool := false
  k : Nat := 256
  nextK : Option Nat := none                       -- factor from the next build (R325)
  s : Nat := 0                                     -- s_c and d_c of the last epoch
  d : Nat := 0
  service : Nat := 0                               -- D_c of the epoch so far (R324)
  inQ : Bool := true                               -- held every build of the epoch so far
deriving DecidableEq, Repr

/-- A pool (Table 13-7). -/
structure Pool where
  weight : Nat := 1
  turn : Nat := 0
  next : Option (Nat × Nat) := none                -- WEIGHT and TURN from the next build
  pass : Nat := 0
  backlogged : Bool := false
deriving DecidableEq, Repr

/-- Rations, the work of CC2. -/
structure Rations where
  customers : List (Nat × Customer) := []
  pools : List Pool := List.replicate 16 {}
  maxDev : Nat := 0                                -- the figure of the last epoch (R325)
  builds : Nat := 0                                -- manifest builds of the epoch
deriving DecidableEq, Repr

/-! ### Adapter steward -/

/-- An adapter version in the version table (R330), with the library entry copied (Table 13-10). -/
structure Version where
  handle : Handle
  owner : Nat
  shared : Bool
  bytes : Nat
  addr : BitVec 64
  refs : Nat := 0
  rslot : Option Nat := none
  resident : Bool := false
  faulted : Bool := false
  fails : Nat := 0
  lateFor : Option Nat := none                     -- step for whose entries it became resident too late (R335)
deriving DecidableEq, Repr

/-- A gather descriptor written and not yet known finished (Table 13-11). -/
structure Gather where
  seq : Nat
  rslot : Nat
  version : Handle
deriving DecidableEq, Repr

/-- Configuration by SET_ADAPTER_POOL (R331). -/
structure AdapterPool where
  library : BitVec 64
  rslots : Nat
  log2g : Nat
  eventCtx : Nat
  slotBytes : Nat
  gring : BitVec 64
  doneAddr : BitVec 64
deriving DecidableEq, Repr

/-- The adapter steward, the work of CC3. -/
structure Steward where
  pool : Option AdapterPool := none
  versions : List Version := []
  gathers : List Gather := []
  seq : Nat := 0                                   -- SEQ of the next descriptor, modulo 2^32
  done : Nat := 0                                  -- DONE as last read
  fails : Nat := 0                                 -- FAILS as last read
  reading : Bool := false
  named : List (Nat × Nat) := []                   -- residency slot, last step whose manifest names it (R334)
deriving DecidableEq, Repr

/-! ### Control cores, boot and mailboxes -/

/-- Fuse values (R345, R369, R417), which no reset changes. -/
structure Fuses where
  strainers : BitVec 16 := 0xFFFF
  lanes : BitVec 16 := 0xFFFF
  rows : List (BitVec 17) := []
  minSvn : Nat := 0
  digests : List (List Byte) := [[], [], [], []]   -- SHA-384 of the key in each slot
  revoked : BitVec 4 := 0
  writing : Option (Nat × Nat) := none             -- a fuse write in progress: 0 SVN or 1 KEYREV, and its value
deriving DecidableEq, Repr

/-- A boot-failure record (Table 14-6). -/
structure BootFail where
  time : Nat
  cause : Nat
  stage : Nat
  fwVersion : Word
  detail0 : Word
  detail1 : Word
deriving DecidableEq, Repr

/-- Control cores and boot (14_control_cores_boot_and_commands.md). `stage` is STAGE of BOOT_STATUS. -/
structure Boot where
  stage : Nat := 0
  halt : Bool := false
  bip : Bool := false
  fcount : Nat := 0
  fails : List BootFail := []                      -- most recent first, at most three
  roles : List (Option Nat) := List.replicate 5 none  -- physical core of CC0 to CC4
  passed : BitVec 5 := 0
  failedRole : Option (Nat × Nat × Nat) := none    -- role, failed core, cause: waiting for the spare (R340)
  progress : Word := 0                             -- FW_PROGRESS where no firmware runs: the last code posted (Table 15-9)
  imageLen : Word := 0                             -- IMAGE_LEN
  goLen : Word := 0
  repair : List Word := []                         -- repair intake (R373)
  repairOvf : Bool := false
  taken : List Word := []                          -- repair list as taken at GO
  takenOvf : Bool := false
  repairN : Nat := 0
  repairSt : Nat := 0
  fwVersion : Word := 0                            -- version of the image running
  entry : Word := 0                                -- ENTRY the cores were started at
  core : List Host.Cell := []                      -- core code region, as loaded (Table 14-3)
  data : List Host.Cell := []                      -- firmware data region
  running : Bool := false                          -- the cores run firmware
  resetKind : Nat := 2                             -- 1 warm, 2 cold: for the RESET entry (R393)
  voided : Nat := 0                                -- log entries made void (R405)
  reached : Nat := 0                               -- stage that a reset cut short while BIP was set (AON, R343)
  stuckAcks : List Nat := []                       -- units whose acknowledge was 1 at the end of step 3 (R391)
  resetAon : Nat := 0                              -- AON time of the last reset's assertion (R393)
  goUndo : Option (Nat × Nat × Bool × Nat) := none -- last GO: CTL and AON counts, BIP and FCOUNT before it (R372)
deriving DecidableEq, Repr

/-- A command taken from a context's slots (R352). -/
structure Taken where
  bytes : List Byte
  ladles : Nat := 0
  loading : Bool := false                          -- a load whose first ladle has run (R228, R244)
  accepted : Bool := false                         -- an APPEND_INPUT accepted into its queue (R359)
deriving DecidableEq, Repr

/-- A ring entry waiting to be written: KIND, CODE, STATUS, TAG, LADLES and body (Table 14-8), and whether the command after
it may start before it is written (R359). -/
structure RingEntry where
  kind : Nat
  code : Nat
  status : Nat
  tag : Word
  ladles : Nat
  body : List Byte
  early : Bool := false
deriving DecidableEq, Repr

/-- A host context (R350 to R357, Table 15-13). -/
structure Context where
  attached : Bool := false
  ring : BitVec 64 := 0
  cidxAddr : BitVec 64 := 0
  log2r : Nat := 4
  notify : Bool := false
  wantLost : Bool := false
  wantFailover : Bool := false
  p : Nat := 0
  c : Nat := 0
  waiting : List RingEntry := []                   -- responses waiting for room
  lost : Nat := 0                                  -- events dropped since the last EVENTS_LOST
  reading : Bool := false
  idxLogged : Bool := false
  doorbell : Nat := 0
  taken : Nat := 0                                 -- TAKEN
  dropped : Nat := 0
  ignored : Nat := 0
  lastRefusal : Nat := 0
  cmds : List Taken := []                          -- taken and unanswered
  rung : List Nat := []                            -- doorbells that wait for CC0's new core, oldest first (R376)
deriving DecidableEq, Repr

/-- A SET_POWER that waits for its units (R397). -/
structure PowerWait where
  by_ : Sender
  banks : BitVec 64
  strainers : BitVec 16
deriving DecidableEq, Repr

/-- The mailboxes. -/
structure Mailbox where
  ctxs : List Context := List.replicate 256 {}
  windows : Memory := []                           -- mailbox-context region: command windows and staging window (R364)
  rr : List Nat := [255, 255, 255, 255]            -- context each role's core served last (R358)
  power : List PowerWait := []
  detaches : List (Sender) := []                   -- DETACHes that wait for earlier commands (R356)
deriving DecidableEq, Repr

/-! ### Registers, log and test access -/

/-- Error capture and the other block registers (15_register_map.md). -/
structure Regs where
  errStatus : Word := 0
  errCode : Nat := 0
  errBit : Nat := 0
  errInfo : Word := 0
  errCount : Nat := 0
  errTime : Nat := 0
  errCycle : Nat := 0                              -- CTL count of the errors recorded last (R381)
  errBits : Word := 0                              -- bits set in that cycle
  errOld : Word := 0                               -- ERR_STATUS before that cycle's errors set their bits
  errCand : Option (Nat × Nat × Word × Nat) := none  -- bit, code, detail and time of its lowest bit
  stageDrops : Nat := 0                            -- STAGING
  windowDrops : Nat := 0                           -- WINDOWS
  pwrStatus : Nat := 0                             -- PWR_RESULT.STATUS
  banksOk : BitVec 64 := 0
  mapoutRows : Nat := 0
  readData : BitVec 64 := 0                        -- data of the last register read answered
  accessLogged : Option Nat := none                -- CTL count of the last ACCESS_DROPPED entry (R404)
  stagingLogged : Option Nat := none
  accDropped : Bool := false                       -- the last access was dropped: STATUS 1 of Table 17-7
deriving DecidableEq, Repr

/-- A request for a log entry (R402, R403). -/
structure LogReq where
  time : Nat
  code : Nat
  slot : Option Nat := none
  d0 : Word := 0
  d1 : Word := 0
  d2 : Word := 0
deriving DecidableEq, Repr

/-- An entry of the trouble log (Table 17-1). -/
structure LogEntry where
  seq : Nat
  req : LogReq
deriving DecidableEq, Repr

/-- The trouble log (R401). -/
structure Log where
  entries : List LogEntry := []                    -- oldest first; HELD is its length
  next : Nat := 0                                  -- NEXT, modulo 2^32
  pending : List LogReq := []                      -- requests CC0 holds, at most 256
  lost : Nat := 0                                  -- requests counted and not written (R403)
  wrote : Option Nat := none                       -- CTL count of the last entry written (R403)
deriving DecidableEq, Repr

/-- The IEEE 1500 wrapper (R414 to R417). -/
structure Wrapper where
  wir : Nat := 0
  regData : Word := 0                              -- SK_REG DATA captured
  regStatus : Nat := 0                             -- SK_REG STATUS captured
  running : Bool := false                          -- MBIST runs
  done : Bool := false
  failing : List Nat := []                         -- failing vat rows not yet popped, ascending
  found : Nat := 0
  other : Bool := false
  spoiled : Bool := false                          -- the test has destroyed the SRAMs: next sequence is cold
  capture : Word := 0                              -- SK_MBIST as the last capture loaded it
deriving DecidableEq, Repr

/-- What a cellar command serves: an item of rennet's caches, a line of churn's, a request's record, an image that a
command loads. -/
inductive CelUse where
  | item (gidx gver : Nat) (kind : FillKind)
  | line (vidx gen line : Nat)
  | record (index : Nat)
  | image (by_ : Sender)
deriving DecidableEq, Repr

/-- A command of the cellar port (Table 1-3), with its class of Table 1-4: its tag once the port has issued it. -/
structure CelCmd where
  use : CelUse
  cls : Nat
  wr : Bool
  addr : Nat
  beats : Nat
  tag : Option Nat := none
deriving DecidableEq, Repr

/-- What the block has put out on its ports: host-memory and cellar writes in the order issued, doorbell interrupts,
Rubewa writes and the last response to an inbound one, host words asked for, and the cellar commands that wait or are
outstanding, in order of age. -/
structure Ports where
  host : List (BitVec 64 × List Byte) := []
  cellar : List (BitVec 64 × List Byte) := []
  irq : List Nat := []
  tx : List (BitVec 64 × BitVec 512) := []
  rxResp : Nat := 0
  reads : List (BitVec 64) := []                   -- host words asked for (consumer and done words)
  cel : List CelCmd := []                          -- cellar commands not completed: at most 1,024 issued (R13)
  celIssued : List CelCmd := []                    -- cellar commands issued so far, in order
  celPassed : Nat := 0                             -- beats granted since the last of classes 3 to 5 (R16)
deriving DecidableEq, Repr

/-! ### One CTL cycle at the registers (R379, R382) -/

/-- What a register power write can change, but for the answers it lets SET_POWER give. -/
structure PowerSnap where
  banks : List PowerUnit
  units : List PowerUnit
  regs : Regs
  log : Log
deriving DecidableEq, Repr

/-- The register power writes of one CTL cycle, as units asked and offsets, with the state before the first and after the
last: a SET_POWER ladle or a vat plan of the same cycle comes before them (R379). -/
structure PowerCycle where
  ctl : Nat
  acts : List (List (Nat × Bool) × Nat)
  before : PowerSnap
  after : PowerSnap
deriving DecidableEq, Repr

/-- A host-link access to a register. -/
structure HostAct where
  write : Bool
  offset : Nat
  size : Nat
  value : BitVec 64
deriving DecidableEq, Repr

/-- What a register access can change. -/
structure HostSnap where
  latch : Word
  fchg : Bool
  power : Option PowerCycle
  banks : List PowerUnit
  units : List PowerUnit
  boot : Boot
  mbox : Mailbox
  regs : Regs
  log : Log
  ports : Ports
deriving DecidableEq, Repr

/-- The host-link register accesses of one CTL cycle, with the state before the first and after the last: a wrapper access of
the same cycle comes before them (R382, R415). -/
structure HostCycle where
  ctl : Nat
  acts : List HostAct
  before : HostSnap
  after : HostSnap
deriving DecidableEq, Repr

/-- The counts the commands move (R40, R42, R389 to R392), the clock monitor (R385), and what the CTL cycle of the last access
has seen (R379, R382). -/
structure Clocks where
  fab : Nat := 0                                   -- FAB cycle of the step in flight, in the shell's own count
  eng : Nat := 0
  ctl : Nat := 0
  aon : Nat := 0                                   -- AON count of 10 ns (64 bits, R6)
  fabMHz : Nat := 1500                             -- FAB frequency in force (R40)
  tsLatch : Word := 0                              -- upper half that TS_HI shows (Table 15-24)
  alive : BitVec 6 := 0                            -- CLK_ALIVE (Table 15-14)
  inReset : BitVec 6 := 0x3F                       -- IN_RESET (Table 15-14)
  fchg : Bool := false                             -- FCHG (Table 15-14)
  lost : List Nat := []                            -- domains whose loss is not yet logged (R385)
  rstDone : Bool := false                          -- pin rst_done
  seq : Nat := 0                                   -- last step of Table 16-4 that has run
  coldLow : Bool := true                           -- rst_cold_n is asserted
  warmLow : Bool := false                          -- rst_warm_n is asserted
  cold : Bool := true                              -- the sequence in progress runs as cold (R389)
  power : Option PowerCycle := none                -- register power writes of one CTL cycle (R379)
  host : Option HostCycle := none                  -- host register accesses of one CTL cycle (R382)
deriving DecidableEq, Repr

/-- The state of one SK9. `free` is the model's own counter of free values drawn, no state of the manual. -/
structure State where
  clk : Clocks := {}
  shell : Shell := {}
  vat : Vat := {}
  str : Strainers := {}
  drw : DrawUnit := {}
  ren : Rennet := {}
  churn : Churn := {}
  skim : Skimmer := {}
  coll : Collective := {}
  reqs : Requests := {}
  rat : Rations := {}
  stw : Steward := {}
  fuses : Fuses := {}
  boot : Boot := {}
  mbox : Mailbox := {}
  regs : Regs := {}
  log : Log := {}
  wrap : Wrapper := {}
  ports : Ports := {}
  free : Nat := 0
  pending : List Instr := []
deriving DecidableEq, Repr

/-- Why the machine would stop with a fault. -/
inductive Fault where
  /-- A command that names a physical row beyond the vat's 131,072. No meaning raises it: the operands that name rows
  are 17 bits wide and R46 refuses an area row beyond its capacity. Safe. -/
  | vatRange
deriving DecidableEq, Repr

/-- Why a command would be refused. -/
inductive Refusal where
  /-- Raised by an arm of exec whose command has no meaning yet. Safe. -/
  | notModelled (mnemonic : String)
deriving DecidableEq, Repr

/-- The block at the assertion of its first cold reset: every register at its reset value, no unit powered, every
queue empty. -/
def State.reset : State := {}

end Sys2Proof.Machine
end

