-- ==== Sys2Proof/Machine/GrammarImage.lean ====
section
/-! DEFINITION. Grammar table images: layout and load checks (R220 to R230). -/

namespace Sys2Proof.Machine

/-- Cut a list into runs of n, the last one possibly shorter; `fuel` bounds the runs. -/
def chunksOf {α : Type} (n : Nat) : Nat → List α → List (List α)
  | 0, _ => []
  | f + 1, l => match l with
    | [] => []
    | _ => l.take n :: chunksOf n f (l.drop n)

/-- Records of n bytes in a byte run, each as a number. -/
def recordsOf (n : Nat) (bs : List Byte) : List Nat := (chunksOf n (bs.length / n + 1) bs).map leNat

/-- Bytes [off, off + len) of an image. -/
def cut (bs : List Byte) (off len : Nat) : List Byte := (bs.drop off).take len

/-- The counts and sections that the image header gives (Table 10-3). -/
structure GramHeader where
  len : Nat
  flags : Nat
  vocabId : Nat
  vocabLen : Nat
  nstates : Nat
  start : Nat
  nsym : Nat
  nclass : Nat
  nend : Nat
  maxSucc : Nat
  ntrans : Nat
  nkeys : Nat
  nmaps : Nat
  nchunks : Nat
  sections : List (Nat × Nat)
  ends : List Nat
deriving DecidableEq, Repr

/-- The header of Table 10-3. -/
def gramHeader (p : List Byte) : GramHeader :=
  let nend := leAt p 0x26 1
  { len := leAt p 8 4, flags := leAt p 0xC 4, vocabId := leAt p 0x10 8, vocabLen := leAt p 0x18 4, nstates := leAt p 0x1C 4,
    start := leAt p 0x20 4, nsym := leAt p 0x24 1, nclass := leAt p 0x25 1, nend := nend, maxSucc := leAt p 0x27 1,
    ntrans := leAt p 0x28 4, nkeys := leAt p 0x2C 4, nmaps := leAt p 0x30 4, nchunks := leAt p 0x34 4,
    sections := (List.range 8).map (fun i => (leAt p (0x40 + 8 * i) 4, leAt p (0x44 + 8 * i) 4)),
    ends := (List.range nend).map (fun i => leAt p (0x80 + 4 * i) 4) }

/-- Pinned pages of an image (Table 10-9). -/
def pinnedPagesOf (h : GramHeader) : Nat := ceilDiv (8 * h.nstates) 512 + ceilDiv (8 * h.ntrans) 512 + 1

/-- The next page boundary at or after an offset. -/
def pageUp (x : Nat) : Nat := ceilDiv x 512 * 512

/-- Whether each section begins at the first page boundary at or after the end of the one before (R220); answers the
end of the last one. -/
def sectionsEnd : List (Nat × Nat) → Nat → Option Nat
  | [], e => some e
  | (o, l) :: r, e => if o = pageUp e then sectionsEnd r (o + l) else none

/-- Check 4 of Table 10-8. -/
def gramCounts (p : List Byte) (h : GramHeader) : Bool :=
  let len := fun i => (h.sections.getD i (0, 0)).2
  decide (h.flags % 4 < 3) && h.flags / 4 == 0 && leAt p 0x3C 4 == 0 && leAt p 0x1B0 72 == 0
    && decide (1 ≤ h.nstates) && decide (h.nstates ≤ 1048576) && decide (h.ntrans ≤ 524288)
    && decide (h.nclass ≤ 63) && (h.nclass != 0 || h.nsym == 0) && decide (h.nend ≤ 64) && decide (h.maxSucc ≤ 64)
    && decide (h.nkeys ≤ 4194304) && decide (h.nmaps ≤ 1048576) && decide (h.nchunks ≤ 65534)
    && decide (pinnedPagesOf h ≤ Config.imagePages)
    && len 0 == 8 * h.nstates && len 1 == 8 * h.ntrans && len 2 == 256 && len 3 == 64 * h.nkeys
    && len 4 % 4 == 0 && len 5 % 4 == 0 && len 6 == 512 * h.nmaps && len 7 == 512 * h.nchunks
    && (match sectionsEnd h.sections 512 with | some e => decide (e ≤ h.len) | none => false)

/-- A state entry (Table 10-5). -/
def stateEntryOf (x : Nat) : StateEntry := ⟨bits x 0 19, bits x 19 9, bits x 28 6, bits x 34 6, bits x 40 22⟩

/-- A transition (Table 10-6). -/
def transOf (x : Nat) : Trans := ⟨bits x 0 8, bits x 8 8, bits x 16 8, bit x 24, bit x 25, bits x 32 20⟩

/-- A key record (Table 10-7). -/
def keyRecOf (x : Nat) : KeyRec :=
  ⟨bits x 0 20, bit x 20, bit x 21, bit x 22, bit x 23, bits x 24 12, bits x 36 7, bits x 64 32, bits x 96 32, bits x 128 20,
   bits x 148 6, decide (bits x 480 32 = crcOf 60 x)⟩

/-- The order of R222 as one number, (BYTE, ANY, TOP). -/
def transOrder (t : Trans) : Nat := t.byte * 512 + b2n t.any * 256 + t.top

/-- Check 6 of Table 10-8. -/
def gramStates (h : GramHeader) (states : List StateEntry) : Bool :=
  decide (h.start < h.nstates) && states.all (fun e => decide (e.first + e.count ≤ h.ntrans)
    && (decide (e.khi < e.klo) || (decide (e.khi ≤ h.nclass) && decide (e.keyBase + (e.khi - e.klo) < h.nkeys))))

/-- Check 7 of Table 10-8: each transition by itself, then the order within each state. -/
def gramTrans (h : GramHeader) (raw : List Nat) (trans : List Trans) (states : List StateEntry) : Bool :=
  raw.all (fun x => bits x 26 6 == 0 && bits x 52 12 == 0)
    && trans.all (fun t => decide (t.next < h.nstates) && decide (t.top ≤ h.nsym) && decide (t.push ≤ h.nsym)
        && (!t.any || t.top == 0) && !(!t.any && t.top == 0 && t.pop))
    && states.all (fun e => rising (((trans.drop e.first).take e.count).map transOrder))

/-- Check 8 of Table 10-8. -/
def gramClasses (h : GramHeader) (klass : List Nat) : Bool :=
  klass.getD 0 0 == 0
    && (List.range 256).all (fun i => let c := klass.getD i 0
      i == 0 || (if i ≤ h.nsym then decide (1 ≤ c) && decide (c ≤ h.nclass) else c == 0))
    && h.ends.all (fun t => decide (t < h.vocabLen)) && decide h.ends.Nodup

/-- The image as its bytes decode. -/
def gramOf (handle : Handle) (addr : BitVec 64) (bs : List Byte) (h : GramHeader) : Grammar :=
  let sec := fun i => let s := h.sections.getD i (0, 0); cut bs s.1 s.2
  { handle := handle, addr := addr, vocabId := BitVec.ofNat 64 h.vocabId, vocabLen := h.vocabLen, start := h.start,
    nsym := h.nsym, nclass := h.nclass, maxSucc := h.maxSucc, nmaps := h.nmaps, nchunks := h.nchunks,
    condLen := (h.sections.getD 4 (0, 0)).2, succLen := (h.sections.getD 5 (0, 0)).2,
    secs := h.sections.map (fun s => s.1),
    ends := h.ends.map (fun t => BitVec.ofNat 24 t),
    states := (recordsOf 8 (sec 0)).map stateEntryOf, trans := (recordsOf 8 (sec 1)).map transOf,
    klass := (sec 2).map (fun b => b.toNat), keys := (recordsOf 64 (sec 3)).map keyRecOf,
    conds := (recordsOf 4 (sec 4)).map (fun x => BitVec.ofNat 24 x),
    succs := (recordsOf 4 (sec 5)).map (fun x => (bits x 0 20, bits x 20 6)),
    maps := (chunksOf 512 h.nmaps (sec 6)).map (recordsOf 2), chunks := chunksOf 512 h.nchunks (sec 7),
    pinned := pinnedPagesOf h }

/-- R226: the checks of Table 10-8 in order. `bs` is `none` when a cellar read failed; `vocabLoaded` says whether a
vocabulary with an identifier and length is loaded; `pages` are the pinned pages taken already. -/
def checkGrammar (handle : Handle) (addr : BitVec 64) (len : Nat) (bs : Option (List Byte))
    (vocabLoaded : Nat → Nat → Bool) (pages : Nat) : Except Nat Grammar :=
  let b := (bs.getD [])
  let p := b.take 512
  let h := gramHeader p
  if len < 1024 ∨ len % 512 ≠ 0 ∨ bs = none ∨ h.len ≠ len then .error stGramImage
  else if leAt p 0 4 ≠ 0x545A5242 ∨ leAt p 0x1FC 4 ≠ crc32c (p.take 0x1FC) then .error stGramImage
  else if leAt p 4 2 ≠ 1 ∨ 2 < leAt p 6 2 then .error stGramImage
  else if !gramCounts p h then .error stGramImage
  else if leAt p 0x1F8 4 ≠ crc32c (cut b 512 (len - 512)) then .error stGramImage
  else
    let g := gramOf handle addr b h
    let raw := recordsOf 8 (let s := h.sections.getD 1 (0, 0); cut b s.1 s.2)
    if !gramStates h g.states then .error stGramImage
    else if !gramTrans h raw g.trans g.states then .error stGramImage
    else if !gramClasses h g.klass then .error stGramImage
    else if !vocabLoaded h.vocabId h.vocabLen then .error stGramVocab
    else if Config.pinnedPages < pages + g.pinned then .error stGramFull
    else .ok g

end Sys2Proof.Machine
end

