-- ==== Sys2Proof/Machine/Utf8.lean ====
section
/-! DEFINITION. UTF-8 well-formedness and maximal subparts (R247, R248, R270), by the byte ranges of RFC 3629. -/

namespace Sys2Proof.Machine

/-- The ranges of the bytes after a lead byte, or `none` where the byte begins no well-formed sequence. -/
def utf8Tail (b : Byte) : Option (List (Nat × Nat)) :=
  let x := b.toNat
  if x < 0x80 then some []
  else if x < 0xC2 then none
  else if x ≤ 0xDF then some [(0x80, 0xBF)]
  else if x = 0xE0 then some [(0xA0, 0xBF), (0x80, 0xBF)]
  else if x = 0xED then some [(0x80, 0x9F), (0x80, 0xBF)]
  else if x ≤ 0xEF then some [(0x80, 0xBF), (0x80, 0xBF)]
  else if x = 0xF0 then some [(0x90, 0xBF), (0x80, 0xBF), (0x80, 0xBF)]
  else if x ≤ 0xF3 then some [(0x80, 0xBF), (0x80, 0xBF), (0x80, 0xBF)]
  else if x = 0xF4 then some [(0x80, 0x8F), (0x80, 0xBF), (0x80, 0xBF)]
  else none

/-- How many bytes match the ranges of a tail, and whether it stopped for want of bytes. -/
def utf8Match : List (Nat × Nat) → List Byte → Nat → Nat × Bool × Bool     -- bytes matched, complete, ran out
  | [], _, n => (n, true, false)
  | _ :: _, [], n => (n, false, true)
  | (lo, hi) :: r, b :: bs, n => if lo ≤ b.toNat ∧ b.toNat ≤ hi then utf8Match r bs (n + 1) else (n, false, false)

/-- What stands at the front of a byte run. -/
inductive Front where
  | char (len : Nat)                               -- a well-formed character
  | bad (len : Nat)                                -- an invalid occurrence
  | open_                                          -- undecided: begins a sequence and completes none
deriving DecidableEq, Repr

/-- The front of a non-empty run; `final` says that a hard boundary follows (R248). -/
def utf8Front (final : Bool) : List Byte → Front
  | [] => .open_
  | b :: bs => match utf8Tail b with
    | none => .bad 1
    | some tail => match utf8Match tail bs 1 with
      | (n, true, _) => .char n
      | (n, false, true) => if final then .bad n else .open_
      | (n, false, false) => .bad n

/-- The code point of a well-formed character's bytes. -/
def codePoint : List Byte → Nat
  | [a] => a.toNat
  | [a, b] => (a.toNat % 32) * 64 + b.toNat % 64
  | [a, b, c] => (a.toNat % 16) * 4096 + (b.toNat % 64) * 64 + c.toNat % 64
  | [a, b, c, d] => (a.toNat % 8) * 262144 + (b.toNat % 64) * 4096 + (c.toNat % 64) * 64 + d.toNat % 64
  | _ => 0

/-- Whether a run is well-formed UTF-8; `fuel` bounds the characters. -/
def wellFormedGo : Nat → List Byte → Bool
  | 0, bs => bs.isEmpty
  | f + 1, bs => match bs with
    | [] => true
    | _ => match utf8Front true bs with | .char n => wellFormedGo f (bs.drop n) | _ => false

/-- Whether a run is well-formed UTF-8. -/
def wellFormedUtf8 (bs : List Byte) : Bool := wellFormedGo bs.length bs

/-- The replacement character U+FFFD. -/
def replacement : List Byte := [0xEF, 0xBF, 0xBD]

end Sys2Proof.Machine
end

