-- ==== Sys2Proof/Machine/VocabImage.lean ====
section
/-! DEFINITION. Vocabulary images: layout, load checks and lookups (R240 to R246, R259). -/

namespace Sys2Proof.Machine

/-- The header of Table 11-3. -/
structure VocabHeader where
  len : Nat
  flags : Nat
  vocabId : Nat
  vlen : Nat
  maxTok : Nat
  nclass : Nat
  nspecial : Nat
  nnodes : Nat
  nedges : Nat
  pairBits : Nat
  defClass : Nat
  nranges : Nat
  strBytes : Nat
  sections : List (Nat × Nat)
  runMax : List Nat
  boundary : List Nat
deriving DecidableEq, Repr

/-- Reading Table 11-3. -/
def vocabHeader (p : List Byte) : VocabHeader :=
  { len := leAt p 8 4, flags := leAt p 0xC 4, vocabId := leAt p 0x10 8, vlen := leAt p 0x18 4, maxTok := leAt p 0x1C 1,
    nclass := leAt p 0x1D 1, nspecial := leAt p 0x1E 2, nnodes := leAt p 0x20 4, nedges := leAt p 0x24 4,
    pairBits := leAt p 0x28 1, defClass := leAt p 0x29 1, nranges := leAt p 0x2C 4, strBytes := leAt p 0x30 4,
    sections := (List.range 8).map (fun i => (leAt p (0x40 + 8 * i) 4, leAt p (0x44 + 8 * i) 4)),
    runMax := (List.range 16).map (fun i => leAt p (0x80 + i) 1),
    boundary := (List.range 16).map (fun i => leAt p (0x90 + 2 * i) 2) }

/-- MODE of an image. -/
def vocabMode (h : VocabHeader) : Nat := h.flags % 4

/-- Check 4 of Table 11-7 with the limits of Table 11-8. -/
def vocabCounts (p : List Byte) (h : VocabHeader) : Bool :=
  let len := fun i => (h.sections.getD i (0, 0)).2
  let m := vocabMode h
  m != 3 && h.flags / 4 == 0 && leAt p 0x2A 2 == 0 && leAt p 0x34 4 == 0 && leAt p 0x3C 4 == 0 && leAt p 0xB0 328 == 0
    && decide (1 ≤ h.nclass) && decide (h.nclass ≤ 16) && decide (h.defClass < h.nclass) && decide (1 ≤ h.maxTok)
    && decide (256 ≤ h.vlen) && decide (h.vlen ≤ 1048576) && decide (h.strBytes ≤ 255 * h.vlen) && decide (h.nspecial ≤ 1024)
    && (if m = 1 then decide (h.nranges ≤ 4096) && decide (10 ≤ h.pairBits) && decide (h.pairBits ≤ 24)
        else h.nranges == 0 && h.pairBits == 0)
    && (if m = 2 then decide (1 ≤ h.nnodes) && decide (h.nnodes ≤ 16777216) && decide (h.nedges ≤ 16777216)
        else h.nnodes == 0 && h.nedges == 0)
    && len 0 == 8 * h.vlen && len 1 == h.strBytes && len 2 == 1024 && len 3 == 4 * h.nspecial && len 4 == 8 * h.nranges
    && len 5 == 8 * h.nnodes && len 6 == 4 * h.nedges && len 7 == (if h.pairBits = 0 then 0 else 16 * 2 ^ h.pairBits)
    && (match sectionsEnd h.sections 512 with | some e => decide (e ≤ h.len) | none => false)

/-- A token entry (Table 11-5) with its string. -/
def vocabTokOf (strs : List Byte) (x : Nat) : VocabTok :=
  ⟨bits x 0 32, cut strs (bits x 0 32) (bits x 32 8), bit x 40, bit x 41, bit x 42, bit x 43⟩

/-- Check 6 of Table 11-7 on one token entry. -/
def tokEntryOk (h : VocabHeader) (x : Nat) : Bool :=
  let len := bits x 32 8
  decide (bits x 0 32 + len ≤ h.strBytes) && decide (len ≤ h.maxTok) && (decide (1 ≤ len) || bit x 40) && (!bit x 41 || bit x 40)
    && bits x 44 20 == 0

/-- A trie node and a pair slot (Table 11-6). -/
def nodeOf (x : Nat) : TrieNode := ⟨BitVec.ofNat 24 (bits x 0 24), bits x 24 9, bits x 33 31⟩
def pairOf (x : Nat) : PairSlot := ⟨bits x 0 24, bits x 24 24, bits x 48 24, bits x 72 24, bit x 96⟩

/-- Pinned lines of a vocabulary (R259). -/
def pinnedLinesOf (h : VocabHeader) : Nat := 4 + 8 + ceilDiv (4 * h.nspecial) 128 + ceilDiv (8 * h.nranges) 128

/-- The image as its bytes decode. -/
def vocabOf (addr : BitVec 64) (bs : List Byte) (h : VocabHeader) : Vocab :=
  let sec := fun i => let s := h.sections.getD i (0, 0); cut bs s.1 s.2
  { addr := addr, mode := vocabMode h, vocabId := BitVec.ofNat 64 h.vocabId, maxTok := h.maxTok, nclass := h.nclass,
    defClass := h.defClass, pairBits := h.pairBits, secs := h.sections.map (fun s => s.1), runMax := h.runMax,
    boundary := h.boundary,
    toks := (recordsOf 8 (sec 0)).map (vocabTokOf (sec 1)), byteTok := (recordsOf 4 (sec 2)).map (BitVec.ofNat 24),
    specials := (recordsOf 4 (sec 3)).map (BitVec.ofNat 24),
    ranges := (recordsOf 8 (sec 4)).map (fun x => (bits x 0 21, bits x 21 21, bits x 42 4)),
    nodes := (recordsOf 8 (sec 5)).map nodeOf, edges := (recordsOf 4 (sec 6)).map (fun x => (bits x 0 8, bits x 8 24)),
    pairs := (recordsOf 16 (sec 7)).map pairOf, pinned := pinnedLinesOf h }

/-- Check 7 of Table 11-7. -/
def vocabSpecials (v : Vocab) (rawByte rawSpec : List Nat) : Bool :=
  (List.range 256).all (fun b =>
      let t := rawByte.getD b 0
      match v.toks[t]? with
      | some e => e.fallback && e.str == [BitVec.ofNat 8 b]
      | none => false)
    && rising rawSpec
    && rawSpec == (v.toks.zipIdx.filter (fun e => e.1.special)).map (fun e => e.2)
    && rawSpec.all (fun t => match v.toks[t]? with | some e => wellFormedUtf8 e.str | none => false)

/-- Whether ranges ascend and are disjoint, within Unicode, with classes below NCLASS (R242). -/
def rangesOk (nclass : Nat) : Nat → List Nat → Bool
  | _, [] => true
  | lo, x :: r => decide (lo ≤ bits x 0 21) && decide (bits x 0 21 ≤ bits x 21 21) && decide (bits x 21 21 ≤ 0x10FFFF)
      && decide (bits x 42 4 < nclass) && bits x 46 18 == 0 && rangesOk nclass (bits x 21 21 + 1) r

/-- Check 8 of Table 11-7. -/
def vocabClasses (h : VocabHeader) (rawRanges : List Nat) : Bool :=
  rangesOk h.nclass 0 rawRanges
    && (List.range 16).all (fun c => decide (c < h.nclass) || (h.runMax.getD c 0 == 0 && h.boundary.getD c 0 == 0))
    && h.boundary.all (fun w => decide (w < 2 ^ h.nclass))

/-- The checks of Table 11-7 after the index's own (orders 3 to 9). -/
def checkVocab (addr : BitVec 64) (len : Nat) (bs : Option (List Byte)) (lines : Nat) : Except Nat Vocab :=
  let b := bs.getD []
  let p := b.take 512
  let h := vocabHeader p
  let sec := fun i => let s := h.sections.getD i (0, 0); cut b s.1 s.2
  if len < 512 ∨ len % 512 ≠ 0 ∨ bs = none ∨ h.len ≠ len ∨ leAt p 0 4 ≠ 0x42434F56 ∨ leAt p 0x1FC 4 ≠ crc32c (p.take 0x1FC) then
    .error stVocabImage
  else if leAt p 4 2 ≠ 1 ∨ leAt p 6 2 ≠ 0 ∨ !vocabCounts p h then .error stVocabImage
  else if leAt p 0x1F8 4 ≠ crc32c (cut b 512 (len - 512)) then .error stVocabImage
  else if !(recordsOf 8 (sec 0)).all (tokEntryOk h) then .error stVocabImage
  else
    let v := vocabOf addr b h
    if !vocabSpecials v (recordsOf 4 (sec 2)) (recordsOf 4 (sec 3)) then .error stVocabImage
    else if !vocabClasses h (recordsOf 8 (sec 4)) then .error stVocabImage
    else if Config.pinnedLines < lines + v.pinned then .error stVocabFull
    else .ok v

/-- Length of a vocabulary in entries. -/
def vocabLen (v : Vocab) : Nat := v.toks.length

/-- The byte string of a token, empty where there is none (R241). -/
def tokStr (v : Vocab) (t : TokenId) : List Byte := match v.toks[t.toNat]? with | some e => e.str | none => []

/-- Whether a token has END set. -/
def tokEnds (v : Vocab) (t : TokenId) : Bool := match v.toks[t.toNat]? with | some e => e.ended | none => false

/-- Whether a token has SPECIAL set. -/
def tokSpecial (v : Vocab) (t : TokenId) : Bool := match v.toks[t.toNat]? with | some e => e.special | none => false

/-- A node's TOKEN as churn takes it (R246). -/
def nodeToken (v : Vocab) (n : TrieNode) : Option TokenId :=
  if n.token = tokNone then none
  else match v.toks[n.token.toNat]? with
    | none => none
    | some e => if e.special ∨ e.noenc then none else some n.token

/-- A node's present edges in stored order, each with its index (R246). -/
def nodeEdges (v : Vocab) (n : TrieNode) : List (Nat × Nat) :=
  if v.edges.length < n.first + n.nchild then []
  else ((v.edges.drop n.first).take n.nchild).filter (fun e => decide (e.2 < v.nodes.length))

/-- The lookup of R243: the entry found and the slots probed. -/
def pairProbe (v : Vocab) (base l r : Nat) : Nat → List Nat → Option PairSlot × List Nat
  | 0, seen => (none, seen)
  | n + 1, seen =>
    let i := (base + (7 - n)) % 2 ^ v.pairBits
    match v.pairs[i]? with
    | none => (none, i :: seen)
    | some e =>
      if !e.used then (none, i :: seen)
      else if e.left = l ∧ e.right = r then
        ((if e.merged < v.toks.length then some e else none), i :: seen)
      else pairProbe v base l r n (i :: seen)

/-- pair(l, r) of R243. -/
def pairLookup (v : Vocab) (l r : Nat) : Option PairSlot × List Nat :=
  let h := (l * 0x9E3779B1 + r * 0x85EBCA77) % 2 ^ 32
  pairProbe v (h >>> (32 - v.pairBits)) l r 8 []

/-- The class of a code point (R253). -/
def charClass (v : Vocab) (cp : Nat) : Nat :=
  match v.ranges.find? (fun r => decide (r.1 ≤ cp) && decide (cp ≤ r.2.1)) with
  | some r => r.2.2
  | none => v.defClass

/-- The image line of a byte offset (R258). -/
def lineOf (off : Nat) : Nat := off / 128

end Sys2Proof.Machine
end

