-- ==== Sys2Proof/Machine/Encode.lean ====
section
/-! DEFINITION. From text to token entries (R247 to R257), as a pure function of the source bytes since the last hard
boundary that are not yet written, the options and the image. -/

namespace Sys2Proof.Machine

/-- A byte of text as it is encoded: its value, whether it is invalid or replaces invalid bytes, the offset in the
source of the character it belongs to, and its index within that character's text. -/
structure TextByte where
  b : Byte
  inv : Bool
  src : Nat
  k : Nat
deriving DecidableEq, Repr

/-- A run of R250. `stop` is the source offset after it. -/
inductive Run where
  | ord (text : List TextByte) (closed : Bool) (stop : Nat)
  | special (t : TokenId) (stop : Nat)
  | bad (bs : List Byte) (stop : Nat)
deriving DecidableEq, Repr

/-- What the search for a special match finds (R250). -/
inductive SpecialAt where
  | no | wait | hit (t : TokenId) (len : Nat)
deriving DecidableEq, Repr

/-- Whether `p` begins `l`. -/
def startsWith (p l : List Byte) : Bool := l.take p.length == p

/-- Special tokens that text may match: LEN ≥ 1 and not NOENC, with their strings, ascending ID. -/
def matchable (v : Vocab) : List (TokenId × List Byte) :=
  (v.specials.map (fun t => (t, tokStr v t))).filter (fun p => p.2 != [] && !(match v.toks[p.1.toNat]? with
    | some e => e.noenc | none => true))

/-- The longest special string that starts the text; among equals the lowest ID (R250). While bytes may still come, a
longer string that the text begins leaves it open. -/
def specialAt (sp : List (TokenId × List Byte)) (final : Bool) (text : List Byte) : SpecialAt :=
  if !final && sp.any (fun p => decide (text.length < p.2.length) && startsWith text p.2) then .wait
  else
    (sp.filter (fun p => startsWith p.2 text)).foldl (fun a p => match a with
      | .hit _ n => if n < p.2.length then .hit p.1 p.2.length else a
      | _ => .hit p.1 p.2.length) .no

/-- What cutting the text into runs gives: runs in order, invalid occurrences as (offset, length), and an occurrence
that reject stops at. -/
structure Cut where
  runs : List Run
  occ : List (Nat × Nat)
  rejected : Option Nat
deriving DecidableEq, Repr

/-- Close the ordinary text gathered so far. -/
def closeRun (cur : List TextByte) (closed : Bool) (stop : Nat) (runs : List Run) : List Run :=
  if cur.isEmpty then runs else .ord cur.reverse closed stop :: runs

/-- The text of a character or an occurrence, as text bytes. -/
def textOf (bs : List Byte) (inv : Bool) (src : Nat) : List TextByte := bs.zipIdx.map (fun p => ⟨p.1, inv, src, p.2⟩)

/-- Runs of R250 from source offset `i`; `skip` tells that the first character is partly written. -/
def cutGo (sp : List (TokenId × List Byte)) (byteMode : Bool) (invalid : Nat) (final : Bool) :
    Nat → List Byte → Nat → Bool → List TextByte → List Run → List (Nat × Nat) → Cut
  | 0, _, i, _, cur, runs, occ => ⟨(closeRun cur final i runs).reverse, occ.reverse, none⟩
  | f + 1, bs, i, skip, cur, runs, occ =>
    match bs with
    | [] => ⟨(closeRun cur final i runs).reverse, occ.reverse, none⟩
    | _ =>
      match (if skip then SpecialAt.no else specialAt sp final bs) with
      | .wait => ⟨(closeRun cur false i runs).reverse, occ.reverse, none⟩
      | .hit t n =>
        cutGo sp byteMode invalid final f (bs.drop n) (i + n) false [] (.special t (i + n) :: closeRun cur true i runs) occ
      | .no =>
        match utf8Front final bs with
        | .open_ => ⟨(closeRun cur false i runs).reverse, occ.reverse, none⟩
        | .char n =>
          cutGo sp byteMode invalid final f (bs.drop n) (i + n) false ((textOf (bs.take n) false i).reverse ++ cur) runs occ
        | .bad n =>
          let occ' := (i, n) :: occ
          if byteMode then
            cutGo sp byteMode invalid final f (bs.drop n) (i + n) false ((textOf (bs.take n) true i).reverse ++ cur) runs occ'
          else if invalid = 0 then
            cutGo sp byteMode invalid final f (bs.drop n) (i + n) false [] (.bad (bs.take n) (i + n) :: closeRun cur true i runs) occ'
          else if invalid = 1 then
            cutGo sp byteMode invalid final f (bs.drop n) (i + n) false ((textOf replacement true i).reverse ++ cur) runs occ'
          else ⟨(closeRun cur true i runs).reverse, occ'.reverse, some i⟩

/-- One token of a run: its ID, whether it is UNK, and how many text bytes of the run end with it. -/
structure RunTok where
  id : TokenId
  unk : Bool
  stop : Nat
deriving DecidableEq, Repr

/-- The trie walk of R252 from a node: best token and its length, bytes walked, the last node, and offsets read. -/
structure TrieWalk where
  best : Option TokenId := none
  blen : Nat := 0
  taken : Nat := 0
  node : Nat := 0
  touched : List Nat := []
deriving DecidableEq, Repr

/-- Byte offset of an entry of a section. -/
def secOff (v : Vocab) (sec size i : Nat) : Nat := v.secs.getD sec 0 + size * i

/-- The walk of R252. -/
def trieWalk (v : Vocab) : List Byte → TrieWalk → TrieWalk
  | [], w => w
  | b :: bs, w =>
    match v.nodes[w.node]? with
    | none => w
    | some n =>
      let count := if v.edges.length < n.first + n.nchild then 0 else n.nchild
      let seen := secOff v 5 8 w.node :: (List.range count).map (fun j => secOff v 6 4 (n.first + j)) ++ w.touched
      match (nodeEdges v n).find? (fun e => e.1 == b.toNat) with
      | none => { w with touched := seen }
      | some e =>
        let n' := v.nodes.getD e.2 ⟨tokNone, 0, 0⟩
        let w' := { w with node := e.2, taken := w.taken + 1, touched := secOff v 5 8 e.2 :: seen }
        match nodeToken v n' with
        | none => trieWalk v bs w'
        | some t => trieWalk v bs { w' with best := some t, blen := w.taken + 1 }

/-! ### What may follow an open run (R256)

The bytes known to come, if they join the run, are the only thing that tells whether its last token or piece is settled.
`ahead` lists the ways they may join it, `[[]]` where nothing is known, and is empty for a run that is closed. -/

/-- Known bytes without the incomplete character at their end, and whether there is one; `n` bounds the characters. -/
def completeChars : Nat → List Byte → List Byte × Bool
  | 0, bs => ([], !bs.isEmpty)
  | n + 1, bs => match bs with
    | [] => ([], false)
    | _ => match utf8Front false bs with
      | .char k => let r := completeChars n (bs.drop k); (bs.take k ++ r.1, r.2)
      | _ => ([], true)

/-- The ways in which known bytes may join an open run: as they stand, or, under replace, with the character at their end
broken off. -/
def aheadOf (invalid : Nat) (bs : List Byte) : List (List Byte) :=
  let c := completeChars bs.length bs
  if c.2 && invalid == 1 then [bs, c.1 ++ replacement] else [bs]

/-- Whether a walk that stands at a node may still reach a token: over the known bytes, or beyond them. -/
def walkGrows (v : Vocab) : Nat → List Byte → Bool
  | node, [] => !(nodeEdges v (v.nodes.getD node ⟨tokNone, 0, 0⟩)).isEmpty
  | node, b :: bs => match (nodeEdges v (v.nodes.getD node ⟨tokNone, 0, 0⟩)).find? (fun e => e.1 == b.toNat) with
    | none => false
    | some e => (nodeToken v (v.nodes.getD e.2 ⟨tokNone, 0, 0⟩)).isSome || walkGrows v e.2 bs

/-- The code points of n-byte characters that begin with known bytes. -/
def pointsFrom (k : List Byte) : List (Nat × Nat × Nat) :=
  let all : List (Nat × Nat × Nat) := [(1, 0, 0x7F), (2, 0x80, 0x7FF), (3, 0x800, 0xD7FF), (3, 0xE000, 0xFFFF), (4, 0x10000, 0x10FFFF)]
  match k with
  | [] => all
  | b :: r =>
    let n := match utf8Tail b with | some t => t.length + 1 | none => 0
    let head := if n = 1 then b.toNat else b.toNat % 2 ^ (7 - n)
    let low := (r.foldl (fun a x => a * 64 + x.toNat % 64) head) * 64 ^ (n - k.length)
    (all.filter (fun p => p.1 == n)).map (fun p => (n, max p.2.1 low, min p.2.2 (low + 64 ^ (n - k.length) - 1)))

/-- Whether some code point from `lo` to `hi` lies in no range; the ranges ascend. -/
def uncovered (hi : Nat) : List (Nat × Nat × Nat) → Nat → Bool
  | [], lo => decide (lo ≤ hi)
  | (a, b, _) :: r, lo => (decide (lo < a) && decide (lo ≤ hi)) || uncovered hi r (max lo (b + 1))

/-- Lengths and classes of the characters that may come next, known bytes first (R253). -/
def nextChars (v : Vocab) (k : List Byte) : List (Nat × Nat) :=
  match utf8Front false k with
  | .char n => [(n, charClass v (codePoint (k.take n)))]
  | _ => (pointsFrom k).flatMap (fun p =>
      ((v.ranges.filter (fun r => decide (max r.1 p.2.1 ≤ min r.2.1 p.2.2))).map (fun r => (p.1, r.2.2)))
        ++ (if uncovered p.2.2 v.ranges p.2.1 then [(p.1, v.defClass)] else []))

/-- Longest-prefix encoding of a run (R252); an open run stops at a walk that what follows may still carry on. -/
def longestPrefix (v : Vocab) (ahead : List (List Byte)) : Nat → List Byte → Nat → List RunTok × List Nat
  | 0, _, _ => ([], [])
  | f + 1, bs, pos =>
    match bs with
    | [] => ([], [])
    | b :: _ =>
      let w := trieWalk v bs {}
      if w.taken == bs.length && ahead.any (walkGrows v w.node) then ([], w.touched)
      else
        let (t, n, unk) : TokenId × Nat × Bool := match w.best with
          | some t => (t, w.blen, false)
          | none => (v.byteTok.getD b.toNat tokNone, 1, true)
        let r := longestPrefix v ahead f (bs.drop n) (pos + n)
        (⟨t, unk, pos + n⟩ :: r.1, w.touched ++ r.2)

/-- Characters of an ordinary run as (length, class); every front is a well-formed character. -/
def runChars (v : Vocab) : Nat → List Byte → List (Nat × Nat)
  | 0, _ => []
  | f + 1, bs => match bs with
    | [] => []
    | _ => match utf8Front true bs with
      | .char n => (n, charClass v (codePoint (bs.take n))) :: runChars v f (bs.drop n)
      | _ => (1, v.defClass) :: runChars v f (bs.drop 1)

/-- Piece lengths of R253: the bytes and last class of the piece so far, and the run of that class within it. -/
def pieceLens (v : Vocab) : List (Nat × Nat) → Nat → Option Nat → Nat → List Nat
  | [], len, _, _ => if len = 0 then [] else [len]
  | (n, c) :: r, len, prev, runLen =>
    match prev with
    | none => pieceLens v r (len + n) (some c) 1
    | some a =>
      let edge := bit (v.boundary.getD a 0) c || (a == c && v.runMax.getD a 0 != 0 && decide (v.runMax.getD a 0 ≤ runLen))
        || decide (256 < len + n)
      if edge then len :: pieceLens v r n (some c) 1
      else pieceLens v r (len + n) (some c) (if a = c then runLen + 1 else 1)

/-- Whether the last piece of a run may still grow. -/
def pieceGrows (v : Vocab) (chars : List (Nat × Nat)) (ahead : List (List Byte)) : Bool :=
  let n := (pieceLens v chars 0 none 0).length
  ahead.any (fun k => (nextChars v k).any (fun c => decide ((pieceLens v (chars ++ [c]) 0 none 0).length = n)))

/-- The best pair of a symbol row: rank, position and merged token, leftmost among equals; slots probed. -/
def bestPair (v : Vocab) : List (Nat × Nat) → Nat → Option (Nat × Nat × Nat) → List Nat → Option (Nat × Nat × Nat) × List Nat
  | (a, _) :: (b, m) :: r, i, best, seen =>
    let q := pairLookup v a b
    let best' := match q.1 with
      | none => best
      | some e => match best with
        | none => some (e.rank, i, e.merged)
        | some x => if e.rank < x.1 then some (e.rank, i, e.merged) else best
    bestPair v ((b, m) :: r) (i + 1) best' (q.2 ++ seen)
  | _, _, best, seen => (best, seen)

/-- Replace symbols i and i + 1 by the merged one. -/
def mergeAt (m : Nat) : Nat → List (Nat × Nat) → List (Nat × Nat)
  | 0, (_, n) :: (_, k) :: r => (m, n + k) :: r
  | i + 1, x :: r => x :: mergeAt m i r
  | _, l => l

/-- merge_piece of R254 over symbols (ID, bytes); `fuel` bounds the merges. Answers symbols, merges, slots probed. -/
def mergePiece (v : Vocab) : Nat → List (Nat × Nat) → Nat → List Nat → List (Nat × Nat) × Nat × List Nat
  | 0, sym, n, seen => (sym, n, seen)
  | f + 1, sym, n, seen =>
    match bestPair v sym 0 none seen with
    | (none, seen') => (sym, n, seen')
    | (some (_, i, m), seen') => mergePiece v f (mergeAt m i sym) (n + 1) seen'

/-- The tokens of one piece. -/
def pieceToks (v : Vocab) (bs : List Byte) : List (Nat × Nat) × Nat × List Nat :=
  mergePiece v bs.length (bs.map (fun b => ((v.byteTok.getD b.toNat tokNone).toNat, 1))) 0 []

/-- Symbols as run tokens from a position. -/
def symToks : List (Nat × Nat) → Nat → List RunTok
  | [], _ => []
  | (t, n) :: r, pos => ⟨BitVec.ofNat 24 t, false, pos + n⟩ :: symToks r (pos + n)

/-- What encoding a run gives: tokens, pieces merged with their results, image offsets read. -/
structure RunOut where
  toks : List RunTok
  pieces : List (List Byte × List TokenId)
  touched : List Nat
deriving DecidableEq, Repr

/-- Rank-merge encoding of pieces of the given lengths (R253, R254). -/
def mergeRun (v : Vocab) : List Nat → List Byte → Nat → RunOut
  | [], _, _ => ⟨[], [], []⟩
  | n :: ns, bs, pos =>
    let p := bs.take n
    let m := pieceToks v p
    let r := mergeRun v ns (bs.drop n) (pos + n)
    ⟨symToks m.1 pos ++ r.toks, (p, m.1.map (fun s => BitVec.ofNat 24 s.1)) :: r.pieces,
      m.2.2.map (secOff v 7 16) ++ r.touched⟩

/-- One ordinary run by the stream's mode (R251 to R254). -/
def encodeRun (v : Vocab) (byteMode : Bool) (ahead : List (List Byte)) (bs : List Byte) : RunOut :=
  if byteMode then ⟨bs.zipIdx.map (fun p => ⟨v.byteTok.getD p.1.toNat tokNone, false, p.2 + 1⟩), [], []⟩
  else if v.mode = 2 then let r := longestPrefix v ahead bs.length bs 0; ⟨r.1, [], r.2⟩
  else
    let chars := runChars v bs.length bs
    let lens := pieceLens v chars 0 none 0
    mergeRun v (if pieceGrows v chars ahead then lens.dropLast else lens) bs 0

/-- What encoding the text gives: entries, the source bytes consumed, the text bytes of the next character already
written, counts, pieces, offsets read, and whether reject stopped the stream. -/
structure Encoded where
  entries : List EncEntry := []
  consumed : Nat := 0
  skip : Nat := 0
  specials : Nat := 0
  pieces : List (List Byte × List TokenId) := []
  touched : List Nat := []
  invalid : List (Nat × Nat) := []
  rejected : Bool := false
deriving DecidableEq, Repr

/-- Entries of a run's tokens: INV where any byte of the token is invalid. -/
def runEntries (text : List TextByte) : List RunTok → Nat → List EncEntry
  | [], _ => []
  | t :: r, pos => ⟨t.id, ((text.drop pos).take (t.stop - pos)).any (fun b => b.inv), false, t.unk⟩ :: runEntries text r t.stop

/-- Fold one run of a text in. `skip` text bytes of the first run are written already. The text after an open run is what
may join it. -/
def addRun (v : Vocab) (byteMode : Bool) (invalid : Nat) (src : List Byte) (skip : Nat) (a : Encoded) (r : Run) : Encoded :=
  match r with
  | .special t stop => { a with entries := a.entries ++ [⟨t, false, true, false⟩], consumed := stop, skip := 0, specials := a.specials + 1 }
  | .bad bs stop =>
    { a with entries := a.entries ++ bs.map (fun b => ⟨v.byteTok.getD b.toNat tokNone, true, false, false⟩), consumed := stop, skip := 0 }
  | .ord text closed stop =>
    let text := text.drop skip
    let o := encodeRun v byteMode (if closed then [] else aheadOf invalid (src.drop stop)) (text.map (fun x => x.b))
    let k := match o.toks.getLast? with | some t => t.stop | none => 0
    let (consumed, left) := if closed then (stop, 0) else match text[k]? with
      | some x => (x.src, x.k)
      | none => (stop, 0)
    { a with entries := a.entries ++ runEntries text o.toks 0, consumed := consumed, skip := left,
             pieces := a.pieces ++ o.pieces, touched := a.touched ++ o.touched }

/-- Fold the runs in; only the first can be partly written. -/
def addRuns (v : Vocab) (byteMode : Bool) (invalid : Nat) (src : List Byte) : Nat → Encoded → List Run → Encoded
  | _, a, [] => a
  | skip, a, r :: rs => addRuns v byteMode invalid src 0 (addRun v byteMode invalid src skip a r) rs

/-- Whether a stream has byte mode (R251). -/
def isByteMode (v : Vocab) (o : EncOptions) : Bool := o.bytes || v.mode == 0

/-- Image offsets that the search for specials reads: their token entries and strings. -/
def specialOffsets (v : Vocab) (o : EncOptions) : List Nat :=
  if o.specials then (matchable v).flatMap (fun p =>
    secOff v 0 8 p.1.toNat :: match v.toks[p.1.toNat]? with | some t => (List.range t.str.length).map (fun i => secOff v 1 1 (t.off + i)) | none => [])
  else []

/-- R247 to R256 over the text held and new, `final` at a hard boundary. -/
def encodeText (v : Vocab) (o : EncOptions) (final : Bool) (text : List Byte) (skip : Nat) : Encoded :=
  let bm := isByteMode v o
  let c := cutGo (if o.specials then matchable v else []) bm o.invalid final text.length text 0 (decide (0 < skip)) [] [] []
  let e := addRuns v bm o.invalid text skip { touched := specialOffsets v o } c.runs
  let consumed := match c.rejected with | some i => i | none => e.consumed
  { e with consumed := consumed, invalid := c.occ.filter (fun x => decide (x.1 < consumed) || c.rejected == some x.1),
           rejected := c.rejected.isSome }

/-- Bytes a stream holds back (R235): an occurrence whose replacement is partly written counts whole. -/
def heldBytes (p : Pending) : Nat :=
  match utf8Front true p.text with
  | .char _ => p.text.length - p.skip
  | _ => p.text.length

/-- Lane cost of Table 11-11 in ENG cycles for the entries and pieces of one call, text cost apart. -/
def laneCost (e : Encoded) (memoHits : Nat) : Nat :=
  2 * e.entries.length + 2 * e.specials
    + sumCost (e.pieces.drop memoHits)
where
  sumCost : List (List Byte × List TokenId) → Nat
    | [] => 0
    | p :: r => 6 + 3 * (p.1.length - p.2.length) + sumCost r

end Sys2Proof.Machine
end

