-- ==== Sys2Proof/Machine/Memory.lean ====
section
/-! DEFINITION. Byte memories in one canonical form: addresses strictly rising, no byte 0 listed. An unlisted address
reads 0, which for the vat is what R58's initialisation leaves in every good row. -/

namespace Sys2Proof.Machine

/-- The byte at an address. -/
def Memory.read (a : Nat) : Memory → Byte
  | [] => 0
  | (k, b) :: r => if k = a then b else if a < k then 0 else Memory.read a r

/-- Write one byte, keeping the canonical form. -/
def Memory.write (a : Nat) (b : Byte) : Memory → Memory
  | [] => if b = 0 then [] else [(a, b)]
  | (k, c) :: r =>
    if a < k then (if b = 0 then (k, c) :: r else (a, b) :: (k, c) :: r)
    else if k = a then (if b = 0 then r else (a, b) :: r)
    else (k, c) :: Memory.write a b r

/-- Whether the addresses above `lo` strictly rise and no byte is 0. -/
def Memory.wfFrom (lo : Option Nat) : Memory → Bool
  | [] => true
  | (k, b) :: r => (match lo with | none => true | some l => decide (l < k)) && decide (b ≠ 0) && Memory.wfFrom (some k) r

/-- The canonical form. -/
def Memory.wf (m : Memory) : Bool := Memory.wfFrom none m

/-- Write a run of bytes from an address. -/
def Memory.writeRun (a : Nat) (bs : List Byte) (m : Memory) : Memory :=
  match bs with
  | [] => m
  | b :: r => Memory.writeRun (a + 1) r (Memory.write a b m)

/-- Read `n` bytes from an address. -/
def Memory.readRun (a n : Nat) (m : Memory) : List Byte := (List.range n).map (fun i => Memory.read (a + i) m)

/-- Make a range of addresses read 0. -/
def Memory.clearRange (a n : Nat) (m : Memory) : Memory := m.filter (fun c => !(decide (a ≤ c.1) && decide (c.1 < a + n)))

end Sys2Proof.Machine
end

