-- ==== Sys2Proof/Machine/Ops.lean ====
section
/-! DEFINITION. The named operations over the state that every meaning is built from: unit updates, time, the trouble
log and error capture, the ports, response rings and events, and the vat. -/

namespace Sys2Proof.Machine

/-- How every meaning here ends: a next state. -/
abbrev Result1 := Host.Outcome State Fault Refusal

/-! ### Updates, unit by unit -/

/-- Change the unit `clk`. -/
def State.modClk (f : Clocks → Clocks) (s : State) : State := { s with clk := f s.clk }

/-- Change the unit `shell`. -/
def State.modShell (f : Shell → Shell) (s : State) : State := { s with shell := f s.shell }

/-- Change the unit `vat`. -/
def State.modVat (f : Vat → Vat) (s : State) : State := { s with vat := f s.vat }

/-- Change the unit `str`. -/
def State.modStr (f : Strainers → Strainers) (s : State) : State := { s with str := f s.str }

/-- Change the unit `drw`. -/
def State.modDrw (f : DrawUnit → DrawUnit) (s : State) : State := { s with drw := f s.drw }

/-- Change the unit `ren`. -/
def State.modRen (f : Rennet → Rennet) (s : State) : State := { s with ren := f s.ren }

/-- Change the unit `churn`. -/
def State.modChurn (f : Churn → Churn) (s : State) : State := { s with churn := f s.churn }

/-- Change the unit `skim`. -/
def State.modSkim (f : Skimmer → Skimmer) (s : State) : State := { s with skim := f s.skim }

/-- Change the unit `coll`. -/
def State.modColl (f : Collective → Collective) (s : State) : State := { s with coll := f s.coll }

/-- Change the unit `reqs`. -/
def State.modReqs (f : Requests → Requests) (s : State) : State := { s with reqs := f s.reqs }

/-- Change the unit `rat`. -/
def State.modRat (f : Rations → Rations) (s : State) : State := { s with rat := f s.rat }

/-- Change the unit `stw`. -/
def State.modStw (f : Steward → Steward) (s : State) : State := { s with stw := f s.stw }

/-- Change the unit `fuses`. -/
def State.modFuses (f : Fuses → Fuses) (s : State) : State := { s with fuses := f s.fuses }

/-- Change the unit `boot`. -/
def State.modBoot (f : Boot → Boot) (s : State) : State := { s with boot := f s.boot }

/-- Change the unit `mbox`. -/
def State.modMbox (f : Mailbox → Mailbox) (s : State) : State := { s with mbox := f s.mbox }

/-- Change the unit `regs`. -/
def State.modRegs (f : Regs → Regs) (s : State) : State := { s with regs := f s.regs }

/-- Change the unit `log`. -/
def State.modLog (f : Log → Log) (s : State) : State := { s with log := f s.log }

/-- Change the unit `wrap`. -/
def State.modWrap (f : Wrapper → Wrapper) (s : State) : State := { s with wrap := f s.wrap }

/-- Change the unit `ports`. -/
def State.modPorts (f : Ports → Ports) (s : State) : State := { s with ports := f s.ports }

/-- Free values drawn: the next ones are new ones. -/
def State.skipFree (n : Nat) (s : State) : State := { s with free := s.free + n }

/-! ### Time -/

/-- The clocks moved on to the counts of a command. -/
def Clocks.at (c : Clocks) (t : Time) : Clocks :=
  { c with fab := max c.fab t.fab, eng := max c.eng t.eng, ctl := max c.ctl t.ctl, aon := max c.aon t.aon }

/-- The state at the time of a command. -/
def State.at (t : Time) (s : State) : State := s.modClk (fun c => c.at t)

/-- The AON time (R6). -/
def State.now (s : State) : Nat := s.clk.aon

/-! ### Register accesses of one CTL cycle (R382, R415) -/

/-- A domain's reset is asserted (IN_RESET): 0 FAB, 1 ENG, 2 CTL, 3 CEL, 4 HLK, 5 AON. -/
def State.inRst (s : State) (d : Nat) : Bool := bit s.clk.inReset.toNat d

/-- What a register access can change, as it stands. -/
def State.hostSnap (s : State) : HostSnap :=
  ⟨s.clk.tsLatch, s.clk.fchg, s.clk.power, s.vat.banks, s.str.units, s.boot, s.mbox, s.regs, s.log, s.ports⟩

/-- One list in place of another of the same length. -/
def putBack {α : Type} (new old : List α) : List α := if new.length = old.length then new else old

/-- The state with what a register access can change put back. -/
def State.hostRestore (s : State) (x : HostSnap) : State :=
  let s := s.modClk (fun c => { c with tsLatch := x.latch, fchg := x.fchg, power := x.power, host := none })
  let s := s.modVat (fun v => { v with banks := putBack x.banks v.banks })
  let s := s.modStr (fun u => { u with units := putBack x.units u.units })
  let s := s.modBoot (fun b => { x.boot with core := b.core, data := b.data })
  let s := s.modMbox (fun m => { x.mbox with windows := m.windows, ctxs := putBack x.mbox.ctxs m.ctxs })
  ((s.modRegs (fun _ => x.regs)).modLog (fun _ => x.log)).modPorts (fun _ => x.ports)

/-- The accesses of a CTL cycle with one more, which takes the state from `p` to `q`. -/
def HostCycle.add (c : Option HostCycle) (ctl : Nat) (a : HostAct) (p q : HostSnap) : HostCycle :=
  match c with
  | some x => if x.ctl = ctl ∧ x.after = p then { x with acts := x.acts ++ [a], after := q } else ⟨ctl, [a], p, q⟩
  | none => ⟨ctl, [a], p, q⟩

/-- A host-link register access, kept for the CTL cycle in which it applies: a wrapper access may still come before it (R382).
Before HLK leaves reset the port takes none (R368). -/
def State.hostAct (a : HostAct) (f : State → State) (s : State) : State :=
  if s.inRst 4 then s
  else (f s).modClk (fun c => { c with host := some (HostCycle.add s.clk.host s.clk.ctl a s.hostSnap (f s).hostSnap) })

/-! ### Error capture and the trouble log (R380, R381, R401 to R403) -/

/-- The captured error shown by ERR_CODE, ERR_INFO and ERR_TIME (R381). -/
def Regs.capture (r : Regs) (x : Nat × Nat × Word × Nat) : Regs :=
  { r with errBit := x.1, errCode := x.2.1, errInfo := x.2.2.1, errTime := x.2.2.2 }

/-- Record an error with an ERR_STATUS bit (R381): the first error of the CTL cycle with the lowest bit is captured when
ERR_STATUS was 0 before the cycle's errors. -/
def Regs.record (r : Regs) (ctl aon code n : Nat) (d0 : Word) : Regs :=
  let same := r.errCycle == ctl && r.errCand.isSome
  let old := if same then r.errOld else r.errStatus
  let cand := match r.errCand with
    | some x => if same && decide (x.1 ≤ n) then x else (n, code, d0, aon)
    | none => (n, code, d0, aon)
  let set := BitVec.ofNat 32 (2 ^ n)
  let q := { r with errStatus := r.errStatus ||| set, errCount := min 0xFFFFFFFF (r.errCount + 1), errCycle := ctl,
                    errBits := (if same then r.errBits else 0) ||| set, errOld := old, errCand := some cand }
  if old = 0 then q.capture cand else q

/-- Hand a log request to CC0, which holds at most 256 (R403). -/
def Log.ask (l : Log) (q : LogReq) : Log :=
  if l.pending.length < Config.logPending then { l with pending := l.pending ++ [q] } else { l with lost := l.lost + 1 }

/-- Ask for a log entry of an event met at an AON time: the request, its ERR_STATUS bit and the capture. -/
def State.logAt (s : State) (time code : Nat) (slot : Option Nat) (d0 d1 d2 : Nat) : State :=
  let q : LogReq := ⟨time, code, slot, BitVec.ofNat 32 d0, BitVec.ofNat 32 d1, BitVec.ofNat 32 d2⟩
  let s := s.modLog (fun l => l.ask q)
  match errBit code with
  | none => s
  | some n => s.modRegs (fun r => r.record s.clk.ctl time code n (BitVec.ofNat 32 d0))

/-- Ask for a log entry of an event met now. -/
def State.logErr (s : State) (code : Nat) (slot : Option Nat) (d0 d1 d2 : Nat) : State := s.logAt s.now code slot d0 d1 d2

/-- Log a fabric event and pulse fs_err. -/
def State.logFabric (s : State) (code : Nat) (slot : Option Nat) (d0 d1 d2 : Nat) : State :=
  (s.logErr code slot d0 d1 d2).modShell (fun h => { h with errPulses := h.errPulses + 1 })

/-! ### Ports -/

/-- A write to host memory; nothing for an empty run. -/
def State.hostWrite (s : State) (a : BitVec 64) (bs : List Byte) : State :=
  if bs.isEmpty then s else s.modPorts (fun p => { p with host := p.host ++ [(a, bs)] })

/-- A write to the cellar. -/
def State.cellarWrite (s : State) (a : BitVec 64) (bs : List Byte) : State :=
  if bs.isEmpty then s else s.modPorts (fun p => { p with cellar := p.cellar ++ [(a, bs)] })

/-- Remove the first element that meets a test. -/
def dropFirst {α : Type} (p : α → Bool) : List α → List α
  | [] => []
  | x :: r => if p x then r else x :: dropFirst p r

/-- Change the first element that meets a test. -/
def modFirst {α : Type} (p : α → Bool) (f : α → α) : List α → List α
  | [] => []
  | x :: r => if p x then f x :: r else x :: modFirst p f r

/-- The least element by a key, ties to the earlier. -/
def leastBy {α : Type} (key : α → Nat) : List α → Option α
  | [] => none
  | x :: r => match leastBy key r with | none => some x | some y => if key x ≤ key y then some x else some y

/-- The lowest tag from `t` on that no outstanding cellar command has; `n` bounds the search. -/
def freeTag (used : List Nat) : Nat → Nat → Option Nat
  | 0, _ => none
  | n + 1, t => if used.contains t then freeTag used n (t + 1) else some t

/-- The cellar command that the port grants next (R16): the highest class, in it the oldest; after 7 beats that passed
classes 3 to 5 by, the oldest of these. -/
def Ports.celNext (p : Ports) : Option CelCmd :=
  let waiting := p.cel.filter (fun c => c.tag.isNone)
  let low := waiting.filter (fun c => decide (3 ≤ c.cls))
  match low, decide (7 ≤ p.celPassed) with
  | c :: _, true => some c
  | _, _ => leastBy (fun c => c.cls) waiting

/-- Issue cellar commands while fewer than 1,024 are outstanding (R13); `n` bounds them. -/
def Ports.celIssue : Nat → Ports → Ports
  | 0, p => p
  | n + 1, p => match p.celNext, freeTag (p.cel.filterMap (fun c => c.tag)) 1024 0 with
    | some c, some t =>
      let d := { c with tag := some t }
      Ports.celIssue n { p with cel := modFirst (fun x => x == c) (fun _ => d) p.cel, celIssued := p.celIssued ++ [d],
                                celPassed := if 3 ≤ c.cls then 0 else p.celPassed + c.beats }
    | _, _ => p

/-- The commands that `n` bytes from an address take: whole beats of 128 B, at most 256 in a command (Table 1-3). -/
def celCmds (use : CelUse) (cls : Nat) (wr : Bool) (addr n : Nat) : List CelCmd :=
  let first := addr / 128
  let beats := (addr + n + 127) / 128 - first
  (List.range ((beats + 255) / 256)).map (fun i =>
    { use := use, cls := cls, wr := wr, addr := 128 * (first + 256 * i) % 2 ^ 48, beats := min 256 (beats - 256 * i) })

/-- Put an access on the cellar port in its class. -/
def Ports.celPut (p : Ports) (cs : List CelCmd) : Ports := Ports.celIssue cs.length { p with cel := p.cel ++ cs }

/-- The commands of a use have completed: others are issued in their place. -/
def Ports.celDone (p : Ports) (use : CelUse) : Ports :=
  let left := p.cel.filter (fun c => c.use != use)
  Ports.celIssue (p.cel.length - left.length) { p with cel := left }

/-- A command that waits rises to a class (R197). -/
def Ports.celRaise (p : Ports) (use : CelUse) (cls : Nat) : Ports :=
  { p with cel := lmodIf (fun c => c.use == use && c.tag.isNone) (fun c => { c with cls := min c.cls cls }) p.cel }

/-- Read or write the cellar for a use. -/
def State.celAccess (s : State) (use : CelUse) (cls : Nat) (wr : Bool) (addr n : Nat) : State :=
  s.modPorts (fun p => p.celPut (celCmds use cls wr addr n))

/-- The cellar has completed what a use asked. -/
def State.celDone (s : State) (use : CelUse) : State := s.modPorts (fun p => p.celDone use)

/-- An image, or an entry of the adapter library, that a command has read at class 5: the read began with it, or at the first
ladle of a load. -/
def State.imageRead (s : State) (b : Sender) (addr n : Nat) : State :=
  (if s.ports.cel.any (fun c => c.use == .image b) then s else s.celAccess (.image b) 5 false addr n).celDone (.image b)

/-- Ask for a word of host memory. -/
def State.askHost (s : State) (a : BitVec 64) : State := s.modPorts (fun p => { p with reads := p.reads ++ [a] })

/-! ### Requests by handle and by slot (R300) -/

/-- The tracked request a handle names (R300). -/
def State.findReq (s : State) (h : Handle) : Option Request :=
  match tget (h.toNat % 65536) s.reqs.table with
  | some r => if r.handle = h then some r else none
  | none => none

/-- Change the request a handle names. -/
def State.modReq (h : Handle) (f : Request → Request) (s : State) : State :=
  s.modReqs (fun q => { q with table := tmod (h.toNat % 65536) (fun r => if r.handle = h then f r else r) q.table })

/-- The other request of a pair (R316). -/
def Request.other (r : Request) : Option Handle := if (r.sampling.hasPartner || r.sampling.follow) && r.sampling.partner != 0 then some r.sampling.partner else none

/-! ### Contexts, rings and events (R350 to R357, R293) -/

/-- The context with a number. -/
def State.ctx (s : State) (c : Nat) : Context := s.mbox.ctxs.getD c {}

/-- Change a context. -/
def State.modCtx (c : Nat) (f : Context → Context) (s : State) : State :=
  s.modMbox (fun m => { m with ctxs := lmod c f m.ctxs })

/-- The pails whose events a doorbell to a context has carried count their entries afresh (R293). -/
def State.carried (s : State) (c : Nat) : State :=
  s.modSkim (fun k =>
    { k with bellsDue := k.bellsDue.filter (fun x => x.1 != c)
             since := k.since.filter (fun e => !k.bellsDue.any (fun x => x.1 == c && x.2.any (fun h => h.toNat == e.1))) })

/-- The doorbell interrupt that a context's events are due, at most one in any 2 µs of AON time; one to a detached context is
dropped and counted (R293). -/
def State.ringDue (s : State) (c : Nat) : State :=
  let open_ := match tget c s.skim.bells with | none => true | some t => decide (t + 200 ≤ s.now)
  if !s.skim.bellsDue.any (fun x => x.1 == c) then s
  else if !(s.ctx c).attached then (s.modSkim (fun k => { k with bellsDropped := k.bellsDropped + 1 })).carried c
  else if open_ then
    ((s.modSkim (fun k => { k with bells := tput c s.now k.bells })).modPorts (fun p => { p with irq := p.irq ++ [c] })).carried c
  else s

/-- An event of a context, or of a pail that names it, that asks for a doorbell: one within 2 µs of the last waits for the
next (R293). -/
def State.bell (s : State) (c : Nat) (pail : Option Handle) : State :=
  (s.modSkim (fun k => if k.bellsDue.contains (c, pail) then k else { k with bellsDue := k.bellsDue ++ [(c, pail)] })).ringDue c

/-- The doorbells whose 2 µs are over. -/
def State.ringAll (s : State) : State := (s.skim.bellsDue.map (fun x => x.1)).eraseDups.foldl (fun s c => s.ringDue c) s

/-- Room of a response ring (R354). -/
def Context.room (x : Context) : Nat := 2 ^ x.log2r - (x.p + 2 ^ 32 - x.c) % 2 ^ 32

/-- Commands of a context taken and unanswered (R352). -/
def Context.unanswered (x : Context) : Nat := x.cmds.length + x.waiting.length

/-- The 256 bytes of entry q of a ring (Table 14-8). -/
def ringBytes (c q log2r : Nat) (e : RingEntry) : List Byte :=
  let phase := 1 - (q >>> log2r) % 2
  slice (leBytes 16 (pack [(4, e.kind), (1, phase), (3, 0), (8, c), (16, e.code), (16, e.status), (16, e.body.length),
    (32, e.tag.toNat), (32, e.ladles)]) ++ e.body) 0 256

/-- Write an entry to a context's ring, and its doorbell (R353, R354). -/
def State.ringWrite (s : State) (c : Nat) (e : RingEntry) : State :=
  let x := s.ctx c
  let a := x.ring + BitVec.ofNat 64 (256 * (x.p % 2 ^ x.log2r))
  let s := s.hostWrite a (ringBytes c x.p x.log2r e)
  let s := s.modCtx c (fun x => { x with p := (x.p + 1) % 2 ^ 32 })
  if x.notify then s.bell c none else s

/-- Ask for a context's consumer word, with at most one read outstanding. -/
def State.askRing (s : State) (c : Nat) : State :=
  let x := s.ctx c
  if x.reading then s else (s.askHost x.cidxAddr).modCtx c (fun x => { x with reading := true })

/-- Give an entry for a response: written, or held until there is room (R354). -/
def State.giveResponse (s : State) (c : Nat) (e : RingEntry) : State :=
  let x := s.ctx c
  if !x.attached then s
  else if x.waiting.isEmpty && decide (0 < x.room) then s.ringWrite c e
  else (s.modCtx c (fun x => { x with waiting := x.waiting ++ [e] })).askRing c

/-- Write held responses while there is room; `n` bounds them. -/
def State.drainRing (c : Nat) : Nat → State → State
  | 0, s => s
  | n + 1, s =>
    match (s.ctx c).waiting with
    | [] => s
    | e :: r => if 0 < (s.ctx c).room then
        State.drainRing c n ((s.modCtx c (fun x => { x with waiting := r })).ringWrite c e)
      else s

/-- Write an event if afterwards the room covers the context's unanswered commands (R354); answers whether it was. -/
def State.tryEvent (s : State) (c code : Nat) (body : List Byte) : State × Bool :=
  let x := s.ctx c
  if x.unanswered + 1 ≤ x.room then (s.ringWrite c ⟨2, code, 0, 0, 0, body, false⟩, true) else (s, false)

/-- Event codes (Table 14-14). -/
def evLostPeer : Nat := 0x8001
def evAdapterReleased : Nat := 0x8002
def evCoreFailover : Nat := 0x8003
def evEventsLost : Nat := 0x8004

/-- Send an event to a context: EVENTS_LOST first when events have been dropped (R354). -/
def State.sendEvent (s : State) (c code : Nat) (body : List Byte) : State :=
  let x := s.ctx c
  if !x.attached then s.modSkim (fun k => { k with bellsDropped := k.bellsDropped + 1 })
  else
    let drop := fun (s : State) => (s.modCtx c (fun x => { x with lost := x.lost + 1 })).askRing c
    if x.lost = 0 then
      let r := s.tryEvent c code body
      if r.2 then r.1 else drop s
    else
      let r := s.tryEvent c evEventsLost (leBytes 4 x.lost)
      if !r.2 then drop s
      else
        let s := r.1.modCtx c (fun x => { x with lost := 0 })
        let q := s.tryEvent c code body
        if q.2 then q.1 else drop s

/-- Contexts, in ascending number, that meet a test. -/
def State.ctxsWhere (s : State) (p : Context → Bool) : List Nat :=
  (s.mbox.ctxs.zipIdx.filter (fun x => x.1.attached && p x.1)).map (fun x => x.2)

/-- Send an event to every attached context that asked for it (R357). -/
def State.broadcast (s : State) (p : Context → Bool) (code : Nat) (body : List Byte) : State :=
  (s.ctxsWhere p).foldl (fun s c => s.sendEvent c code body) s

/-! ### The vat: rows, areas, tags (R44 to R48, R56, R62, R63) -/

/-- Rows of a bank mapped out, ascending. -/
def Vat.outRows (v : Vat) (bank : Nat) : List Nat := (v.mapOut.filter (fun p => p / 2048 == bank)).map (fun p => p % 2048)

/-- Good rows of a bank: none in a bank treated as wholly mapped out (R67). -/
def Vat.goodRows (v : Vat) (bank : Nat) : Nat := if v.dead.contains bank then 0 else 2048 - (v.outRows bank).length

/-- The physical row of a good index, given the rows mapped out in ascending order (R45). -/
def physRow : List Nat → Nat → Nat
  | [], g => g
  | m :: r, g => if m ≤ g then physRow r (g + 1) else g

/-- The PRA of good index g of a bank. -/
def Vat.pra (v : Vat) (bank g : Nat) : Nat := bank * 2048 + physRow (v.outRows bank) g

/-- Capacity of an area (R46): NBANKS times the smallest count of good rows. -/
def Vat.capacity (v : Vat) (first nbanks : Nat) : Nat :=
  nbanks * (((List.range nbanks).map (fun i => v.goodRows (first + i))).min?.getD 0)

/-- The PRA of area row a (R46). -/
def Vat.areaPra (v : Vat) (first nbanks a : Nat) : Nat := v.pra (first + a % nbanks) (a / nbanks)

/-- The area of the plan with a number. -/
def Vat.area (v : Vat) (n : Nat) : Option Area := v.plan.find? (fun a => a.num == n)

/-- The first area of a use. -/
def Vat.areaOf (v : Vat) (use : Nat) : Option Area := v.plan.find? (fun a => a.use == use)

/-- Capacity of an area of the plan. -/
def Vat.areaCap (v : Vat) (a : Area) : Nat := v.capacity a.firstBank a.nbanks

/-- Whether a bank is ON. -/
def Vat.bankOn (v : Vat) (b : Nat) : Bool := match v.banks[b]? with | some u => u.st == Power.on | none => false

/-- The check bits of a word, and the parity bit of a tag, as State holds them: their difference from those of a word 0
and of tag 0 (R44). -/
def checkOf (w : BitVec 64) : Byte := Config.secded w ^^^ Config.secded 0
def parityOf (t : Byte) : Byte := if Config.tagParity t == Config.tagParity 0 then 0 else 1

/-- Check bits of the words that bytes make, computed from the bytes alone (R61); `n` counts words. -/
def checksOf : Nat → List Byte → List Byte
  | 0, _ => []
  | n + 1, bs => checkOf (BitVec.ofNat 64 (leNat (bs.take 8))) :: checksOf n (bs.drop 8)

/-- One write to a row: whole words at an offset within it, with fresh check bits (R61), the tag raised by 1 (R56), and any
write-back that waits for the row lost (R62). -/
def Vat.writeRow (v : Vat) (pra off : Nat) (bs : List Byte) : Vat :=
  let tag := Memory.read pra v.tags + 1
  { v with mem := Memory.writeRun (pra * 128 + off) bs v.mem,
           checks := Memory.writeRun (pra * 16 + off / 8) (checksOf (bs.length / 8) bs) v.checks,
           tags := Memory.write pra tag v.tags,
           parity := Memory.write pra (parityOf tag) v.parity,
           writeBacks := v.writeBacks.filter (fun w => w.pra != pra) }

/-- Write whole rows at consecutive area rows from `row` (R48, R61): a bank that is not ON takes none (R58, R60). -/
def Vat.writeRows (a : Area) : Nat → Nat → List Byte → Vat → Vat
  | 0, _, _, v => v
  | n + 1, row, bs, v =>
    let pra := v.areaPra a.firstBank a.nbanks row
    Vat.writeRows a n (row + 1) (bs.drop 128) (if v.bankOn (pra / 2048) then v.writeRow pra 0 (bs.take 128) else v)

/-- The tag of a row. -/
def Vat.tag (v : Vat) (pra : Nat) : Byte := Memory.read pra v.tags

/-- Rewrite a tag as 0 with good parity (R54, R63). -/
def Vat.zeroTag (v : Vat) (pra : Nat) : Vat := { v with tags := Memory.write pra 0 v.tags, parity := Memory.write pra 0 v.parity }

/-- Bytes of a row. -/
def Vat.readRow (v : Vat) (pra off n : Nat) : List Byte := Memory.readRun (pra * 128 + off) n v.mem

/-- Bytes of an area from a byte offset of its area rows, read row by row (Linear, R50). -/
def Vat.readArea (v : Vat) (a : Area) (start n : Nat) : List Byte :=
  (List.range n).map (fun i =>
    let b := start + i
    Memory.read (v.areaPra a.firstBank a.nbanks (b / 128) * 128 + b % 128) v.mem)

/-- A Strided read (R50): `count` elements of `w` bytes, at most 32, `d` bytes apart. -/
def Vat.readStrided (v : Vat) (a : Area) (start w d count : Nat) : List Nat :=
  (List.range (min 32 count)).map (fun k => leNat (v.readArea a (start + k * d) w))

/-- Area rows counted from an area row of an access that reaches the capacity or beyond (R46). -/
def Vat.rangeOk (v : Vat) (a : Area) (row rows : Nat) : Bool := decide (row + rows ≤ v.areaCap a)

/-- Log an access beyond an area's capacity, which reaches no bank (R46). -/
def State.logRange (s : State) (area row : Nat) : State := s.logErr errAreaRange none area row s.shell.step

/-- Queue a row's write-back of corrected data, counting the error against the row; the fourth since boot names it a
repair candidate (R62, R65). -/
def State.rowCorrected (s : State) (pra : Nat) : State :=
  let n := (tget pra s.vat.correctable).getD 0 + 1
  let s := s.modVat (fun v =>
    { v with correctable := tput pra n v.correctable
             writeBacks := if v.writeBacks.any (fun w => w.pra == pra) then v.writeBacks else v.writeBacks ++ [⟨pra, s.clk.eng⟩] })
  if n = 4 then s.logErr errRepairCandidate none pra 2 0 else s

/-- The area a row belongs to, 0xFF for none. -/
def Vat.areaOfPra (v : Vat) (pra : Nat) : Nat :=
  match v.plan.find? (fun a => decide (1 ≤ a.use) && decide (a.firstBank ≤ pra / 2048) && decide (pra / 2048 < a.firstBank + a.nbanks)) with
  | some a => a.num
  | none => 0xFF

/-- A poisoned read of a row: logged once per step, the tag rewritten where its parity was bad, and the row named a
repair candidate on its first uncorrectable error (R63, R65). R65 does not say whether a tag's parity error is such an
error: it names no candidate (DESIGN CHOICE, notes/assumptions/139.md). -/
def State.rowPoisoned (s : State) (pra : Nat) (tagBad : Bool) : State :=
  let v := s.vat
  let s := if v.poisonLogged.contains pra then s
    else (s.logErr (if tagBad then errTagParity else errRowUe) none pra (v.areaOfPra pra) s.shell.step).modVat
      (fun v => { v with poisonLogged := pra :: v.poisonLogged })
  if tagBad then s.modVat (fun v => v.zeroTag pra)
  else if v.uncorrectable.contains pra then s
  else (s.modVat (fun v => { v with uncorrectable := pra :: v.uncorrectable })).logErr errRepairCandidate none pra 1 0

/-! ### Whether domains and firmware run -/

/-- The cores run firmware, not halted (R341, R342). -/
def State.fw (s : State) : Bool := s.boot.running && !s.boot.halt

/-- FW_PROGRESS: what firmware posts is free, and stands once no firmware runs (Table 15-9). -/
def State.progress (s : State) : Word := if s.fw then Config.fwProgress s.now else s.boot.progress

/-- Skim mode (R348). -/
def State.skimMode (s : State) : Bool := s.boot.stage == 9

/-- The ROM serves in skim mode: nothing has halted its core (R341, R385). -/
def State.skimServes (s : State) : Bool := s.skimMode && !s.boot.halt

/-- The core of a role is not being taken over (R340). -/
def State.roleUp (s : State) (role : Nat) : Bool :=
  match s.boot.failedRole with | some f => f.1 != role | none => true

/-- Whether firmware at READY does a role's duties (R12): not while the role's core is being taken over (R340). -/
def State.duty (s : State) (role : Nat) : Bool := s.fw && s.boot.stage == 8 && s.roleUp role

/-! ### Slots -/

/-- The request that holds a slot. -/
def State.reqOfSlot (s : State) (slot : Nat) : Option Request :=
  (s.reqs.table.find? (fun p => p.2.slot == some slot)).map (fun p => p.2)

/-- The entry and record of a slot that a buffer holds: defaults stand where firmware wrote nothing (R27). In a step that
began early the fields that R42 names are put in place, and the record is IDLE content, its REQ 0 (DEDUCED,
notes/assumptions/16.md). -/
def Buffer.entryAt (b : Buffer) (slot : Nat) : Entry × TokRecord :=
  if b.early then
    let e := match b.cells.find? (fun c => c.1 == slot) with | some c => c.2.1 | none => { step := b.step }
    if slot < b.shape.slots then
      ({ e with kind := .dry, dryCause := dryStepEarly, feed := 0, tok0 := tokNone, noAdapter := true }, { step := b.step })
    else ({ step := b.step }, { step := b.step })
  else match b.cells.find? (fun c => c.1 == slot) with
    | some c => c.2
    | none =>
      if slot < b.shape.slots then ({ kind := .dry, dryCause := dryTokenLate, step := b.step }, { step := b.step })
      else ({ step := b.step }, { step := b.step })

/-- The entry of a slot in the step in flight. -/
def State.entry (s : State) (slot : Nat) : Entry :=
  match s.shell.current with | some b => (b.entryAt slot).1 | none => {}

/-- The token-port record of a slot in the step in flight. -/
def State.tokRec (s : State) (slot : Nat) : TokRecord :=
  match s.shell.current with | some b => (b.entryAt slot).2 | none => {}

/-- Place of a dry cause in the telemetry's counters. -/
def dryIndex (cause : Nat) : Nat := if cause < 16 then cause - 1 else cause - 10

/-- Count a dry cause in a request's telemetry. -/
def Request.countDry (r : Request) (cause : Nat) : Request :=
  { r with tele := { r.tele with dry := lmod (dryIndex cause) (· + 1) r.tele.dry } }

/-- The cause a slot is dry with in the step in flight: as the shell holds it, or the collective engine's slot table. -/
def State.dryOf (s : State) (slot : Nat) : Option Nat :=
  match tget slot s.shell.dry with | some c => some c | none => tget slot s.coll.dry

/-- The shape of the step in flight. -/
def State.shapeNow (s : State) : Option Shape := s.shell.current.map (fun b => b.shape)

/-- Cycle from which the build buffer takes writes after a freeze (R26). -/
def State.buildOpen (s : State) : Bool :=
  !s.shell.frozen || match s.shapeNow with | some f => decide (f.manDeadline + 8 ≤ s.clk.fab) | none => true

/-- CC2's core waits: 64 of its writes fill the queue until the build buffer takes them (R387). -/
def State.coreWaits (s : State) : Bool := decide (64 ≤ s.shell.held.length) && !s.buildOpen

/-- The step shape in force: that of the step in flight, or, before the first fs_step_start, of step 0 (R418). -/
def State.shapeInForce (s : State) : Option Shape :=
  match s.shell.current with | some b => some b.shape | none => s.shell.serving.map (fun b => b.shape)

/-- The sampling record of a slot: its request's on the home, what the first DECISION carried on a participant (R147). -/
def State.samplingOf (s : State) (slot : Nat) : Sampling :=
  match s.reqOfSlot slot with
  | some r => r.sampling
  | none => (tget slot s.coll.sampling).getD {}

/-- The slot of the other request of a pair in the step in flight (R123): the LIVE slot of the group whose entry carries the
handle that the slot's sampling record names. -/
def State.partnerSlot (s : State) (slot : Nat) : Option Nat :=
  let sp := s.samplingOf slot
  match s.shapeNow with
  | none => none
  | some f =>
    if !sp.hasPartner then none
    else ((List.range f.groupSize).map (fun i => slot / f.groupSize * f.groupSize + i)).find?
      (fun p => p != slot && (s.entry p).kind == .live && (s.entry p).req == sp.partner)

/-- Mark one LIVE slot dry in step (R32): counted for its request; the mark stands unless the slot is dry already or its
commit stands. `here` takes the mark. -/
def State.markOne (here : State → State) (s : State) (slot cause : Nat) : State :=
  if (s.entry slot).kind ≠ .live ∨ (s.dryOf slot).isSome then s
  else
    let s := match s.reqOfSlot slot with
      | some r => s.modReq r.handle (fun r => r.countDry cause)
      | none => s
    if s.reqs.settled.contains slot then s else here s

/-- A slot run dry, and the other slot of its pair with it (R123). -/
def State.markPair (here : Nat → State → State) (s : State) (slot cause : Nat) : State :=
  let s := s.markOne (here slot) slot cause
  match s.partnerSlot slot with
  | some p => s.markOne (here p) p cause
  | none => s

/-- Mark a LIVE slot dry in step, for a cause that the shell finds. -/
def State.markDry (s : State) (slot cause : Nat) : State :=
  s.markPair (fun i s => s.modShell (fun h => { h with dry := tput i cause h.dry })) slot cause

/-- A dry mark on its way from ENG to the shell, one event of the 64 that the queue holds, for 3 FAB cycles. A full queue
drops it and the drop is logged; the slot table keeps it for the row summary (R386, R387). -/
def State.sendMark (s : State) (slot cause : Nat) : State :=
  let queue := s.shell.engMarks.filter (fun d => decide (s.clk.fab < d))
  if queue.length < 64 then
    s.modShell (fun h => { h with dry := tput slot cause h.dry, engMarks := queue ++ [s.clk.fab + 3] })
  else (s.modColl (fun c => { c with dry := tput slot cause c.dry })).logErr errDryMarkDropped none s.shell.step 0 0

/-- Mark a LIVE slot dry in step, for a cause that ENG finds. -/
def State.engDry (s : State) (slot cause : Nat) : State := s.markPair (fun i s => s.sendMark i cause) slot cause

/-- Mark several slots dry. -/
def State.markDryAll (s : State) (slots : List Nat) (cause : Nat) : State := slots.foldl (fun s i => s.markDry i cause) s

/-- Mark several slots dry for a cause that ENG finds. -/
def State.engDryAll (s : State) (slots : List Nat) (cause : Nat) : State := slots.foldl (fun s i => s.engDry i cause) s

/-! ### Request states and their times (R306) -/

/-- A request's next state, with the time spent WAITING or PAUSED counted. -/
def Request.goTo (now : Nat) (st : ReqState) (r : Request) : Request :=
  let d := now - r.since
  { r with st := st, since := now,
           tele := match r.st with
             | .waiting => { r.tele with waitTicks := r.tele.waitTicks + d }
             | .paused => { r.tele with pausedTicks := r.tele.pausedTicks + d }
             | _ => r.tele }

/-- The next number of the order in which requests become eligible or are used. -/
def State.tick (s : State) : State := s.modReqs (fun q => { q with order := q.order + 1 })

/-- A request becomes eligible: WAITING, behind every request that waits already (R306, R326). -/
def State.makeWaiting (s : State) (h : Handle) : State :=
  let s := s.tick
  s.modReq h (fun r => { r.goTo s.now .waiting with eligible := s.reqs.order })

/-- FEED_WIDTH of the shape in force: of the build buffer before the first step. -/
def State.feedWidth (s : State) : Nat :=
  match s.shapeNow, s.shell.building with | some f, _ => f.feedWidth | none, some b => b.shape.feedWidth | none, none => 1

/-- Prompt tokens reported and not yet fed. -/
def Request.unfed (r : Request) : Nat := r.prompt.length - r.fed

/-- Whether a request in ENCODING may wait for a slot (R306, R315): under reject only once its stream has ended. -/
def Request.mayWait (f : Nat) (r : Request) : Bool :=
  (!r.sampling.follow || r.sampling.partner != 0) && (r.streamEnded || (r.opts.invalid != 2 && decide (f ≤ r.unfed)))

/-- Take a request in ENCODING to WAITING when it may. -/
def State.tryWaiting (s : State) (h : Handle) : State :=
  match s.findReq h with
  | some r => if r.st = .encoding ∧ r.mayWait s.feedWidth then s.makeWaiting h else s
  | none => s

/-- A shape has come into force: requests in ENCODING are held against its FEED_WIDTH (R306). -/
def State.reweigh (s : State) : State :=
  (s.reqs.table.filter (fun p => p.2.st == .encoding)).foldl (fun s p => s.tryWaiting p.2.handle) s

/-- A request's record is used: the order of R302. -/
def State.useHot (s : State) (h : Handle) : State :=
  let s := s.tick
  s.modReq h (fun r => { r with lastUse := s.reqs.order })

/-! ### Records hot and cold (R301, R302) -/

/-- Places of the hot table taken or promised: records hot and records moving in. -/
def State.hotCount (s : State) : Nat := (s.reqs.table.filter (fun p => p.2.hot || p.2.moving)).length

/-- Whether every place of the hot table is taken: one that moves out has still to leave it (R302). -/
def State.hotFull (s : State) : Bool := decide (Config.hotRecords ≤ (s.reqs.table.filter (fun p => p.2.hot)).length)

/-- Records moving out of the hot table. -/
def State.leavingCount (s : State) : Nat := (s.reqs.table.filter (fun p => p.2.hot && p.2.moving)).length

/-- The record that firmware moves out: the least recently used hot one whose request holds no slot. -/
def State.victim (s : State) : Option Request :=
  leastBy (fun (r : Request) => r.lastUse) ((s.reqs.table.map (fun p => p.2)).filter (fun r => r.hot && !r.moving && r.slot.isNone))

/-- Read or write a record in the cellar, whole, at class 3. Where it lies and how long it is the manual does not say. -/
def State.recordAccess (s : State) (index : Nat) (wr : Bool) : State :=
  s.modPorts (fun p => p.celPut [{ use := .record index, cls := 3, wr := wr, addr := Config.overflowAddr index, beats := Config.recordBeats }])

/-- A record begins to move. -/
def State.moveRecord (s : State) (r : Request) : State :=
  (s.modReq r.handle (fun r => { r with moving := true })).recordAccess (r.handle.toNat % 65536) r.hot

/-- A cold record is asked for; with no place left for it a victim moves out first. -/
def State.bringHot (s : State) (h : Handle) : State :=
  match s.findReq h with
  | none => s
  | some r =>
    if r.hot || r.moving then s
    else
      let s := if s.hotCount < Config.hotRecords + s.leavingCount then s else match s.victim with | some v => s.moveRecord v | none => s
      s.moveRecord r

end Sys2Proof.Machine
end

