-- ==== Sys2Proof/Machine/Mail.lean ====
section
/-! DEFINITION. Mailboxes (14_control_cores_boot_and_commands.md): how a command is served and answered, the commands
of Table 14-10, doorbells, command windows and response rings. -/

namespace Sys2Proof.Machine

/-! ### Opcodes (Tables 14-10 to 14-13) -/

def opIdentify : Nat := 0x0001
def opAttach : Nat := 0x0002
def opDetach : Nat := 0x0003
def opReadLog : Nat := 0x0004
def opReadBootReport : Nat := 0x0005
def opAdmitRequest : Nat := 0x0101
def opCancelRequest : Nat := 0x0102
def opReadRequest : Nat := 0x0103
def opSetGrammar : Nat := 0x0104
def opPostDrafts : Nat := 0x0105
def opEncodeOpen : Nat := 0x0106
def opAppendInput : Nat := 0x0107
def opEncodeClose : Nat := 0x0108
def opSetStepShape : Nat := 0x0201
def opSetHomeSlots : Nat := 0x0202
def opSetCustomer : Nat := 0x0203
def opSetPool : Nat := 0x0204
def opReadCustomer : Nat := 0x0205
def opSetVatPlan : Nat := 0x0301
def opSetPower : Nat := 0x0302
def opOpenWindow : Nat := 0x0303
def opCloseWindow : Nat := 0x0304
def opSetCollective : Nat := 0x0305
def opLoadLogitProgram : Nat := 0x0306
def opLoadBiasList : Nat := 0x0307
def opLoadVocab : Nat := 0x0308
def opReleaseVocab : Nat := 0x0309
def opSetVocabPartition : Nat := 0x030A
def opLoadGrammar : Nat := 0x030B
def opReleaseGrammar : Nat := 0x030C
def opLoadStopSet : Nat := 0x030D
def opReleaseStopSet : Nat := 0x030E
def opSetAdapterPool : Nat := 0x030F

/-- Whether the catalogue has an opcode (R361). -/
def opKnown (op : Nat) : Bool :=
  (decide (0x0001 ≤ op) && decide (op ≤ 0x0005)) || (decide (0x0101 ≤ op) && decide (op ≤ 0x0108))
    || (decide (0x0201 ≤ op) && decide (op ≤ 0x0205)) || (decide (0x0301 ≤ op) && decide (op ≤ 0x030F))

/-- The role that runs an opcode: 0 CC0 to 3 CC3. -/
def opRole (op : Nat) : Nat := op / 256

/-- The opcodes of skim mode (R348). -/
def opSkim (op : Nat) : Bool := decide (1 ≤ op) && decide (op ≤ 5)

/-! ### A taken command -/

def Taken.opcode (k : Taken) : Nat := leAt k.bytes 0 2
def Taken.len (k : Taken) : Nat := leAt k.bytes 2 2
def Taken.tag (k : Taken) : Word := BitVec.ofNat 32 (leAt k.bytes 4 4)
def Taken.body (k : Taken) : List Byte := k.bytes.drop 16

/-- Whether a taken command is the one that a sender and opcode name. -/
def Taken.isFor (k : Taken) (tag : Word) (op : Nat) : Bool := k.opcode == op && k.tag == tag

/-! ### Answers -/

/-- The commands of a context before a command of a tag and opcode. -/
def Context.earlier (x : Context) (tag : Word) (op : Nat) : List Taken := x.cmds.takeWhile (fun k => !k.isFor tag op)

/-- Commands of an earlier attachment still running (R355, R356). -/
def Context.busy (x : Context) : Bool := !x.attached && x.cmds.any (fun k => k.opcode != opAttach)

/-- Make a context DETACHED: what it has not started is dropped unanswered and counted (R352, R356). -/
def Context.detachOwn (x : Context) : Context :=
  { x with attached := false, dropped := sat 0xFFFF (x.dropped + x.cmds.length), cmds := [], waiting := [], reading := false }

/-- Finish a context's own DETACH once every earlier command is answered and the ring has room: its response is the
ring's last entry (R356). -/
def State.tryDetach (s : State) (b : Sender) : State :=
  let c := b.ctx.toNat
  let x := s.ctx c
  if !x.attached then s.modMbox (fun m => { m with detaches := m.detaches.filter (fun d => d != b) })
  else if (x.earlier b.tag opDetach).isEmpty && x.waiting.isEmpty && decide (0 < x.room) then
    let k := max 1 (((x.cmds.find? (fun k => k.isFor b.tag opDetach)).map (fun k => k.ladles)).getD 1)
    let s := s.modCtx c (fun x => { x with cmds := dropFirst (fun k => k.isFor b.tag opDetach) x.cmds })
    let s := s.ringWrite c ⟨1, opDetach, stOk, b.tag, k, [], false⟩
    (s.modCtx c Context.detachOwn).modMbox (fun m => { m with detaches := m.detaches.filter (fun d => d != b) })
  else if (x.earlier b.tag opDetach).isEmpty then s.askRing c
  else s

/-- Try the DETACHes that wait in a context. -/
def State.tryDetaches (s : State) (c : Nat) : State :=
  (s.mbox.detaches.filter (fun d => d.ctx.toNat == c)).foldl (fun s b => s.tryDetach b) s

/-- Answer the first command of a context that meets a test (R353, R361): its response with the ladles it took, and the
command ended. The response of a command whose context has been detached is discarded (R356). -/
def State.answerFirst (s : State) (b : Sender) (p : Taken → Bool) (op status : Nat) (body : List Byte) : State :=
  let c := b.ctx.toNat
  let k := (s.ctx c).cmds.find? p
  let s := s.modCtx c (fun x => { x with cmds := dropFirst p x.cmds })
  (s.giveResponse c ⟨1, op, status, b.tag, max 1 ((k.map (fun k => k.ladles)).getD 1), body, (k.map (fun k => k.accepted)).getD false⟩).tryDetaches c

/-- Answer the command that a sender and opcode name. -/
def State.answer (s : State) (b : Sender) (op status : Nat) (body : List Byte) : State :=
  s.answerFirst b (fun k => k.isFor b.tag op) op status body

/-- Refuse a command: a response body of LEN 0 (R361). -/
def State.refuse (s : State) (b : Sender) (op status : Nat) : State := s.answer b op status []

/-- A command dropped unanswered. -/
def State.dropCmd (s : State) (b : Sender) (op : Nat) : State :=
  s.modCtx b.ctx.toNat (fun x => { x with cmds := dropFirst (fun k => k.isFor b.tag op) x.cmds })

/-- Serve a command of a context: firmware at READY; the ROM in skim mode, where only the commands of R348 do anything.
A command other than ATTACH of a DETACHED context that was not taken while the context was ATTACHED is dropped
unanswered and counted (R352). -/
def State.serve (s : State) (b : Sender) (op : Nat) (f : State → State) : State :=
  let c := b.ctx.toNat
  let x := s.ctx c
  if !x.attached && op != opAttach && !x.cmds.any (fun k => k.isFor b.tag op) then
    if s.duty 0 || s.skimServes then s.modCtx c (fun x => { x with dropped := sat 0xFFFF (x.dropped + 1) }) else s
  else if s.skimServes then (if opSkim op then f s else s.refuse b op stSkim)
  else if s.duty (opRole op) then f s
  else s

/-! ### Bytes of reports -/

/-- The 32 bytes of a log entry (Table 17-1). -/
def LogEntry.bytes (e : LogEntry) : List Byte :=
  let x := leBytes 28 (pack [(32, e.seq), (64, e.req.time), (16, e.req.code), (12, e.req.slot.getD 0), (1, b2n e.req.slot.isSome), (3, 0),
    (32, e.req.d0.toNat), (32, e.req.d1.toNat), (32, e.req.d2.toNat)])
  x ++ leBytes 4 (crc32c x)

/-- The ROLES bytes of Table 14-6. -/
def Boot.roleBytes (b : Boot) : List Byte := (List.range 5).map (fun i =>
  match b.roles.getD i none with | some p => BitVec.ofNat 8 p | none => 0xFF)

/-- A boot-failure record of 32 B (Table 14-6). -/
def BootFail.bytes (f : BootFail) : List Byte :=
  leBytes 32 (pack [(64, f.time), (8, f.cause), (8, f.stage), (16, 0), (32, f.fwVersion.toNat), (32, f.detail0.toNat), (32, f.detail1.toNat), (64, 0)])

/-- The boot report (Table 14-6). -/
def Boot.report (b : Boot) : List Byte :=
  leBytes 2 (pack [(8, b.fcount), (8, b2n (b.stage == 9))]) ++ b.roleBytes ++ [0]
    ++ leBytes 8 (pack [(16, b.repairN), (8, b.repairSt), (8, 0), (32, if b.running then b.fwVersion.toNat else 0)])
    ++ slice ((b.fails.take 3).flatMap BootFail.bytes) 0 96

/-- Contexts ATTACHED. -/
def State.attachedCount (s : State) : Nat := (s.mbox.ctxs.filter (fun x => x.attached)).length

/-- IDENTIFY's response body (Table 14-10). -/
def State.identity (s : State) : List Byte :=
  leBytes 8 (pack [(16, Config.partId), (16, Config.stepping), (32, if s.boot.running then s.boot.fwVersion.toNat else 0)]) ++ s.boot.roleBytes ++ [0]
    ++ leBytes 34 (pack [(16, s.str.usable.toNat), (16, s.churn.lanes.toNat), (16, 0), (32, s.regs.mapoutRows), (64, s.regs.banksOk.toNat),
        (64, s.now), (16, s.attachedCount), (48, 0)])

/-! ### The commands of Table 14-10 -/

def cmdIdentify (b : Sender) (s : State) : State := s.answer b opIdentify stOk s.identity

/-- Refuse an ATTACH in a DETACHED context: nothing is written to host memory (R355, Table 15-13). -/
def State.refuseAttach (s : State) (b : Sender) (status : Nat) : State :=
  (s.dropCmd b opAttach).modCtx b.ctx.toNat (fun x => { x with lastRefusal := status })

/-- Whether the ring and the consumer word of an ATTACH are aligned and LOG2R is in range (R355, R357). -/
def attachRingOk (ring cidx : BitVec 64) (log2r : Nat) : Bool :=
  decide (4 ≤ log2r) && decide (log2r ≤ 12) && decide (ring.toNat % min (256 * 2 ^ log2r) 4096 = 0) && decide (cidx.toNat % 8 = 0)

/-- The context that an accepted ATTACH makes (R355, R376). -/
def Context.attach (x : Context) (ring cidx : BitVec 64) (log2r flags : Nat) : Context :=
  { x with attached := true, ring := ring, cidxAddr := cidx, log2r := log2r, notify := bit flags 0, wantLost := bit flags 1,
           wantFailover := bit flags 2, p := 0, c := 0, waiting := [], lost := 0, reading := false, idxLogged := false, taken := 0 }

/-- ATTACH (R355). -/
def cmdAttach (b : Sender) (ring cidx : BitVec 64) (log2r flags : Byte) (s : State) : State :=
  let c := b.ctx.toNat
  let x := s.ctx c
  if x.attached then s.refuse b opAttach (if 8 ≤ flags.toNat then stCmdReserved else stCtxAttached)
  else if 8 ≤ flags.toNat then s.refuseAttach b stCmdReserved
  else if !attachRingOk ring cidx log2r.toNat then s.refuseAttach b stCtxRing
  else if s.skimMode && c != 0 then s.refuseAttach b stSkim
  else if x.busy then s.refuseAttach b stCtxBusy
  else (s.modCtx c (fun x => x.attach ring cidx log2r.toNat flags.toNat)).answer b opAttach stOk []

/-- DETACH (R356). -/
def cmdDetach (b : Sender) (context : Nat) (s : State) : State :=
  if !(s.ctx context).attached then s.refuse b opDetach stCtxNone
  else if context = b.ctx.toNat then
    (s.modMbox (fun m => { m with detaches := m.detaches ++ [b] })).tryDetach b
  else
    let s := s.modCtx context (fun x => { x with attached := false, waiting := [], reading := false })
    (s.modMbox (fun m => { m with detaches := m.detaches.filter (fun d => d.ctx.toNat != context) })).answer b opDetach stOk []

/-- OLDEST (R401). -/
def Log.oldest (l : Log) : Nat := (l.next + 2 ^ 32 - l.entries.length) % 2 ^ 32

/-- READ_LOG (R406). -/
def cmdReadLog (b : Sender) (dest : BitVec 64) (first count : Word) (s : State) : State :=
  let l := s.log
  let d := (first.toNat + 2 ^ 32 - l.oldest) % 2 ^ 32
  if l.entries.length < d ∨ dest.toNat % 32 ≠ 0 ∨ count = 0 ∨ 32768 < count.toNat then s.refuse b opReadLog stLogRange
  else
    let es := (l.entries.drop d).take count.toNat
    (s.hostWrite dest (es.flatMap LogEntry.bytes)).answer b opReadLog stOk (leBytes 4 l.oldest ++ leBytes 4 l.next ++ leBytes 4 es.length)

def cmdReadBootReport (b : Sender) (s : State) : State := s.answer b opReadBootReport stOk s.boot.report

def execIdentify (t : Time) (by_ : Sender) (s : State) : Result1 := .next ((s.at t).serve by_ opIdentify (cmdIdentify by_))

def execAttach (t : Time) (by_ : Sender) (ring cidxAddr : BitVec 64) (log2r flags : Byte) (s : State) : Result1 :=
  .next ((s.at t).serve by_ opAttach (cmdAttach by_ ring cidxAddr log2r flags))

def execDetach (t : Time) (by_ : Sender) (context : BitVec 8) (s : State) : Result1 :=
  .next ((s.at t).serve by_ opDetach (cmdDetach by_ context.toNat))

def execReadLog (t : Time) (by_ : Sender) (dest : BitVec 64) (first count : Word) (s : State) : Result1 :=
  .next ((s.at t).serve by_ opReadLog (cmdReadLog by_ dest first count))

def execReadBootReport (t : Time) (by_ : Sender) (s : State) : Result1 :=
  .next ((s.at t).serve by_ opReadBootReport (cmdReadBootReport by_))

/-! ### Dropped accesses (R365, R374, R404) -/

/-- Record an error of an entry that may not be written again within 1,024 CTL cycles (R404): the entry where its rate
allows, the bit and the count always. -/
def State.limitedErr (s : State) (last : Option Nat) (code d0 d1 : Nat) : State × Bool :=
  let due := match last with | none => true | some c => decide (c + 1024 ≤ s.clk.ctl)
  if due then (s.logErr code none d0 d1 0, true)
  else match errBit code with
    | none => (s, false)
    | some n => (s.modRegs (fun r => r.record s.clk.ctl s.now code n (BitVec.ofNat 32 d0)), false)

/-- A register access dropped: sets ACCESS. -/
def State.dropAccess (s : State) (offset : Nat) (wr : Bool) : State :=
  let r := s.limitedErr s.regs.accessLogged errAccessDropped offset (b2n wr)
  r.1.modRegs (fun g => { g with accDropped := true, accessLogged := if r.2 then some s.clk.ctl else g.accessLogged })

/-- STAGE as BOOT_STATUS shows it. -/
def State.dropStaging (s : State) (offset : Nat) : State :=
  let r := s.limitedErr s.regs.stagingLogged errStagingDropped offset s.boot.stage
  if r.2 then r.1.modRegs (fun g => { g with stagingLogged := some s.clk.ctl }) else r.1

/-! ### Command windows and doorbells (R350 to R352, R374 to R376) -/

/-- Whether a window write is of whole aligned words within one slot (Table 15-1). -/
def slotWriteOk (offset n : Nat) : Bool :=
  decide (offset % 4 = 0) && decide (n % 4 = 0) && decide (0 < n) && decide (offset % 256 + n ≤ 256) && decide (offset % 4096 < 0x800)
    && decide (offset < 2 ^ 20)

/-- COMMAND_WINDOW_WRITE; `offset` counts from 0x0010_0000. -/
def State.windowWrite (s : State) (offset : Nat) (data : List Byte) : State :=
  if s.inRst 4 then s
  else if !slotWriteOk offset data.length then s.dropAccess (0x00100000 + offset) true
  else if s.boot.stage == 8 || (s.skimMode && offset / 4096 == 0) then
    s.modMbox (fun m => { m with windows := Memory.writeRun offset data m.windows })
  else (s.modRegs (fun r => { r with windowDrops := sat 0xFFFF (r.windowDrops + 1) })).dropStaging (0x00100000 + offset)

def execCommandWindowWrite (t : Time) (offset : Nat) (data : List Byte) (s : State) : Result1 :=
  .next ((s.at t).windowWrite offset data)

/-- Take a context's commands from TAKEN to V - 1 (R352): in a DETACHED context all but ATTACH are dropped and
counted. -/
def Context.take (x : Context) (cmds : List Taken) (v : Nat) : Context :=
  let keep := if x.attached then cmds else cmds.filter (fun k => k.opcode == opAttach)
  { x with cmds := x.cmds ++ keep, dropped := sat 0xFFFF (x.dropped + (cmds.length - keep.length)), taken := v, doorbell := v }

/-- The commands a doorbell value covers, read from the slots. -/
def State.slotCmds (s : State) (c v : Nat) : List Taken :=
  let x := s.ctx c
  (List.range ((v + 65536 - x.taken) % 65536)).map (fun i =>
    { bytes := Memory.readRun (4096 * c + 256 * ((x.taken + i) % 8)) 256 s.mbox.windows })

/-- CC0 takes a doorbell (R352). -/
def State.takeDoorbell (s : State) (c v : Nat) : State :=
  let x := s.ctx c
  if 8 < (v + 65536 - x.taken) % 65536 + x.unanswered then
    (s.modCtx c (fun x => { x with ignored := sat 0xFFFF (x.ignored + 1) })).logErr errDoorbellIgnored none c v x.taken
  else s.modCtx c (fun x => x.take (s.slotCmds c v) v)

/-- A doorbell write: dropped where its reserved upper half is not 0 (R375). While CC0's role is being taken over it waits for
the new core (R376). -/
def State.doorbell (s : State) (c : Nat) (value : Word) : State :=
  let v := value.toNat
  if s.inRst 4 then s
  else if s.inRst 2 || decide (65536 ≤ v) then s.dropAccess (0x00010000 + 16 * c) true
  else if s.skimServes then s.takeDoorbell c v
  else if s.fw && s.boot.stage == 8 then
    if s.roleUp 0 then s.takeDoorbell c v else s.modCtx c (fun x => { x with rung := x.rung ++ [v] })
  else s

def execDoorbell (t : Time) (ctx : BitVec 8) (value : Word) (s : State) : Result1 :=
  .next ((s.at t).hostAct ⟨true, 0x10000 + 16 * ctx.toNat, 4, value.setWidth 64⟩ (fun s => s.doorbell ctx.toNat value))

/-! ### Reads of a ring's consumer word (R354) -/

/-- RING_CONSUMER_POLL. Doorbells whose 2 µs are over go out with it (DESIGN CHOICE, notes/assumptions/147.md). -/
def execRingConsumerPoll (t : Time) (ctx : BitVec 8) (s : State) : Result1 :=
  let s := s.at t
  .next (if !s.duty 0 && !s.skimServes then s
    else
      let s := s.ringAll
      let x := s.ctx ctx.toNat
      if x.attached && (!x.waiting.isEmpty || decide (0 < x.lost)) then s.askRing ctx.toNat else s)

/-- EVENTS_LOST once room has returned. -/
def State.giveLost (s : State) (c : Nat) : State :=
  let x := s.ctx c
  if x.lost = 0 then s
  else
    let r := s.tryEvent c evEventsLost (leBytes 4 x.lost)
    if r.2 then r.1.modCtx c (fun x => { x with lost := 0 }) else s

/-- What a read of a context's consumer word brings: a value out of range or a failure is ignored and logged once per
attachment. -/
def State.ringRead (s : State) (c : Nat) (value : Option (BitVec 64)) : State :=
  let x := s.ctx c
  let bad := fun (d1 d2 : Nat) (s : State) =>
    if x.idxLogged then s else (s.logErr errRingConsumerIndex none c d1 d2).modCtx c (fun x => { x with idxLogged := true })
  let s := s.modCtx c (fun x => { x with reading := false })
  match value with
  | none => bad 0 2 s
  | some v =>
    let k := v.toNat % 2 ^ 32
    if 2 ^ x.log2r < (x.p + 2 ^ 32 - k) % 2 ^ 32 then bad k 1 s
    else (State.drainRing c x.waiting.length (s.modCtx c (fun x => { x with c := k }))).giveLost c |>.tryDetaches c

/-- RING_CONSUMER_READ_DONE: with no core in CC0's role the word is not looked at, and is read again later (R340, R341). -/
def execRingConsumerReadDone (t : Time) (ctx : BitVec 8) (value : Option (BitVec 64)) (s : State) : Result1 :=
  let s := s.at t
  let c := ctx.toNat
  .next (if !(s.ctx c).reading then s
    else if s.duty 0 || s.skimServes then s.ringRead c value
    else s.modCtx c (fun x => { x with reading := false }))

end Sys2Proof.Machine
end

