-- ==== Sys2Proof/Machine/Operands.lean ====
section
/-! DEFINITION. The records that commands, ports and messages carry, packed and unpacked: manifest entries and
token-port records (Tables 2-3, 2-4), tile headers (Table 2-7), sampling and speculation records (Tables 6-1, 8-1),
list entries (Table 5-3) and penalty lists (Table 7-6). -/

namespace Sys2Proof.Machine

/-! ### Manifest entries and token-port records -/

/-- KIND of a manifest entry. -/
def EntryKind.code : EntryKind → Nat
  | .idle => 0
  | .live => 1
  | .dry => 2

/-- A manifest entry as a number of 512 bits (Table 2-3). -/
def Entry.toNat (e : Entry) : Nat :=
  pack ([(2, e.kind.code), (1, b2n e.spec), (1, b2n e.prefill), (1, b2n e.first), (3, 0), (4, e.feed), (4, 0), (8, e.dryCause),
    (8, 0), (12, e.adslot), (1, b2n e.noAdapter), (19, 0), (32, e.req.toNat), (32, e.pos), (24, e.tok0.toNat), (8, 0),
    (32, e.step), (64, 0)] ++ (List.range 8).map (fun i => (32, (e.pass.getD i 0).toNat)))

/-- The entry a number of 512 bits holds; `none` for KIND 3, which the shell never issues (Table 2-3). -/
def entryOf (x : Nat) : Option Entry :=
  let k := bits x 0 2
  let kind : Option EntryKind := if k = 0 then some .idle else if k = 1 then some .live else if k = 2 then some .dry else none
  kind.map (fun k =>
    { kind := k, spec := bit x 2, prefill := bit x 3, first := bit x 4, feed := bits x 8 4, dryCause := bits x 16 8,
      adslot := bits x 32 12, noAdapter := bit x 44, req := BitVec.ofNat 32 (bits x 64 32), pos := bits x 96 32,
      tok0 := BitVec.ofNat 24 (bits x 128 24), step := bits x 160 32,
      pass := (List.range 8).map (fun i => BitVec.ofNat 32 (bits x (256 + 32 * i) 32)) })

/-- A token-port record as a number of 256 bits (Table 2-4). -/
def TokRecord.toNat (r : TokRecord) : Nat :=
  pack ((List.range 8).map (fun i => (24, (r.toks.getD i tokNone).toNat)) ++ [(32, r.req.toNat), (32, r.step)])

/-- The record a number of 256 bits holds. -/
def tokRecordOf (x : Nat) : TokRecord :=
  { toks := (List.range 8).map (fun i => BitVec.ofNat 24 (bits x (24 * i) 24)), req := BitVec.ofNat 32 (bits x 192 32),
    step := bits x 224 32 }

/-! ### Tile headers -/

/-- A tile header's fields (Table 2-7). -/
def headerOf (x : Nat) : Header :=
  { kind := bits x 0 8, format := bits x 8 8, posn := bits x 16 8, step16 := bits x 32 16, group := bits x 48 16, gsize := bits x 64 16,
    chunkFirst := bits x 96 32, chunkLen := bits x 128 32, bytes := bits x 160 32 }

/-- Whether a record of 64 B carries the right CRC in its last word. -/
def crc64Ok (x : Nat) : Bool := bits x 480 32 == crcOf 60 x

/-! ### Sampling and speculation records -/

/-- A sampling record (Table 6-1). -/
def samplingOf (x : Nat) : Sampling :=
  { prog := bits x 0 9, greedy := bit x 9, hasPartner := bit x 10, follow := bit x 11, topk := bits x 16 21, topp := bits x 48 17,
    minp := bits x 80 16, partner := BitVec.ofNat 32 (bits x 96 32), seed := BitVec.ofNat 64 (bits x 128 64),
    param := (List.range 4).map (fun i => BitVec.ofNat 32 (bits x (192 + 32 * i) 32)) }

/-- A sampling record as a number. -/
def Sampling.toNat (p : Sampling) : Nat :=
  pack ([(9, p.prog), (1, b2n p.greedy), (1, b2n p.hasPartner), (1, b2n p.follow), (4, 0), (21, p.topk), (11, 0), (17, p.topp),
    (15, 0), (16, p.minp), (32, p.partner.toNat), (64, p.seed.toNat)] ++ (List.range 4).map (fun i => (32, (p.param.getD i 0).toNat)))

/-- Whether a sampling record's fields are in range and its reserved bits 0 (R116). -/
def samplingFields (x : Nat) : Bool :=
  bits x 12 4 == 0 && bits x 37 11 == 0 && bits x 65 15 == 0 && bits x 320 192 == 0 && decide (bits x 16 21 ≤ 1048576)
    && decide (bits x 48 17 ≤ 65536) && (bit x 10 || bits x 96 32 == 0)

/-- A speculation record (Table 8-1). -/
def specOf (x : Nat) : SpecRecord :=
  { src := bits x 0 2, dmax := bits x 4 4, dinit := bits x 8 4, lookupN := bits x 12 4, low := bits x 16 8, high := bits x 24 8 }

/-- The checks of ST_SPEC_PARAM on the record alone (R165, Table 8-2). -/
def specFields (x : Nat) : Bool :=
  let r := specOf x
  bits x 2 2 == 0 && bits x 32 96 == 0
    && (r.src == 0 || (decide (r.dmax ≤ 8) && decide (r.dinit ≤ r.dmax) && decide (1 ≤ r.high) && decide (r.low < r.high)
        && (r.src != 1 || (decide (1 ≤ r.lookupN) && decide (r.lookupN ≤ 8)))))

/-! ### Lists -/

/-- A list entry as a number of 64 bits (Table 5-3). -/
def ListEntry.toNat (e : ListEntry) : Nat := pack [(32, e.key.toNat), (24, e.id.toNat), (8, 0)]

/-- The list entry a number holds. -/
def listEntryOf (x : Nat) : ListEntry := ⟨BitVec.ofNat 32 (bits x 0 32), BitVec.ofNat 24 (bits x 32 24)⟩

/-- A penalty list as 256 entries of 4 B (Table 7-6). -/
def penaltyNat (l : List (TokenId × Nat)) : Nat :=
  pack ((List.range 256).flatMap (fun i => match l[i]? with
    | some (t, c) => [(24, t.toNat), (8, c)]
    | none => [(24, 0xFFFFFF), (8, 0)]))

/-- The penalty list that 1,024 bytes hold: entries up to the unused ones. -/
def penaltyOf (x : Nat) : List (TokenId × Nat) :=
  (((List.range 256).map (fun i => (BitVec.ofNat 24 (bits x (32 * i) 24), bits x (32 * i + 24) 8))).filter
    (fun e => e.1 != tokNone)).map (fun e => (e.1, e.2))

/-! ### Records of a selection and of a draw -/

/-- A result record as its 32 B (Table 5-4). SIG travels beside it (Table 7-4). -/
def Result.toBits (r : Result) : BitVec 256 :=
  BitVec.ofNat 256 (pack [(32, r.selstat.toNat), (32, r.valid), (32, r.above), (32, r.ties), (32, r.tau.toNat), (32, r.lmax.toNat),
    (32, r.nancnt), (16, r.count), (16, r.block)])

/-- A draw record as its 64 B (Table 6-8). -/
def DrawRecord.toBits (d : DrawRecord) : BitVec 512 :=
  BitVec.ofNat 512 (pack [(32, d.selstat.toNat), (24, d.token.toNat), (1, b2n d.greedy), (1, b2n d.kcut), (1, b2n d.mpcut),
    (1, b2n d.pcut), (1, b2n d.empty), (2, d.attempt), (1, 0), (32, d.key.toNat), (32, d.weight), (64, d.wnuc), (64, d.target),
    (32, d.nnuc), (32, d.kminp.toNat), (32, d.rstep), (32, d.invT.toNat), (128, 0)])

end Sys2Proof.Machine
end

