-- ==== Sys2Proof/Machine/Float.lean ====
section
/-! DEFINITION. IEEE 754 binary32 arithmetic, rounded to nearest with ties to even, subnormals kept (R70, R71, R82,
R118), computed exactly on integers and narrowed once. -/

namespace Sys2Proof.Machine

/-- A binary32 value: (-1)^neg * m * 2^e when finite. -/
inductive F32 where
  | nan
  | inf (neg : Bool)
  | fin (neg : Bool) (m : Nat) (e : Int)
deriving DecidableEq, Repr

/-- The NaN that an operation of this model gives. Every NaN has one key (R73), so its payload never shows. -/
def qnan : Word := 0x7FC00000#32

/-- A signed zero. -/
def zeroF (neg : Bool) : Word := if neg then 0x80000000#32 else 0#32

/-- A signed infinity. -/
def infF (neg : Bool) : Word := if neg then 0xFF800000#32 else 0x7F800000#32

/-- The value of a bit pattern. -/
def decodeF (v : Word) : F32 :=
  let x := v.toNat
  let neg := bit x 31
  let ex := bits x 23 8
  let fr := bits x 0 23
  if ex = 255 then (if fr = 0 then .inf neg else .nan)
  else if ex = 0 then .fin neg fr (-149)
  else .fin neg (fr + 2 ^ 23) ((ex : Int) - 150)

/-- num / den rounded to nearest, ties to even. -/
def divEven (num den : Nat) : Nat :=
  let q := num / den
  let r := num % den
  if 2 * r < den then q else if den < 2 * r then q + 1 else if q % 2 = 0 then q else q + 1

/-- x * 2^s for an integer s, as a fraction (numerator, denominator factor). -/
def shiftFrac (num den : Nat) (s : Int) : Nat × Nat :=
  if 0 ≤ s then (num * 2 ^ s.toNat, den) else (num, den * 2 ^ (-s).toNat)

/-- The binary32 nearest to (-1)^neg * num / den * 2^e, for den > 0. -/
def roundF (neg : Bool) (num den : Nat) (e : Int) : Word :=
  if num = 0 then zeroF neg
  else
    -- the exponent of the leading bit
    let est : Int := (num.log2 : Int) - (den.log2 : Int) + e
    let (n0, d0) := shiftFrac num den (e - est)
    let ex : Int := if d0 ≤ n0 then est else est - 1
    let k : Int := max (ex - 23) (-149)
    let (n1, d1) := shiftFrac num den (e - k)
    let q := divEven n1 d1
    let out := (k + 149).toNat * 2 ^ 23 + q
    let out := if 0x7F800000 ≤ out then 0x7F800000 else out
    BitVec.ofNat 32 (out + (if neg then 2 ^ 31 else 0))

/-- Sum of two binary32 values. -/
def f32Add (a b : Word) : Word :=
  match decodeF a, decodeF b with
  | .nan, _ => qnan
  | _, .nan => qnan
  | .inf s, .inf t => if s = t then infF s else qnan
  | .inf s, _ => infF s
  | _, .inf t => infF t
  | .fin s m e, .fin t n f =>
    let g := min e f
    let x : Int := (if s then -1 else 1) * ((m * 2 ^ (e - g).toNat : Nat) : Int)
    let y : Int := (if t then -1 else 1) * ((n * 2 ^ (f - g).toNat : Nat) : Int)
    let z := x + y
    if z = 0 then zeroF (s && t) else roundF (decide (z < 0)) z.natAbs 1 g

/-- The negated value. -/
def f32Neg (a : Word) : Word := a ^^^ 0x80000000#32

/-- Difference of two binary32 values. -/
def f32Sub (a b : Word) : Word := f32Add a (f32Neg b)

/-- Product of two binary32 values. -/
def f32Mul (a b : Word) : Word :=
  match decodeF a, decodeF b with
  | .nan, _ => qnan
  | _, .nan => qnan
  | .inf s, .inf t => infF (s != t)
  | .inf s, .fin t n _ => if n = 0 then qnan else infF (s != t)
  | .fin s m _, .inf t => if m = 0 then qnan else infF (s != t)
  | .fin s m e, .fin t n f => roundF (s != t) (m * n) 1 (e + f)

/-- Quotient of two binary32 values. -/
def f32Div (a b : Word) : Word :=
  match decodeF a, decodeF b with
  | .nan, _ => qnan
  | _, .nan => qnan
  | .inf _, .inf _ => qnan
  | .inf s, .fin t _ _ => infF (s != t)
  | .fin s _ _, .inf t => zeroF (s != t)
  | .fin s m e, .fin t n f =>
    if n = 0 then (if m = 0 then qnan else infF (s != t)) else roundF (s != t) m n (e - f)

/-- 1.0. -/
def oneF : Word := 0x3F800000#32

/-- Whether a bit pattern is a NaN. -/
def isNanF (v : Word) : Bool := match decodeF v with | .nan => true | _ => false

/-- Whether a bit pattern is finite. -/
def isFinF (v : Word) : Bool := match decodeF v with | .fin _ _ _ => true | _ => false

/-- a < b, false when either is a NaN. -/
def f32Lt (a b : Word) : Bool :=
  match decodeF a, decodeF b with
  | .nan, _ => false
  | _, .nan => false
  | .inf s, .inf t => s && !t
  | .inf s, .fin _ _ _ => s
  | .fin _ _ _, .inf t => !t
  | .fin s m e, .fin t n f =>
    let g := min e f
    let x : Int := (if s then -1 else 1) * ((m * 2 ^ (e - g).toNat : Nat) : Int)
    let y : Int := (if t then -1 else 1) * ((n * 2 ^ (f - g).toNat : Nat) : Int)
    decide (x < y)

/-- a ≤ b, false when either is a NaN. -/
def f32Le (a b : Word) : Bool := !isNanF a && !isNanF b && !f32Lt b a

/-- x > 0. -/
def f32Pos (v : Word) : Bool := f32Lt 0#32 v

/-- The binary32 nearest to a natural number. -/
def natF (n : Nat) : Word := roundF false n 1 0

end Sys2Proof.Machine
end

