-- ==== Sys2Proof/Machine/Keys.lean ====
section
/-! DEFINITION. Numeric formats, ordering keys and integer weights (04_keys_ordering_and_weights.md). -/

namespace Sys2Proof.Machine

/-- Bytes of one element by FORMAT code (Table 2-6). -/
def elemBytes (format : Nat) : Nat :=
  if format = 0 ∨ format = 1 then 2 else if format = 2 then 4 else 1

/-- Whether a FORMAT code is block-scaled (Table 2-6). -/
def blockScaled (format : Nat) : Bool := format == 5 || format == 6

/-- The element format of a code: bits, exponent bits, fraction bits, bias, and whether it has infinities (Table 4-1). -/
structure Fmt where
  width : Nat
  ebits : Nat
  fbits : Nat
  bias : Nat
  hasInf : Bool
deriving DecidableEq, Repr

/-- Table 4-1. -/
def fmtOf (format : Nat) : Fmt :=
  if format = 0 then ⟨16, 8, 7, 127, true⟩
  else if format = 1 then ⟨16, 5, 10, 15, true⟩
  else if format = 2 then ⟨32, 8, 23, 127, true⟩
  else if format = 3 ∨ format = 5 then ⟨8, 4, 3, 7, false⟩
  else ⟨8, 5, 2, 15, true⟩

/-- Native key width Kn of a FORMAT code (Table 4-1). -/
def keyWidth (format : Nat) : Nat := if blockScaled format then 32 else (fmtOf format).width

/-- Whether an element's bits are a NaN of its format (Table 4-1). -/
def isNanElem (format x : Nat) : Bool :=
  let f := fmtOf format
  let ex := bits x f.fbits f.ebits
  let fr := bits x 0 f.fbits
  let top := 2 ^ f.ebits - 1
  if f.hasInf then ex == top && fr != 0 else ex == top && fr == 2 ^ f.fbits - 1

/-- Whether an element's bits are an infinity of its format. -/
def isInfElem (format x : Nat) : Bool :=
  let f := fmtOf format
  f.hasInf && bits x f.fbits f.ebits == 2 ^ f.ebits - 1 && bits x 0 f.fbits == 0

/-- The binary32 value of an element, exact for every format (R71). -/
def widen (format x : Nat) : Word :=
  let f := fmtOf format
  let neg := bit x (f.width - 1)
  let ex := bits x f.fbits f.ebits
  let fr := bits x 0 f.fbits
  if isNanElem format x then qnan
  else if isInfElem format x then infF neg
  else if ex = 0 then roundF neg fr 1 (1 - (f.bias : Int) - (f.fbits : Int))
  else roundF neg (fr + 2 ^ f.fbits) 1 ((ex : Int) - (f.bias : Int) - (f.fbits : Int))

/-- The value of a block-scaled element (R70). -/
def scaledValue (format x : Nat) (scale : Word) : Word :=
  if isNanElem format x || isInfElem format x || isNanF scale then qnan else f32Mul (widen format x) scale

/-- key32 of R73. -/
def key32 (v : Word) : Word :=
  if (v &&& 0x7F800000#32) = 0x7F800000#32 ∧ (v &&& 0x007FFFFF#32) ≠ 0#32 then 0xFFC00000#32
  else if v >>> 31 = 0#32 then 0x80000000#32 + (v &&& 0x7FFFFFFF#32)
  else 0x80000000#32 - (v &&& 0x7FFFFFFF#32)

/-- The NaN key and the exclusion key in 32 bits (R75, R78). -/
def nanKey : Word := 0xFFC00000#32

/-- The value of a key other than 0 and the NaN key (R74). -/
def keyValue (k : Word) : Word :=
  if 0x80000000#32 ≤ k then k - 0x80000000#32 else 0x80000000#32 ||| (0x80000000#32 - k)

/-- The magnitude of a format's positive canonical quiet NaN (R75, Table 4-2). -/
def quietNan (format : Nat) : Nat :=
  let f := fmtOf format
  if f.hasInf then (2 ^ f.ebits - 1) * 2 ^ f.fbits + 2 ^ (f.fbits - 1) else 2 ^ (f.width - 1) - 1

/-- The native key of an element's bits (R75), for a format that is not block-scaled. -/
def nativeKey (format x : Nat) : Nat :=
  let w := (fmtOf format).width
  let mid := 2 ^ (w - 1)
  let mag := x % mid
  if isNanElem format x then mid + quietNan format
  else if bit x (w - 1) then mid - mag else mid + mag

/-- k32 of a native key (R75): the key32 of the widened value; the exclusion key stays 0. -/
def keyTo32 (format kn : Nat) : Word :=
  let w := (fmtOf format).width
  let mid := 2 ^ (w - 1)
  if kn = 0 then 0#32
  else if kn = mid + quietNan format then nanKey
  else if mid ≤ kn then key32 (widen format (kn - mid)) else key32 (widen format (mid + (mid - kn)))

/-- The order value of R79. -/
def orderValue (k : Word) (id : TokenId) : Nat := k.toNat * 2 ^ 24 + (0xFFFFFF - id.toNat)

/-- L of R83, round(ln 2 * 2^32). -/
def ln2q : Nat := 0xB17217F8

/-- The Horner steps of ref_exp for k, k - 1, ..., 1 (R83). -/
def expHorner (s : Nat) : Nat → Nat → Nat
  | 0, t => t
  | k + 1, t => expHorner s k (2 ^ 62 - ((s * t) >>> 62) / (k + 1))

/-- The tail of ref_exp from y, the magnitude of z in 32 fraction bits (R83). -/
def refExpQ (y : Nat) : Nat :=
  let n := y / ln2q
  let r := y - n * ln2q
  if 33 ≤ n then 0
  else
    let t := expHorner (r <<< 30) 14 (2 ^ 62)
    min ((t + 2 ^ (29 + n)) >>> (30 + n)) 0xFFFFFFFF

/-- ref_exp of R83, for z ≤ 0. -/
def refExp (z : Word) : Nat :=
  if f32Lt z 0xC1C00000#32 then 0
  else match decodeF z with
    | .fin _ m e =>
      let (n, d) := shiftFrac m 1 (e + 32)
      refExpQ (divEven n d)
    | _ => 0

/-- weight of R82; kM is `none` when undefined. -/
def weight (k : Word) (kM : Option Word) (invT : Word) : Nat :=
  if k = 0#32 then 0
  else if k = nanKey then 0xFFFFFFFF
  else match kM with
    | none => 0xFFFFFFFF
    | some m => if k = m then 0xFFFFFFFF else refExp (f32Mul (f32Sub (keyValue k) (keyValue m)) invT)

end Sys2Proof.Machine
end

