-- ==== Sys2Proof/Machine/Select.lean ====
section
/-! DEFINITION. Radix selection (05_radix_selection.md) and the merge of partial results (R149 to R151), as pure
functions of a row's entries. -/

namespace Sys2Proof.Machine

/-- One entry of a row as a strainer holds it: local index, native key, k32, token ID, and whether its value is a NaN. -/
structure RowEntry where
  idx : Nat
  kn : Nat
  k32 : Word
  id : TokenId
  nan : Bool
deriving DecidableEq, Repr

/-- Digit schedule of Table 5-2: (shift, width) of each pass. -/
def schedule (kn : Nat) : List (Nat × Nat) :=
  if kn = 8 then [(0, 8)] else if kn = 16 then [(5, 11), (0, 5)] else [(21, 11), (10, 11), (0, 10)]

/-- Scan time C(w) of a histogram (R89). -/
def scanCycles (w : Nat) : Nat := ceilDiv (2 ^ w) 64 + 4

/-- Whether an entry is counted in a pass with a prefix (R89). -/
def countedIn (key s w pre : Nat) : Bool := key != 0 && (key >>> (s + w)) == pre

/-- Count histogram of a pass (R89), buckets ascending. -/
def passHist (es : List RowEntry) (s w pre : Nat) : List Nat :=
  let ds := (es.filter (fun e => countedIn e.kn s w pre)).map (fun e => (e.kn >>> s) % 2 ^ w)
  (List.range (2 ^ w)).map (fun b => ds.countP (fun d => d == b))

/-- The scan of R90 over buckets from the highest down; `b` buckets are left. -/
def narrowGo : List Nat → Nat → Nat → Nat → Option Nat × Nat
  | [], _, _, acc => (none, acc)
  | c :: r, b, need, acc => if need ≤ acc + c then (some (b - 1), acc) else narrowGo r (b - 1) need (acc + c)

/-- narrow of R90; `none` is NO_BUCKET. -/
def narrow (h : List Nat) (need : Nat) : Option Nat × Nat := narrowGo h.reverse h.length need 0

/-- Where the passes of R94 and R95 end: the prefix chosen, its shift, and how many entries to take from its bucket. -/
structure Narrowed where
  pre : Nat
  shift : Nat
  need : Nat
  passes : Nat                                     -- passes run, pass 1 included
deriving DecidableEq, Repr

/-- Passes of R94 and R95 over the remaining schedule. -/
def narrowing (es : List RowEntry) : List (Nat × Nat) → Nat → Nat → Nat → Narrowed
  | [], pre, need, n => ⟨pre, 0, need, n⟩
  | (s, w) :: rest, pre, need, n =>
    let h := passHist es s w pre
    match narrow h need with
    | (none, _) => ⟨pre, s + w, need, n + 1⟩
    | (some b, acc) =>
      let pre' := pre * 2 ^ w + b
      let need' := need - acc
      if h.getD b 0 = need' then ⟨pre', s, need', n + 1⟩ else narrowing es rest pre' need' (n + 1)

/-- The R79 order on list entries: whether `a` ranks above `b`. -/
def ranksAbove (a b : ListEntry) : Bool := decide (orderValue b.key b.id < orderValue a.key a.id)

/-- A list in R79 order. -/
def sortEntries (l : List ListEntry) : List ListEntry := sortBy ranksAbove l

/-- Padding of a SHORT list (R96, R98). -/
def padEntry : ListEntry := ⟨0, tokNone⟩

/-- The row's first-pass figures (R91): VALID, NANCNT, LMAX as a k32, SIG. -/
def rowFigures (es : List RowEntry) : Nat × Nat × Word × Nat :=
  let valid := es.filter (fun e => e.kn != 0)
  let lmax := valid.foldl (fun m e => if e.k32 != nanKey && decide (m < e.k32) then e.k32 else m) 0#32
  (valid.length, es.countP (fun e => e.nan), lmax, (es.foldl (fun a e => a + e.k32.toNat) 0) % 2 ^ 32)

/-- SELSTAT bits of Table 5-5. -/
def selstatOf (short nan tiecut sovf ext slab : Bool) : Word :=
  BitVec.ofNat 32 (pack [(1, b2n short), (1, b2n nan), (1, 0), (1, b2n tiecut), (1, b2n sovf), (1, 0), (1, b2n ext), (1, b2n slab)])

/-- A list selection over the entries given, of 1 ≤ k ≤ 256 (R94 to R97), with the figures of the whole row. `ext`
gives BLOCK and EXT (R104); the list has k positions (R96). -/
def selectList (width k : Nat) (es : List RowEntry) (figs : Nat × Nat × Word × Nat) (sovf : Bool) (block : Nat) :
    List ListEntry × Result :=
  let valid := es.filter (fun e => e.kn != 0)
  let asEntry := fun (e : RowEntry) => (⟨e.k32, e.id⟩ : ListEntry)
  let taken : List RowEntry × Option Nat :=          -- entries taken, and TIES when the last pass ran
    if valid.length < k then (valid, none)
    else
      let n := narrowing valid (schedule width) 0 k 0
      let above := valid.filter (fun e => decide (n.pre < e.kn >>> n.shift))
      let at_ := valid.filter (fun e => (e.kn >>> n.shift) == n.pre)
      (above ++ at_.take n.need, if n.shift = 0 then some at_.length else none)
  let list := sortEntries (taken.1.map asEntry)
  let tau := match list.getLast? with | some e => e.key | none => 0#32
  let ties := match taken.2 with
    | some n => n
    | none => list.countP (fun e => e.key == tau)
  let ties := if list.isEmpty then 0 else ties
  let above := list.countP (fun e => decide (tau < e.key))
  let short := decide (valid.length < k)
  let r : Result :=
    { selstat := selstatOf short (decide (figs.2.1 ≠ 0)) (decide (list.length < above + ties)) sovf (decide (0 < block)) false,
      valid := valid.length, above := above, ties := ties, tau := tau, lmax := figs.2.2.1, nancnt := figs.2.1,
      count := list.length, block := block, sig := figs.2.2.2 }
  (list ++ List.replicate (k - list.length) padEntry, r)

/-- The record of a retained row's first pass (R103): COUNT = 0 and no list. -/
def retainedRecord (figs : Nat × Nat × Word × Nat) : Result :=
  { selstat := selstatOf false (decide (figs.2.1 ≠ 0)) false false false false, valid := figs.1, lmax := figs.2.2.1,
    nancnt := figs.2.1, sig := figs.2.2.2 }

/-- Entries that rank below a cursor (R104). -/
def belowCursor (c : ListEntry) (es : List RowEntry) : List RowEntry :=
  es.filter (fun e => decide (e.k32 < c.key) || (e.k32 == c.key && decide (c.id.toNat < e.id.toNat)))

/-- How many entries block b of a selection asks for (R103, R104): k of 0 asks for 256. -/
def blockLen (k b : Nat) : Nat := if k = 0 then 256 else min 256 (k - 256 * b)

/-- Block b of a retained row, below the cursor when there is one (R103, R104). -/
def selectBlock (width k b : Nat) (cursor : Option ListEntry) (es : List RowEntry) : List ListEntry × Result :=
  let figs := rowFigures es
  let rest := match cursor with | none => es | some c => belowCursor c es
  selectList width (blockLen k b) rest figs false b

/-! ### Row passes (R107, R108) -/

/-- The bucket of a row pass that an entry falls in, when the pass counts it. -/
def passBucket (width base : Nat) (q : PassReq) (e : RowEntry) : Option Nat :=
  let ov := orderValue e.k32 e.id
  if e.kn = 0 ∨ ov < q.lo ∨ q.hi ≤ ov ∨ q.excl.contains ov then none
  else match q.digit with
    | .key p => match (schedule width)[p - 1]? with
      | none => none
      | some (s, w) => if e.kn >>> (s + w) = q.prefixV then some ((e.kn >>> s) % 2 ^ w) else none
    | .key32 p => match (schedule 32)[p - 1]? with
      | none => none
      | some (s, w) => if e.k32.toNat >>> (s + w) = q.prefixV then some ((e.k32.toNat >>> s) % 2 ^ w) else none
    | .indexHi => if e.idx >>> 20 = q.prefixV then some ((e.idx >>> 9) % 2048) else none
    | .indexLo => if e.idx >>> 9 = q.prefixV then some (e.idx % 512) else none
    | .baseHi => if base >>> 20 = q.prefixV then some ((base >>> 9) % 2048) else none
    | .baseLo => if base >>> 9 = q.prefixV then some (base % 512) else none

/-- Width of a pass's digit. -/
def digitWidth (width : Nat) : Digit → Nat
  | .key p => match (schedule width)[p - 1]? with | some (_, w) => w | none => 0
  | .key32 p => match (schedule 32)[p - 1]? with | some (_, w) => w | none => 0
  | .indexHi => 11
  | .indexLo => 9
  | .baseHi => 11
  | .baseLo => 9

/-- The histogram of a row pass: counts, and weight sums when weighted (R107, R108). -/
def rowPassHist (width base : Nat) (es : List RowEntry) (q : PassReq) : List Bucket :=
  let hits := es.filterMap (fun e => (passBucket width base q e).map
    (fun b => (b, if q.weighted then weight e.k32 q.km q.invT else 0)))
  (List.range (2 ^ digitWidth width q.digit)).map (fun b =>
    let mine := hits.filter (fun h => h.1 == b)
    { count := mine.length, weight := (mine.map (fun h => h.2)).foldl (· + ·) 0 })

/-- Bucket-wise sum of two histograms (R88, R113, R154). -/
def addHist : List Bucket → List Bucket → List Bucket
  | [], h => h
  | h, [] => h
  | a :: r, b :: t => { count := a.count + b.count, weight := a.weight + b.weight } :: addHist r t

/-- Scan buckets in the order given until the running sum reaches X: the bucket, the sum and the count of entries before
it (R133). A bucket is given with its sum and its count. -/
def scanTo (x : Nat) : List (Nat × Nat × Nat) → Nat × Nat → Option (Nat × Nat × Nat)
  | [], _ => none
  | (b, v, n) :: r, acc => if acc.1 + v < x then scanTo x r (acc.1 + v, acc.2 + n) else some (b, acc)

/-- The figure of a bucket that a walk counts: its weight sum, or its count. -/
def bucketSum (weighted : Bool) (b : Bucket) : Nat := if weighted then b.weight else b.count

/-- Buckets numbered, highest first or lowest first, with their sums and counts. -/
def scanOrder (weighted down : Bool) (h : List Bucket) : List (Nat × Nat × Nat) :=
  let l := h.zipIdx.map (fun p => (p.2, bucketSum weighted p.1, p.1.count))
  if down then l.reverse else l

/-- A pass of a row walk, before its digit and prefix are filled in. -/
structure WalkKind where
  weighted : Bool
  lo : Nat
  km : Option Word
  invT : Word
deriving DecidableEq, Repr

/-- The exclusive bound above every order value. -/
def noBound : Nat := 2 ^ 56

/-- The request of one pass of a walk. -/
def walkReq (w : WalkKind) (excl : List Nat) (d : Digit) (pre lo hi : Nat) : PassReq :=
  ⟨d, pre, lo, hi, w.weighted, w.km, w.invT, excl⟩

/-- The key digits of a row walk (R133): the prefix, and the running sum and count before it. `hist` answers a pass with
its histogram, or with the request itself where the pass has still to be asked for; `none` means that the sum never
reaches X. -/
def walkKeys (hist : PassReq → Except PassReq (List Bucket)) (w : WalkKind) (excl : List Nat) (x : Nat) :
    List (Digit × Nat) → Nat → Nat × Nat → Except PassReq (Option (Nat × Nat × Nat))
  | [], pre, acc => .ok (some (pre, acc))
  | (d, wd) :: r, pre, acc =>
    match hist (walkReq w excl d pre w.lo noBound) with
    | .error q => .error q
    | .ok h => match scanTo x (scanOrder w.weighted true h) acc with
      | none => .ok none
      | some (b, acc') => walkKeys hist w excl x r (pre * 2 ^ wd + b) acc'

/-- The digits of the key field of a row with native width `width`. -/
def keyDigits (width : Nat) : List (Digit × Nat) :=
  (schedule width).zipIdx.map (fun p => (.key (p.2 + 1), p.1.2))

/-- The result of a row walk (R133): native key, local index, the running sum and the count of entries before the entry. -/
structure Walked where
  kn : Nat
  idx : Nat
  acc : Nat
  cnt : Nat
deriving DecidableEq, Repr

/-- One local-index digit of a row walk: the bucket, and the running sum and count before it. -/
def walkIndex (hist : PassReq → Except PassReq (List Bucket)) (w : WalkKind) (excl : List Nat) (x : Nat) (d : Digit)
    (pre lo hi : Nat) (acc : Nat × Nat) : Except PassReq (Option (Nat × Nat × Nat)) :=
  match hist (walkReq w excl d pre lo hi) with
  | .error q => .error q
  | .ok h => .ok (scanTo x (scanOrder w.weighted false h) acc)

/-- The row walk to a target X (R133) on an unsharded row; `to32` gives the k32 of a native key. -/
def rowWalk (width : Nat) (to32 : Nat → Word) (hist : PassReq → Except PassReq (List Bucket)) (w : WalkKind)
    (excl : List Nat) (x : Nat) : Except PassReq (Option Walked) :=
  match walkKeys hist w excl x (keyDigits width) 0 (0, 0) with
  | .error q => .error q
  | .ok none => .ok none
  | .ok (some (kn, acc)) =>
    let k := (to32 kn).toNat
    let lo := max w.lo (k * 2 ^ 24)
    let hi := (k + 1) * 2 ^ 24
    match walkIndex hist w excl x .indexHi 0 lo hi acc with
    | .error q => .error q
    | .ok none => .ok none
    | .ok (some (b1, acc1)) => match walkIndex hist w excl x .indexLo b1 lo hi acc1 with
      | .error q => .error q
      | .ok none => .ok none
      | .ok (some (b2, acc2)) => .ok (some ⟨kn, b1 * 512 + b2, acc2.1, acc2.2⟩)

/-- Sum over every bucket of a histogram. -/
def histTotal (weighted : Bool) (h : List Bucket) : Nat := (h.map (bucketSum weighted)).foldl (· + ·) 0

/-! ### Merging parts (R149 to R151, R112) -/

/-- Fold one entry into the best keys met so far: the table, duplicates, and whether keys differed. -/
def mergeEntry (a : List ListEntry × Nat × Bool) (e : ListEntry) : List ListEntry × Nat × Bool :=
  match a.1.find? (fun x => x.id == e.id) with
  | none => (a.1 ++ [e], a.2)
  | some x =>
    if x.key = e.key then (a.1, a.2.1 + 1, a.2.2)
    else (lmodIf (fun y => y.id == e.id) (fun y => { y with key := if y.key < e.key then e.key else y.key }) a.1, a.2.1 + 1, true)

/-- Whether bit n of a SELSTAT is set. -/
def statBit (w : Word) (n : Nat) : Bool := bit w.toNat n

/-- Smallest non-zero number of a list, 0 when none (Table 7-8). -/
def minNonZero (l : List Nat) : Nat := ((l.filter (· != 0)).min?).getD 0

/-- merge of R149 with the fields of Table 7-8, over parts of one block. -/
def mergeParts (parts : List Part) (k block : Nat) : Part :=
  let es := (parts.map (fun p => p.list.take p.res.count)).flatten
  let (best, dups, conflict) := es.foldl mergeEntry ([], 0, false)
  let sorted := sortEntries best
  let list := if k = 0 then sorted else sorted.take k
  let tau := match list.getLast? with | some e => e.key | none => 0#32
  let own := best.countP (fun e => e.key == tau)
  let extra := (parts.map (fun p =>
    if 0 < p.res.count ∧ p.res.tau = tau then 2 ^ 32 + p.res.ties - (p.list.take p.res.count).countP (fun e => e.key == tau) else 0)).foldl (· + ·) 0
  let ties := if list.isEmpty then 0 else (own + extra) % 2 ^ 32
  let above := list.countP (fun e => decide (tau < e.key))
  let any := fun n => parts.any (fun p => statBit p.res.selstat n)
  let stat := pack [(1, b2n (decide (list.length < k))), (1, b2n (any 1)), (1, 0), (1, b2n (decide (list.length < above + ties))),
    (1, b2n (any 4)), (1, b2n (conflict || any 5)), (1, b2n (any 6)), (1, b2n (any 7))]
  { list := list,
    res := { selstat := BitVec.ofNat 32 stat, valid := ((parts.map (fun p => p.res.valid)).foldl (· + ·) 0 + 2 ^ 32 - dups) % 2 ^ 32, above := above,
             ties := ties, tau := tau, lmax := parts.foldl (fun m p => if m < p.res.lmax then p.res.lmax else m) 0#32,
             nancnt := ((parts.map (fun p => p.res.nancnt)).foldl (· + ·) 0) % 2 ^ 32, count := list.length, block := block,
             sig := ((parts.map (fun p => p.res.sig)).foldl (· + ·) 0) % 2 ^ 32 },
    dryCause := minNonZero (parts.map (fun p => p.dryCause)),
    missing := ((parts.map (fun p => p.missing)).filter (· != 0xFFFF)).min?.getD 0xFFFF,
    hops := parts.foldl (fun m p => max m p.hops) 0 }

end Sys2Proof.Machine
end

