-- ==== Sys2Proof/Machine/DrawMath.lean ====
section
/-! DEFINITION. Logit programs, the order of stages and the draw (06_logit_programs_and_sampling.md). -/

namespace Sys2Proof.Machine

/-! ### Philox4x32-10 (R129), taken from its published definition -/

/-- One round on the counter words with the round's key. -/
def philoxRound (c : Nat × Nat × Nat × Nat) (k : Nat × Nat) : Nat × Nat × Nat × Nat :=
  let p0 := 0xD2511F53 * c.1
  let p1 := 0xCD9E8D57 * c.2.2.1
  ((p1 / 2 ^ 32) ^^^ c.2.1 ^^^ k.1, p1 % 2 ^ 32, (p0 / 2 ^ 32) ^^^ c.2.2.2 ^^^ k.2, p0 % 2 ^ 32)

/-- `n` rounds, the key raised by the Weyl constants between rounds. -/
def philoxRounds : Nat → Nat × Nat × Nat × Nat → Nat × Nat → Nat × Nat × Nat × Nat
  | 0, c, _ => c
  | n + 1, c, k => philoxRounds n (philoxRound c k) ((k.1 + 0x9E3779B9) % 2 ^ 32, (k.2 + 0xBB67AE85) % 2 ^ 32)

/-- The uniform U of R129: draw index, attempt, RSTEP. -/
def uniform (seed : BitVec 64) (draw attempt rstep : Nat) : Nat :=
  let o := philoxRounds 10 (draw, attempt, rstep % 2 ^ 32, 0) (seed.toNat % 2 ^ 32, seed.toNat / 2 ^ 32)
  o.2.1 * 2 ^ 32 + o.1

/-! ### Programs -/

/-- Operation n of a program image of 1,024 bits (Table 6-3). -/
def opAt (image n : Nat) : Op :=
  let x := bits image (128 * (n + 1)) 128
  ⟨bits x 0 8, bits x 8 3, bits x 11 3, bits x 14 3, BitVec.ofNat 32 (bits x 32 32), BitVec.ofNat 32 (bits x 64 32),
   BitVec.ofNat 32 (bits x 96 32)⟩

/-- The program an image holds (R117). -/
def programOf (image : Nat) : Program := ⟨bit image 3, (List.range (bits image 0 3)).map (opAt image)⟩

/-- Operand codes of an operation that its OPC uses (Table 6-4): A, B, C. -/
def usedSels (o : Op) : List Nat :=
  if o.opc = 1 ∨ o.opc = 2 then [o.sela] else if o.opc = 3 then [o.sela, o.selb, o.selc]
  else if o.opc = 4 ∨ o.opc = 5 then [o.sela, o.selb] else []

/-- Count of operations with an OPC. -/
def opcCount (p : Program) (n : Nat) : Nat := p.ops.countP (fun o => o.opc == n)

/-- The form rules of ST_PROG_FORMAT (Table 6-5). NOPS has 3 bits, so it never exceeds 7. -/
def programFormed (image : Nat) : Bool :=
  let p := programOf image
  bits image 4 124 == 0
    && bits image (128 * (p.ops.length + 1)) (1024 - 128 * (p.ops.length + 1)) == 0
    && (List.range p.ops.length).all (fun n => bits image (128 * (n + 1) + 17) 15 == 0)
    && p.ops.all (fun o => decide (1 ≤ o.opc) && decide (o.opc ≤ 5) && decide (o.sela ≤ 4) && decide (o.selb ≤ 4)
        && decide (o.selc ≤ 4) && !(o.opc == 2 && o.sela != 0))
    && decide (opcCount p 1 ≤ 1) && decide (opcCount p 3 ≤ 1) && decide (opcCount p 4 ≤ 1) && decide (opcCount p 2 ≤ 2)
    && p.ops.tail.all (fun o => o.opc != 4)

/-- An operand where it is known: the immediate, or a PARAM word when there are any. -/
def operand (param : Option (List Word)) (sel : Nat) (imm : Word) : Option Word :=
  if sel = 0 then some imm else param.bind (fun l => l[sel - 1]?)

/-- A check on an operand that is known. -/
def knownOk (v : Option Word) (p : Word → Bool) : Bool := match v with | none => true | some x => p x

/-- The checks of Table 6-4 on the operands known: with no PARAM words only the immediates. -/
def operandsOk (loaded : Nat → Bool) (param : Option (List Word)) (o : Op) : Bool :=
  let a := operand param o.sela o.a
  let b := operand param o.selb o.b
  let c := operand param o.selc o.c
  if o.opc = 1 then knownOk a (fun t => t == 0#32 || (f32Pos t && isFinF t))
  else if o.opc = 2 then decide (o.a.toNat < 4096) && loaded o.a.toNat
  else if o.opc = 3 then knownOk a isFinF && knownOk b isFinF && knownOk c (fun r => isFinF r && f32Pos r)
  else if o.opc = 4 then knownOk a isFinF && knownOk b isFinF
  else knownOk a (fun x => !isNanF x) && knownOk b (fun x => !isNanF x)
    && (match a, b with | some lo, some hi => f32Le lo hi | _, _ => true)

/-- List numbers a program binds. -/
def programLists (p : Program) : List Nat := (p.ops.filter (fun o => o.opc == 2)).map (fun o => o.a.toNat)

/-- Whether a bias entry changes a value (R121): ADD or ALLOW with V ≠ 0. -/
def biasAlters (e : BiasEntry) : Bool := e.kind != 1 && (e.v &&& 0x7FFFFFFF#32) != 0#32

/-- The loaded bias list with a number, empty when there is none. -/
def biasList (lists : List (Nat × List BiasEntry)) (n : Nat) : List BiasEntry := (tget n lists).getD []

/-- Whether a program alters values (R121). -/
def programAlters (lists : List (Nat × List BiasEntry)) (p : Program) : Bool :=
  p.ops.any (fun o => o.opc == 3 || o.opc == 4 || o.opc == 5)
    || (programLists p).any (fun n => (biasList lists n).any biasAlters)

/-- Native key width of a row (R72): 32 where the program alters values. -/
def rowWidth (lists : List (Nat × List BiasEntry)) (p : Program) (format : Nat) : Nat :=
  if programAlters lists p then 32 else keyWidth format

/-- What the value stage reads beside the entry: PARAM words, bias lists, penalty count, partner's value. -/
structure ValueEnv where
  param : List Word
  lists : List (Nat × List BiasEntry)
  count : Nat
  partner : Word
deriving DecidableEq, Repr

/-- One operation on a value (Table 6-4, R118). -/
def applyOp (env : ValueEnv) (id : TokenId) (x : Word) (o : Op) : Word :=
  let a := (operand (some env.param) o.sela o.a).getD 0
  let b := (operand (some env.param) o.selb o.b).getD 0
  let c := (operand (some env.param) o.selc o.c).getD 0
  if isNanF x then x
  else if o.opc = 2 then
    match (biasList env.lists o.a.toNat).find? (fun e => e.id == id && e.kind != 1) with
    | none => x
    | some e => f32Add x e.v
  else if o.opc = 3 then
    if env.count = 0 then x
    else
      let x1 := if f32Pos x then f32Mul x (f32Div oneF c) else f32Mul x c
      f32Sub x1 (f32Add (f32Mul a (natF env.count)) b)
  else if o.opc = 4 then f32Add (f32Mul a x) (f32Mul b env.partner)
  else if o.opc = 5 then (if f32Lt x a then a else if f32Lt b x then b else x)
  else x

/-- The value stage (R124). -/
def applyProgram (env : ValueEnv) (p : Program) (id : TokenId) (x : Word) : Word := p.ops.foldl (applyOp env id) x

/-- Exclusions of R125 that the program's lists name: BAN, and ALLOW lists that do not list the ID. -/
def programExcludes (lists : List (Nat × List BiasEntry)) (p : Program) (id : TokenId) : Bool :=
  (programLists p).any (fun n =>
    let l := biasList lists n
    l.any (fun e => e.kind == 1 && e.id == id)
      || (l.any (fun e => e.kind == 2) && !l.any (fun e => e.kind == 2 && e.id == id)))

/-- The temperature of R126. -/
def temperature (p : Program) (param : List Word) : Word :=
  match p.ops.find? (fun o => o.opc == 1) with
  | none => oneF
  | some o => (operand (some param) o.sela o.a).getD oneF

/-- invT of R126. -/
def invTOf (p : Program) (param : List Word) : Word := f32Div oneF (temperature p param)

/-- Whether the SK9 selects greedily (R126). -/
def isGreedy (p : Program) (sp : Sampling) : Bool :=
  sp.greedy || temperature p sp.param == 0#32 || invTOf p sp.param == infF false

/-- Penalty count of an ID (R122). -/
def penaltyCount (l : List (TokenId × Nat)) (id : TokenId) : Nat :=
  match l.find? (fun e => e.1 == id) with | some e => e.2 | none => 0

/-- A penalty list after a committed token (R122). -/
def penaltyCommit (l : List (TokenId × Nat)) (id : TokenId) : List (TokenId × Nat) :=
  ((id, min 255 (penaltyCount l id + 1)) :: l.filter (fun e => e.1 != id)).take 256

/-! ### Min-p, top-p, the draw -/

/-- The search of R127, at most 33 rounds. -/
def minpSearch (kM invT : Word) (theta : Nat) : Nat → Nat → Nat → Nat
  | 0, _, hi => hi
  | n + 1, lo, hi =>
    if hi - lo ≤ 1 then hi
    else
      let mid := lo + (hi - lo) / 2
      if theta ≤ weight (BitVec.ofNat 32 mid) (some kM) invT then minpSearch kM invT theta n lo mid
      else minpSearch kM invT theta n mid hi

/-- kθ of R127: 0 when MINP is 0 or M is undefined. -/
def minpKey (km : Option Word) (invT : Word) (m : Nat) : Word :=
  match km with
  | none => 0#32
  | some kM =>
    if m = 0 then 0#32
    else if m * 2 ^ 16 ≤ weight 0x00800000#32 (some kM) invT then 0x00800000#32
    else BitVec.ofNat 32 (minpSearch kM invT (m * 2 ^ 16) 33 0x00800000 kM.toNat)

/-- The walk of R128: the first index at which the running sum reaches X. -/
def walkTo (x : Nat) : List Nat → Nat → Nat → Option Nat
  | [], _, _ => none
  | w :: r, acc, i => if x ≤ acc + w then some i else walkTo x r (acc + w) (i + 1)

/-- Whether top-p is on (Table 6-1). -/
def toppOn (p : Nat) : Bool := p != 0 && p != 65536

/-- T_p of R128. -/
def cutTarget (p w : Nat) : Nat := (p * w + 65535) >>> 16

/-- Sum of a list of numbers. -/
def sumNat (l : List Nat) : Nat := l.foldl (· + ·) 0

/-- The nucleus of a list (R127, R128): entries with their weights, kθ, and which stages cut. -/
structure Nucleus where
  ents : List (ListEntry × Nat)
  kminp : Word
  mpcut : Bool
  pcut : Bool
deriving DecidableEq, Repr

/-- M's key as the record's LMAX gives it (R80, R152): undefined when 0. -/
def kmOf (lmax : Word) : Option Word := if lmax = 0#32 then none else some lmax

/-- Min-p and top-p over a list in R79 order (R127, R128). -/
def nucleusOf (l : List ListEntry) (km : Option Word) (invT : Word) (minp topp : Nat) : Nucleus :=
  let kth := minpKey km invT minp
  let valid := l.filter (fun e => e.key != 0#32)
  let s := (valid.filter (fun e => decide (kth ≤ e.key))).map (fun e => (e, weight e.key km invT))
  let cut := if toppOn topp
    then match walkTo (cutTarget topp (sumNat (s.map (fun e => e.2)))) (s.map (fun e => e.2)) 0 0 with
      | some c => s.take (c + 1)
      | none => s
    else s
  ⟨cut, kth, decide (s.length < valid.length), decide (cut.length < s.length)⟩

/-! ### Draws with rechecks and settle (R130, R131, R175, R203 to R205) -/

/-- A candidate of a draw: its entry, its weight, and whether a draw without a walk or a settle may take it. -/
structure Cand where
  e : ListEntry
  w : Nat
  elig : Bool := true
deriving DecidableEq, Repr

/-- What a draw delivers: the entry chosen with its weight and the state its walk gives, or none when it ends empty;
and the figures of the last draw made (R135). -/
structure DrawRes where
  chosen : Option (ListEntry × Nat × Option GState) := none
  attempt : Nat := 0
  wnuc : Nat := 0
  target : Nat := 0
  nnuc : Nat := 0
  rechecks : Nat := 0
  settled : Bool := false
  rejected : List TokenId := []
deriving DecidableEq, Repr

/-- Which candidate one draw takes, with its t: greedy takes the first; with no weight left, the first eligible one is
taken without a walk (R131, R175). -/
def pick (greedy : Bool) (es : List Cand) (u : Nat) : Option (Cand × Nat) :=
  let wn := sumNat (es.map (fun c => c.w))
  if greedy then es.head?.map (fun c => (c, 0))
  else if wn = 0 then (es.find? (fun c => c.elig)).map (fun c => (c, 0))
  else
    let t := (u * wn) >>> 64
    ((walkTo (t + 1) (es.map (fun c => c.w)) 0 0).bind (fun j => es[j]?)).map (fun c => (c, t))

/-- The settle of R205: the first of at most 16 eligible entries whose walk passes, and the tokens whose walks failed. -/
def settleOn (walk : TokenId → Option (Option GState)) : List Cand → Option (ListEntry × Nat × Option GState) × List TokenId
  | [] => (none, [])
  | c :: r => match walk c.e.id with
    | some st => (some (c.e, c.w, st), [])
    | none => let x := settleOn walk r; (x.1, c.e.id :: x.2)

/-- Draw, resolve, recheck, settle. `n` rechecks are left; `u a` is the uniform of attempt a; `residual` counts only
entries of positive weight in NNUC (R177). -/
def drawLoop (greedy residual : Bool) (u : Nat → Nat) (walk : TokenId → Option (Option GState)) :
    Nat → Nat → List Cand → DrawRes → DrawRes
  | n, a, es, r =>
    match pick greedy es (u a) with
    | none => { r with chosen := none }
    | some (c, t) =>
      let r := { r with attempt := a, rechecks := a,
                        wnuc := if greedy then 0 else sumNat (es.map (fun (x : Cand) => x.w)), target := t,
                        nnuc := if greedy then 0 else if residual then es.countP (fun (x : Cand) => decide (0 < x.w)) else es.length }
      match walk c.e.id with
      | some st => { r with chosen := some (c.e, c.w, st) }
      | none =>
        let rest := es.filter (fun x => x.e.id != c.e.id)
        let r := { r with rejected := r.rejected ++ [c.e.id] }
        match n with
        | 0 => if rest.isEmpty then { r with chosen := none }
               else
                 let x := settleOn walk ((rest.filter (fun c => c.elig)).take 16)
                 { r with chosen := x.1, rejected := r.rejected ++ x.2, settled := true }
        | n + 1 => drawLoop greedy residual u walk n (a + 1) rest r

/-! ### Integer probabilities and the acceptance rule (R172, R173) -/

/-- Probability 1. -/
def probOne : Nat := 2 ^ 32

/-- One row of a speculative slot as the verifier reads it: its valid list in R79 order, and its nucleus with weights. -/
structure VRow where
  list : List ListEntry
  nuc : List (ListEntry × Nat)
deriving DecidableEq, Repr

/-- The members of a row's distribution with their probabilities (R172). -/
def probsOf (greedy : Bool) (r : VRow) : List (ListEntry × Nat) :=
  if greedy then (r.list.take 1).map (fun e => (e, probOne))
  else
    let w := sumNat (r.nuc.map (fun p => p.2))
    r.nuc.map (fun p => (p.1, (p.2 * 2 ^ 32) / w))

/-- P(x) of a distribution. -/
def probAt (ps : List (ListEntry × Nat)) (x : TokenId) : Nat :=
  match ps.find? (fun p => p.1.id == x) with | some p => p.2 | none => 0

/-- Q_j(x): of the draft row's distribution, or of a point draft (R172). -/
def draftProb (q : Option (List (ListEntry × Nat))) (draft x : TokenId) : Nat :=
  match q with | some ps => probAt ps x | none => if x = draft then probOne else 0

/-- Whether a draft is accepted (R173). -/
def accepts (u px qx : Nat) : Bool := decide (u * qx < px * 2 ^ 64)

/-- Candidates of residual_draw (R173), and whether the FALLBACK is taken. In greedy mode the rest of the row's list
follows (R175). -/
def residualCands (greedy : Bool) (row : VRow) (ps : List (ListEntry × Nat)) (q : Option (List (ListEntry × Nat)))
    (draft : TokenId) : List Cand × Bool :=
  let r := ps.map (fun p => (p, p.2 - draftProb q draft p.1.id))
  let fallback := sumNat (r.map (fun x => x.2)) == 0
  let es := r.map (fun x => ({ e := x.1.1, w := if fallback then x.1.2 else x.2, elig := decide (0 < x.1.2) } : Cand))
  (if greedy then es ++ (row.list.drop 1).map (fun e => ⟨e, 0, true⟩) else es, fallback)

/-- What verification decides before its final draw. -/
inductive VEnd where
  | rejected (j px qx : Nat)                       -- draft j + 1 rejected by row j
  | ended (n : Nat)                                -- draft n ends the request
  | bonus
deriving DecidableEq, Repr

/-- The drafts in order (R173): row j judges draft j + 1. -/
def verifyGo (greedy : Bool) (u : Nat → Nat) (ends : Nat → Bool) : Nat → List (TokenId × VRow × Option VRow) → VEnd
  | _, [] => .bonus
  | j, (x, row, q) :: rest =>
    let px := probAt (probsOf greedy row) x
    let qx := draftProb (q.map (probsOf greedy)) x x
    if accepts (if greedy then 0 else u (1 + j)) px qx then (if ends j then .ended (j + 1) else verifyGo greedy u ends (j + 1) rest)
    else .rejected j px qx

/-! ### Adaptive draft length (R179) -/

/-- d_cur and the window after a step with drafts. -/
def adaptLength (sp : SpecRecord) (dcur : Nat) (win : List (Nat × Nat)) (fed accepted : Nat) : Nat × List (Nat × Nat) :=
  let win := (win ++ [(fed, accepted)]).drop (win.length + 1 - 32)
  if win.length < 32 then (dcur, win)
  else
    let f := sumNat (win.map (fun p => p.1))
    let a := sumNat (win.map (fun p => p.2))
    let d := if 256 * a < sp.low * f then max 1 (dcur - 1) else if sp.high * f ≤ 256 * a then min sp.dmax (dcur + 1) else dcur
    if d = dcur then (dcur, win) else (d, [])

/-! ### Draft candidates (R166, R167) -/

/-- Whether a pattern stands at the front of a list. -/
def standsAt (pat l : List TokenId) : Bool := l.take pat.length == pat

/-- LOOKUP of R166 over the whole history: what followed the most recent earlier place of its last n tokens. -/
def lookupDrafts (hist : List TokenId) (n limit : Nat) : List TokenId :=
  let h := hist.drop (hist.length - 4096)
  if h.length < n + 1 ∨ n = 0 then []
  else
    let pat := h.drop (h.length - n)
    match (List.range (h.length - n)).reverse.find? (fun i => standsAt pat (h.drop i)) with
    | none => []
    | some i => (h.drop (i + n)).take limit

/-- POSTED of R167 for an entry whose TOK0 stands at `pos`: the drafts, or none where the set is stale. -/
def postedDrafts (seq : List TokenId) (pos pos0 : Nat) (toks : List TokenId) (limit : Nat) : Option (List TokenId) :=
  let seen := toks.take (pos + 1 - pos0)
  if pos0 ≤ pos + 1 ∧ standsAt seen (seq.drop pos0) then some ((toks.drop (pos + 1 - pos0)).take limit) else none

end Sys2Proof.Machine
end

