-- ==== Sys2Proof/Machine/Timing.lean ====
section
/-! DEFINITION. The latency formulas of the manual in whole cycles, and the two timing tests that gate a command
(R23, R140). Times in mixed clocks are in ticks of 1/18 ns: an ENG cycle is 10, a FAB cycle at 1.5 GHz is 12. -/

namespace Sys2Proof.Machine

/-- Digit widths of a key width (Table 5-2). -/
def digitWidths (kn : Nat) : List Nat := (schedule kn).map (fun p => p.2)

/-- δ of R88: 0 for a team of one. -/
def teamDelta (t : Nat) : Nat := if t = 1 then 0 else 8

/-- T_loc of R102, every pass run: key width, survivors n, team size t. -/
def tLoc (kn n t : Nat) : Nat :=
  match digitWidths kn with
  | [] => 0
  | w :: ws => 12 + scanCycles w + teamDelta t
      + (ws.map (fun v => ceilDiv n 32 + teamDelta t + scanCycles v)).foldl (· + ·) 0 + ceilDiv n 32 + teamDelta t + 64

/-- T_ext of R105: key width, shard length, team size. -/
def tExt (kn len t : Nat) : Nat :=
  let n := ceilDiv len (32 * t)
  ((digitWidths kn).map (fun v => n + teamDelta t + scanCycles v)).foldl (· + ·) 0 + n + teamDelta t + 64

/-- T_rp of R107: shard length, team size, digit width, kind. -/
def tRp (len t w : Nat) (weighted : Bool) : Nat :=
  ceilDiv len ((if weighted then 8 else 32) * t) + teamDelta t + scanCycles w + 24

/-- T_list(k) of R105 in ENG cycles; 0.5 µs of firmware is 900 ENG cycles. -/
def tList (kn len t k : Nat) : Nat :=
  let b := ceilDiv k 256
  tLoc kn (ceilDiv len t) t + (b - 1) * tExt kn len t + (b - 16) * 900

/-- T_dl of R134: list draw over COUNT entries with I weight evaluations for min-p. -/
def tDraw (count evals : Nat) : Nat := 16 + 2 * ceilDiv count 4 + 24 * evals

/-- T_rc of R209 for a token of b bytes. -/
def tRecheck (b : Nat) : Nat := 24 + b

/-- T_sv of R283 for n tokens and b bytes scanned. -/
def tVerdict (n b : Nat) : Nat := 20 + ceilDiv n 4 + 2 * b

/-- T_res of R181. -/
def tResidual (count : Nat) : Nat := 16 + 2 * ceilDiv count 4

/-- T_ver of R181 for d drafts. -/
def tVerify (count evals d : Nat) : Nat := tDraw count evals + 12 * d + tResidual count

/-- T_loc,max of Table 7-10: SOVF, T = 1, n = L. -/
def tLocMax (kn len : Nat) : Nat := tLoc kn len 1

/-- T_home,max of Table 7-10 with rennet's recheck time of R209. -/
def tHomeMax (rechecks bMax : Nat) : Nat := 936 + rechecks * (80 + tRecheck bMax)

/-- t_m of Table 7-10. -/
def tMerge (fmax : Nat) : Nat := 32 + fmax * 33 + ceilDiv ((fmax + 1) * 256) 8

/-- t_f of Table 7-10. -/
def tForward (fmax : Nat) : Nat := 16 + fmax * 4

/-- T_min of R162 in ticks: rowset, depths, fan-in, hop in ns, rechecks, longest token, key width, shard length. -/
def tMin (rowset d ds fmax hopNs rechecks bMax kn len : Nat) : Nat :=
  let ends := (tLocMax kn len + tHomeMax rechecks bMax) * 10
  if rowset = 1 then ends
  else ends + d * (hopNs * 18 + tMerge fmax * 10) + 2 * hopNs * 18 + ds * (hopNs * 18 + tForward fmax * 10)

/-- T_fin of R23 in ticks: 4 µs + 1.5 ns for each slot. -/
def tFin (n : Nat) : Nat := 72000 + 27 * n

/-- R23, with T_sel in ticks. -/
def shapeTimed (f : ShapeFields) (xallow tSel : Nat) : Bool :=
  decide (f.ingestEnd + xallow + ceilDiv (tSel + tFin f.slots) 12 ≤ f.manDeadline)
    && decide (f.manDeadline + xallow + 8 ≤ f.stepLen)

/-- First-pass key rate of R101, keys per ENG cycle. -/
def firstPassRate (width usedStrainers : Nat) : Nat := min (32 * usedStrainers) (if width = 32 then 256 else 512)

/-- Block power of Table 16-7 in units of 0.01 W: banks and strainers ON, with activities as fractions of 1,000. -/
def blockPower (banks strainers vat strain units churn cellar host : Nat) : Nat :=
  (1400000 + banks * 8000 + 600 * vat + strainers * (15000 + 75 * strain) + 700 * units + 500 * churn + 220 * cellar
    + 128 * host) / 1000

end Sys2Proof.Machine
end

