-- ==== Sys2Proof/Machine/Walk.lean ====
section
/-! DEFINITION. The grammar automaton: walks, keys and masks (R183 to R188, R222 to R227). -/

namespace Sys2Proof.Machine

/-- cls of R183. -/
def clsOf (g : Grammar) (stack : List Nat) : Nat :=
  match stack with | [] => 0 | t :: _ => g.klass.getD t 0

/-- g.step of R183 and R222: the exact entry, else the entry for any top. -/
def gramStep (g : Grammar) (s b top : Nat) : Option Trans :=
  match g.states[s]? with
  | none => none
  | some e =>
    let ts := (g.trans.drop e.first).take e.count
    match ts.find? (fun t => t.byte == b && !t.any && t.top == top) with
    | some t => some t
    | none => ts.find? (fun t => t.byte == b && t.any)

/-- What a key holds once its record has been read (R184, R227): why it is faulty, if it is. -/
inductive KeyRead where
  | ok (r : KeyRec)
  | noKey                                          -- filler, or a class outside KLO to KHI (detail 4)
  | badCrc                                         -- KCRC fails (detail 2)
  | badValue                                       -- a value out of range (detail 3)
deriving DecidableEq, Repr

/-- The key record of (s, c) and what R227 finds in it. -/
def keyRead (g : Grammar) (s c : Nat) : KeyRead :=
  match g.states[s]? with
  | none => .noKey
  | some e =>
    if c < e.klo ∨ e.khi < c then .noKey
    else match g.keys[e.keyBase + c - e.klo]? with
      | none => .noKey
      | some r =>
        if !r.crcOk then .badCrc
        else if !r.present then .noKey
        else if g.nmaps ≤ r.map ∨ 64 < r.nsucc ∨ g.condLen < r.cond + 4 * r.ncond ∨ g.succLen < r.succ + 4 * r.nsucc
            ∨ r.cond % 4 ≠ 0 ∨ r.succ % 4 ≠ 0 ∨ r.state ≠ s ∨ r.cls ≠ c then .badValue
        else .ok r

/-- ACCEPT of a key: clear where the key cannot be used. -/
def keyAccept (g : Grammar) (s c : Nat) : Bool := match keyRead g s c with | .ok r => r.accept | _ => false

/-- DEAD of a key: set where the key has no record (R227). -/
def keyDead (g : Grammar) (s c : Nat) : Bool := match keyRead g s c with | .ok r => r.dead | .noKey => true | _ => false

/-- The detail of a key record that cannot be used. -/
def keyFault (g : Grammar) (s c : Nat) : Option Nat :=
  match keyRead g s c with | .ok _ => none | .noKey => some 4 | .badCrc => some 2 | .badValue => some 3

/-- The conditional tokens of a key. -/
def keyConds (g : Grammar) (s c : Nat) : List TokenId :=
  match keyRead g s c with | .ok r => (g.conds.drop (r.cond / 4)).take r.ncond | _ => []

/-- The successor keys of a key, in rank order. -/
def keySuccs (g : Grammar) (s c : Nat) : List (Nat × Nat) :=
  match keyRead g s c with | .ok r => (g.succs.drop (r.succ / 4)).take r.nsucc | _ => []

/-- The chunk map of a key; `none` where it has none. -/
def keyMap (g : Grammar) (s c : Nat) : Option Nat := match keyRead g s c with | .ok r => some r.map | _ => none

/-- Map entry n of a map as rennet takes it (R227): 0xFFFE for a chunk that is not there and past the vocabulary. -/
def mapEntry (g : Grammar) (m n : Nat) : Nat :=
  let e := (g.maps.getD m []).getD n 0xFFFE
  if g.vocabLen ≤ 4096 * n then 0xFFFE else if e = 0xFFFE ∨ e = 0xFFFF then e else if g.nchunks ≤ e then 0xFFFE else e

/-- Whether a map entry names a chunk that is not there, to be logged (R227). -/
def mapEntryBad (g : Grammar) (m n : Nat) : Bool :=
  let e := (g.maps.getD m []).getD n 0xFFFE
  decide (4096 * n < g.vocabLen) && e != 0xFFFE && e != 0xFFFF && decide (g.nchunks ≤ e)

/-- The mask bit of a token in a key (R185, R186). -/
def maskBit (g : Grammar) (s c : Nat) (t : TokenId) : Bool :=
  match keyMap g s c with
  | none => false
  | some m =>
    let e := mapEntry g m (t.toNat / 4096)
    if e = 0xFFFE then false
    else if e = 0xFFFF then true
    else let i := t.toNat % 4096
      bit ((g.chunks.getD e []).getD (i / 8) 0).toNat (i % 8)

/-- How a walk ends: a state, or the kind of failure (depth failures excuse an unlisted rejection, R203). -/
inductive WalkEnd where
  | ok (s : GState)
  | fail
  | depth                                          -- a push at depth 64
  | below                                          -- a pop below a participant's window (R188)
deriving DecidableEq, Repr

/-- The byte loop of walk_token (R183). `floor` is the count of symbols known to the walker, below which nothing is seen
(R188): `extra` symbols lie under the stack given. -/
def walkBytes (g : Grammar) (extra : Nat) : List Byte → Nat → List Nat → Nat → WalkEnd
  | [], s, st, ops => if 4 < ops then .fail else .ok ⟨s, st⟩
  | b :: bs, s, st, ops =>
    if st = [] ∧ extra ≠ 0 then .below
    else
      let top := st.headD 0
      match gramStep g s b.toNat top with
      | none => .fail
      | some t =>
        if t.pop ∧ st = [] then .fail
        else
          let st1 := if t.pop then st.tail else st
          let ops1 := if t.pop then ops + 1 else ops
          if t.push ≠ 0 then
            if st1.length + extra = 64 then .depth
            else walkBytes g extra bs t.next (t.push :: st1) (ops1 + 1)
          else walkBytes g extra bs t.next st1 ops1

/-- walk_token of R183, over the stack `st` (top first) with `extra` unseen symbols below it. -/
def walkToken (g : Grammar) (str : TokenId → List Byte) (extra : Nat) (st : GState) (t : TokenId) : WalkEnd :=
  if g.ends.contains t then (if keyAccept g st.state (clsOf g st.stack) then .ok st else .fail)
  else match str t with
    | [] => .fail
    | by_ => walkBytes g extra by_ st.state st.stack 0

/-- Whether a state holds conditional tokens (R185). -/
def holdsCond (g : Grammar) (st : GState) : Bool :=
  (match keyRead g st.state (clsOf g st.stack) with | .ok r => r.hasCond | _ => false) || decide (61 ≤ st.stack.length)

/-- The grammar state record of R187 as a number: index, version and state, or 0 for none. -/
def gramRecord (b : Option (Handle × GState)) : Nat :=
  match b with
  | none => 0
  | some (h, st) =>
    pack ([(16, h.toNat % 65536), (16, h.toNat / 65536), (20, st.state), (7, st.stack.length), (1, 1), (4, 0)]
      ++ (List.range 8).map (fun i => (8, st.stack.getD i 0)))

/-- A grammar state record read back: handle, state, window symbols, depth. -/
structure GramSummary where
  handle : Handle
  state : Nat
  depth : Nat
  win : List Nat
deriving DecidableEq, Repr

/-- The record of R187 as a participant reads it; `none` when G is 0. -/
def gramSummaryOf (x : Nat) : Option GramSummary :=
  if bit x 59 then
    some ⟨BitVec.ofNat 32 (bits x 0 16 + 65536 * bits x 16 16), bits x 32 20, bits x 52 7,
      ((List.range 8).map (fun i => bits x (64 + 8 * i) 8)).take (min 8 (bits x 52 7))⟩
  else none

/-- The state a participant walks from: the window's symbols, and how many lie below (R188). -/
def summaryState (w : GramSummary) : GState × Nat := (⟨w.state, w.win⟩, w.depth - w.win.length)

/-- The states of row positions 0, 1, ... along fed tokens (R188, R208); `none` where a walk fails. -/
def statesAlong (g : Grammar) (str : TokenId → List Byte) (extra : Nat) : GState → List TokenId → Option (List GState)
  | st, [] => some [st]
  | st, t :: ts => match walkToken g str extra st t with
    | .ok st' => (statesAlong g str extra st' ts).map (fun l => st :: l)
    | _ => none

end Sys2Proof.Machine
end

