-- ==== Sys2Proof/Machine/Rows.lean ====
section
/-! DEFINITION. A row as the SK9 reads it: the request's stages for a row position, grammar keys, stored tiles and the
entries they hold (R36, R48, R87, R116 to R125, R170, R185 to R188, R196). -/

namespace Sys2Proof.Machine

/-! ### What a row position runs under -/

/-- The program a slot runs. -/
def State.progOf (s : State) (slot : Nat) : Program := (tget (s.samplingOf slot).prog s.drw.programs).getD {}

/-- The token after which row position j of a slot stands: TOK1 to TOKj have been taken (R122, R170). A draft row j
follows main row j, and the one row of a prefill slot follows its own prompt tokens, so no draft. -/
def rowDepth (e : Entry) (f posn : Nat) : Nat := if e.prefill then 0 else if posn < f then posn else posn - f

/-- The drafts a row position follows. -/
def State.draftsTo (s : State) (slot j : Nat) : List TokenId := (s.tokRec slot).toks.take j

/-- The penalty list of a slot as a row that follows some drafts sees it (R122). -/
def State.penaltyAt (s : State) (slot : Nat) (drafts : List TokenId) : List (TokenId × Nat) :=
  drafts.foldl penaltyCommit ((tget slot s.drw.penalty).getD [])

/-! ### Grammar keys of a row position -/

/-- The grammar a handle names, when it is loaded (R189). -/
def State.grammarOf (s : State) (h : Handle) : Option Grammar :=
  match tget (h.toNat % 65536) s.ren.images with
  | some g => if g.handle = h then some g else none
  | none => none

/-- The vocabulary bound to a request. -/
def State.reqVocab (s : State) (r : Request) : Option Vocab := tget r.opts.vidx s.churn.vocabs

/-- The loaded vocabulary a grammar was compiled against. -/
def State.gramVocab (s : State) (g : Grammar) : Option Vocab :=
  (s.churn.vocabs.find? (fun p => p.2.vocabId == g.vocabId)).map (fun p => p.2)

/-- The string of a token in a vocabulary that may be absent. -/
def strOf (v : Option Vocab) (t : TokenId) : List Byte := match v with | some v => tokStr v t | none => []

/-- The grammar of a row position: none, not to be had (the images differ, R188, R193), or a state with the count of
stack symbols that lie below those known. -/
inductive RowGram where
  | free
  | missing
  | at (g : Grammar) (st : GState) (extra : Nat)
deriving DecidableEq, Repr

/-- The grammar of a row position on the home, after its first j drafts (R207, R208). -/
def State.homeGram (s : State) (r : Request) (j : Nat) : RowGram :=
  match r.grammar with
  | none => .free
  | some h => match s.grammarOf h, (if j = 0 then r.gstate else r.pathStates[j - 1]?) with
    | some g, some st => .at g st 0
    | _, _ => .missing

/-- The grammar of a row position on a participant, after its drafts (R188). -/
def State.peerGram (s : State) (slot : Nat) (drafts : List TokenId) : RowGram :=
  match gramSummaryOf ((tget slot s.coll.gsum).getD 0) with
  | none => .free
  | some w => match s.grammarOf w.handle with
    | none => .missing
    | some g =>
      let (st, extra) := summaryState w
      match statesAlong g (strOf (s.gramVocab g)) extra st drafts with
      | some l => match l[drafts.length]? with | some st => .at g st (w.depth - w.win.length) | none => .missing
      | none => .missing

/-- The grammar of a row position that follows some drafts. -/
def State.rowGram (s : State) (slot : Nat) (drafts : List TokenId) : RowGram :=
  match s.reqOfSlot slot with | some r => s.homeGram r drafts.length | none => s.peerGram slot drafts

/-- Whether a row position's grammar state holds conditional tokens (R185). -/
def RowGram.cond : RowGram → Bool
  | .at g st extra => holdsCond g st || decide (61 ≤ st.stack.length + extra)
  | _ => false

/-- Whether rennet's mask allows a token at a row position (R185, R200). -/
def RowGram.allows (r : RowGram) (t : TokenId) : Bool :=
  match r with
  | .free => true
  | .missing => false
  | .at g st _ => maskBit g st.state (clsOf g st.stack) t

/-- k of a slot's row that follows some drafts (Table 6-1, R126). -/
def State.rowK (s : State) (slot : Nat) (drafts : List TokenId) : Nat :=
  let sp := s.samplingOf slot
  if isGreedy (s.progOf slot) sp then (if (s.rowGram slot drafts).cond then 4 else 1) else sp.topk

/-- Whether a row of that k is retained (R103). -/
def retainedK (k : Nat) : Bool := k == 0 || decide (256 < k)

/-- Length of the vocabulary bound to a slot's request (R78, R87). A participant knows it from the grammar's image alone:
where there is none it is a free value. -/
def State.vocabBound (s : State) (slot : Nat) (req : Handle) : Nat :=
  match s.reqOfSlot slot with
  | some r => match s.reqVocab r with | some v => vocabLen v | none => Config.vocabLength req.toNat
  | none => match (gramSummaryOf ((tget slot s.coll.gsum).getD 0)).bind (fun w => s.grammarOf w.handle) with
    | some g => g.vocabLen
    | none => Config.vocabLength req.toNat

/-! ### Masks held in rennet's caches (R194 to R196) -/

/-- Whether a cache holds an item. -/
def cacheHas (l : List CacheItem) (gidx gver : Nat) (k : FillKind) : Bool :=
  l.any (fun c => c.gidx == gidx && c.gver == gver && c.kind == k)

/-- The list of rennet's caches that an item lies in. -/
def Rennet.cacheOf (r : Rennet) (k : FillKind) : List CacheItem := match k with | .state _ _ => r.states | _ => r.chunks

/-- Whether an item is held. -/
def Rennet.has (r : Rennet) (gidx gver : Nat) (k : FillKind) : Bool := cacheHas (r.cacheOf k) gidx gver k

/-- Index and version of a handle. -/
def gidxOf (h : Handle) : Nat := h.toNat % 65536
def gverOf (h : Handle) : Nat := h.toNat / 65536

/-- The chunks of a map that this die's shard needs (R196). -/
def shardChunks (g : Grammar) (m base len : Nat) : List Nat :=
  let first := base / 4096
  let n := (base + len - 1) / 4096 - first + 1
  ((List.range n).map (fun i => mapEntry g m (first + i))).filter (fun e => e != 0xFFFE && e != 0xFFFF)

/-- Everything a key's masks need: the state-cache entry, its map, the shard's chunks (R196). A key without a usable
record needs its state-cache entry alone. -/
def keyItems (g : Grammar) (base len s c : Nat) : List FillKind :=
  match keyMap g s c with
  | none => [.state s c]
  | some m => .state s c :: .map m :: (shardChunks g m base len).eraseDups.map (fun e => .chunk e)

/-- Items of a key that no cache holds. -/
def State.keyMisses (s : State) (g : Grammar) (base len st c : Nat) : List FillKind :=
  (keyItems g base len st c).filter (fun k => !s.ren.has (gidxOf g.handle) (gverOf g.handle) k)

/-- Whether a row's masks are ready (R196, R199). -/
def State.masksReady (s : State) (slot : Nat) (drafts : List TokenId) (base len : Nat) : Bool :=
  match s.rowGram slot drafts with
  | .free => true
  | .missing => false
  | .at g st _ => (s.keyMisses g base len st.state (clsOf g st.stack)).isEmpty

/-! ### Stored tiles -/

/-- Payload bytes of `n` entries of `g` slots (Table 2-7): values, then for block-scaled formats the padding to 64 B and
the scales. -/
def payloadBytes (format n g : Nat) : Nat :=
  let v := n * g * elemBytes format
  if blockScaled format then ceilDiv v 64 * 64 + n / 32 * g * 4 else v

/-- Where the scales of a tile begin. -/
def scaleStart (format n g : Nat) : Nat := ceilDiv (n * g * elemBytes format) 64 * 64

/-- Rows a stored tile occupies (R48). -/
def storedRows (format n gk : Nat) : Nat := ceilDiv (payloadBytes format n gk) 128

/-- The area a stored tile lies in. -/
def State.tileArea (s : State) (t : Tile) : Option Area := s.vat.area t.area

/-- Bytes of a stored tile from an offset, as a number. -/
def State.tileNat (s : State) (t : Tile) (off n : Nat) : Nat :=
  match s.tileArea t with
  | some a => leNat (s.vat.readArea a (t.firstRow * 128 + off) n)
  | none => 0

/-- Element bits of entry i of a stored tile, for its kept slot ki: one element of the Strided reads that a transposed block
is made of (R50). -/
def State.tileElem (s : State) (format : Nat) (t : Tile) (i ki : Nat) : Nat :=
  let w := elemBytes format
  match s.tileArea t with
  | some a => (s.vat.readStrided a (t.firstRow * 128 + (i * t.kept.length + ki) * w) w (t.kept.length * w) 1).headD 0
  | none => 0

/-- The binary32 value of an element (R69 to R71). -/
def State.tileValue (s : State) (format : Nat) (t : Tile) (i ki : Nat) : Word :=
  let x := s.tileElem format t i ki
  if blockScaled format then
    scaledValue format x (BitVec.ofNat 32
      (s.tileNat t (scaleStart format t.chunkLen t.kept.length + (i / 32 * t.kept.length + ki) * 4) 4))
  else widen format x

/-- Tiles of a row, in ascending order of their chunks. -/
def State.rowTiles (s : State) (r : Row) : List Tile :=
  s.shell.tiles.filter (fun t => t.step == r.step && t.group == r.group && t.draft == r.draft && t.posn == r.tposn)

/-- Whether all entries of a row have landed: in stored tiles, or merged already as slabs (R39, R111). -/
def State.rowLanded (s : State) (r : Row) : Bool :=
  let upTo := match r.slab with | some b => b.upTo | none => 0
  let ts := (s.rowTiles r).filter (fun t => t.landed && decide (upTo ≤ t.chunkFirst))
  decide (r.shape.shardLen ≤ upTo + (ts.map (fun t => t.chunkLen)).foldl (· + ·) 0)

/-- Whether every bank of a tile's area rows is ON: a bank that is not returns POISON with every read (R58, R398). -/
def State.tileUp (s : State) (t : Tile) : Bool :=
  match s.tileArea t with
  | some a => (List.range a.nbanks).all (fun i => s.vat.bankOn (a.firstBank + i))
  | none => true

/-- Whether the plan in force still has a tile's area rows (R46): one made since for a later step may not. -/
def State.tileInArea (s : State) (t : Tile) : Bool :=
  match s.tileArea t with | some a => s.vat.rangeOk a t.firstRow t.rows | none => false

/-! ### The entries of a row -/

/-- Whether a program holds MIX. -/
def Program.mixes (p : Program) : Bool := p.ops.any (fun o => o.opc == 4)

/-- Whether a leader's partner has no row where the leader's first pass needs it (R123). -/
def State.partnerLost (s : State) (r : Row) : Bool :=
  (s.progOf r.slot).mixes && match r.partner with
    | none => true
    | some p => (s.rowTiles r).any (fun t => !t.kept.contains p)

/-- What is fixed over all entries of a row. -/
structure RowEnv where
  prog : Program
  param : List Word
  lists : List (Nat × List BiasEntry)
  pen : List (TokenId × Nat)
  gram : RowGram
  vlen : Nat
  base : Nat
  format : Nat
  alters : Bool
deriving DecidableEq, Repr

/-- The environment of a row: the same in every read of one selection, in whatever step (R106, R121, R122). -/
def State.rowEnv (s : State) (r : Row) : RowEnv :=
  let p := s.progOf r.slot
  { prog := p, param := (s.samplingOf r.slot).param, lists := s.drw.bias, pen := s.penaltyAt r.slot r.drafts,
    gram := s.rowGram r.slot r.drafts, vlen := s.vocabBound r.slot r.req, base := r.shape.shardBase, format := r.shape.format, alters := programAlters s.drw.bias p }

/-- Native key width of a row. -/
def RowEnv.width (e : RowEnv) : Nat := if e.alters then 32 else keyWidth e.format

/-- k32 of a native key of the row. -/
def RowEnv.to32 (e : RowEnv) (kn : Nat) : Word := if e.width = 32 then BitVec.ofNat 32 kn else keyTo32 e.format kn

/-- One entry from its element bits, its value and its partner's value (R87, R124, R125). -/
def RowEnv.entry (e : RowEnv) (idx bitsX : Nat) (value partner : Word) : RowEntry :=
  let id : TokenId := BitVec.ofNat 24 (e.base + idx)
  let x := if e.alters then
    applyProgram { param := e.param, lists := e.lists, count := penaltyCount e.pen id, partner := partner } e.prog id value
    else value
  let nan := if e.width = 32 then isNanF x else isNanElem e.format bitsX
  let out := programExcludes e.lists e.prog id || !e.gram.allows id || (nan && !e.prog.nanPass) || decide (e.vlen ≤ e.base + idx)
  if out then ⟨idx, 0, 0, id, nan⟩
  else if e.width = 32 then ⟨idx, (key32 x).toNat, key32 x, id, nan⟩
  else
    let kn := nativeKey e.format bitsX
    ⟨idx, kn, keyTo32 e.format kn, id, nan⟩

/-- The entries of a slot in one stored tile. -/
def State.tileEntries (s : State) (e : RowEnv) (slot : Nat) (partner : Option Nat) (t : Tile) : List RowEntry :=
  match t.kept.idxOf? slot with
  | none => []
  | some ki => (List.range t.chunkLen).map (fun i =>
      let y := match partner.bind (fun p => t.kept.idxOf? p) with
        | some kp => s.tileValue e.format t i kp
        | none => 0#32
      e.entry (t.chunkFirst + i) (s.tileElem e.format t i ki) (s.tileValue e.format t i ki) y)

/-- The entries of a row in some of its tiles. -/
def State.entriesIn (s : State) (r : Row) (ts : List Tile) : List RowEntry :=
  let e := s.rowEnv r
  ts.flatMap (s.tileEntries e r.slot r.partner)

/-- All entries of a row. -/
def State.rowEntries (s : State) (r : Row) : List RowEntry := s.entriesIn r (s.rowTiles r)

/-! ### Rows and selections by name -/

/-- The row of a slot's position. -/
def State.row (s : State) (slot posn : Nat) : Option Row := s.str.rows.find? (fun r => r.slot == slot && r.posn == posn)

/-- Change a row. -/
def State.modRow (slot posn : Nat) (f : Row → Row) (s : State) : State :=
  s.modStr (fun u => { u with rows := lmodIf (fun r => r.slot == slot && r.posn == posn) f u.rows })

/-- Drop a row. -/
def State.dropRow (slot posn : Nat) (s : State) : State :=
  s.modStr (fun u => { u with rows := u.rows.filter (fun r => !(r.slot == slot && r.posn == posn)) })

/-- Whether a row still needs a tile: it reads it, and has not merged it as a slab. -/
def Row.needs (r : Row) (t : Tile) : Bool :=
  t.step == r.step && t.group == r.group && t.draft == r.draft && t.posn == r.tposn
    && (match r.slab with | some b => decide (b.upTo < t.chunkFirst + t.chunkLen) | none => true)

/-- Free the rows of landed tiles that no row needs (R19, R48, R111). -/
def State.freeTiles (s : State) : State :=
  s.modShell (fun h => { h with tiles := h.tiles.filter (fun t => !t.landed || s.str.rows.any (fun r => r.needs t)) })

/-- The selection of a slot's row position in a step. -/
def State.sel (s : State) (step slot posn : Nat) : Option Sel :=
  s.coll.sels.find? (fun x => x.step == step && x.slot == slot && x.posn == posn)

/-- Change a selection, making its entry where there is none. -/
def State.modSel (step slot posn : Nat) (f : Sel → Sel) (s : State) : State :=
  let hit := fun (x : Sel) => x.step == step && x.slot == slot && x.posn == posn
  s.modColl (fun c =>
    if c.sels.any hit then { c with sels := lmodIf hit f c.sels }
    else { c with sels := c.sels ++ [f { step := step, slot := slot, posn := posn, k := 0 }] })

/-- The collective configuration that governs a step (R140). -/
def Collective.governing (c : Collective) (step : Nat) : Option CollConfig :=
  (c.config.toList ++ c.prior).find? (fun x => decide (x.firstStep ≤ step))

/-- The collective configuration that governs a step, when it runs rounds (R136, R139, R140). -/
def State.roundsAt (s : State) (step : Nat) : Option CollConfig :=
  (s.coll.governing step).bind (fun c => if 1 < c.rowset then some c else none)

/-- The configuration of the step in flight. -/
def State.rounds (s : State) : Option CollConfig := s.roundsAt s.shell.step

/-! ### Pinned keys (R196) -/

/-- Whether any row or retained selection still uses a slot's keys of a step (R196). -/
def State.keysUsed (s : State) (slot step : Nat) : Bool :=
  s.str.rows.any (fun r => r.slot == slot && r.step == step)

/-- Change the pin counts of a key's items (R196). -/
def Rennet.pin (n : Rennet) (up : Bool) (gidx gver : Nat) (items : List FillKind) : Rennet :=
  let f := fun (c : CacheItem) => if c.gidx == gidx && c.gver == gver && items.contains c.kind then
    { c with pins := if up then c.pins + 1 else c.pins - 1 } else c
  { n with states := n.states.map f, chunks := n.chunks.map f }

/-- The items that a pinned key names: those of the version and the shard that it was pinned for. -/
def Rennet.pinned (n : Rennet) (p : SlotKeys) (k : Nat × Nat × Nat) : List FillKind :=
  match tget k.1 n.images with
  | some g => if gverOf g.handle = p.gver then keyItems g p.base p.len k.2.1 k.2.2 else []
  | none => []

/-- Release the pins a slot holds for a step (R196). -/
def State.releasePins (s : State) (slot step : Nat) : State :=
  match s.ren.pinnedFor.find? (fun p => p.slot == slot && p.step == step) with
  | some p =>
    let s := s.modRen (fun n => { n with pinnedFor := n.pinnedFor.filter (fun q => !(q.slot == slot && q.step == step)) })
    p.keys.foldl (fun s k => s.modRen (fun n => n.pin false k.1 p.gver (n.pinned p k))) s
  | none => s

/-- Release the pins of a slot for every step up to one whose rows have all gone (R196). -/
def State.sweepPins (s : State) (slot upTo : Nat) : State :=
  (s.ren.pinnedFor.filter (fun p => p.slot == slot && decide (p.step ≤ upTo) && !s.keysUsed slot p.step)).foldl
    (fun s p => s.releasePins slot p.step) s

/-! ### Work in a strainer (R86, R88, R109) -/

/-- Histogram buffers held on a strainer: one by each row in progress, one by each piece of work that runs (R86, R109). -/
def Strainers.held (u : Strainers) (i : Nat) : Nat :=
  ((u.rows.filter (fun r => r.team.contains i)).map (fun r => b2n r.begun + r.asks.countP (fun a => a.running))).foldl (· + ·) 0

/-- Whether each strainer of a team has a buffer to give. -/
def Strainers.free (u : Strainers) (team : List Nat) : Bool := team.all (fun i => decide (u.held i < 2))

/-- Whether a piece of work may run: extend blocks in order, those of a sharded row in their block round (R105, R156). The
work of a row in slabs is done by its looks (R113). -/
def State.mayRun (s : State) (r : Row) (a : Ask) : Bool :=
  !a.running && r.slab.isNone && match a.work with
    | .pass _ => true
    | .block n =>
      if (s.roundsAt r.step).isSome then (match s.sel r.step r.slot r.posn with | some x => x.blk == some n | none => false)
      else n == (match r.made with | some m => m + 1 | none => 0)

/-- A waiting piece of work runs if its strainers have buffers for it. -/
def State.startAsk (s : State) (order : Nat) : State :=
  match s.str.rows.find? (fun r => r.asks.any (fun a => a.order == order)) with
  | none => s
  | some r =>
    if r.asks.any (fun a => a.order == order && s.mayRun r a) && s.str.free r.team then
      s.modRow r.slot r.posn (fun r => { r with asks := lmodIf (fun a => a.order == order) (fun a => { a with running := true }) r.asks })
    else s

/-- A row's first pass begins once rows of it are written and its strainers have buffers for it (R87, R88). -/
def State.startRow (s : State) (r : Row) : State :=
  let due := (r.stage == .landing || r.slab.isSome) && !r.begun && (s.rowTiles r).any (fun t => r.needs t && (t.landed || decide (0 < t.written)))
  if due && s.str.free r.team then s.modRow r.slot r.posn (fun r => { r with begun := true }) else s

/-- Buffers that have come free go to the work that waits: blocks and passes in order of request, then first passes in
order of dealing (R88, R109). -/
def State.startWork (s : State) : State :=
  let orders := (s.str.rows.flatMap (fun r => r.asks.map (fun a => a.order)))
  let s := (sortBy (fun a b => decide (a ≤ b)) orders).foldl (fun s o => s.startAsk o) s
  s.str.rows.foldl (fun s r => s.startRow r) s

/-- Ask for a piece of work on a retained row. -/
def State.askWork (s : State) (slot posn : Nat) (w : RowWork) : State :=
  let n := s.str.asked
  ((s.modStr (fun u => { u with asked := n + 1 })).modRow slot posn (fun r => { r with asks := r.asks ++ [{ work := w, order := n }] })).startWork

/-- Whether this SK9 homes a slot (R303). -/
def State.homed (s : State) (slot : Nat) : Bool := decide (s.reqs.home.1 ≤ slot) && decide (slot < s.reqs.home.1 + s.reqs.home.2)

/-- Rechecks allowed to a selection of a step (R140, R204). -/
def State.recheckMax (s : State) (step : Nat) : Nat := match s.coll.governing step with | some c => c.rechecks | none => 3

end Sys2Proof.Machine
end

