-- ==== Sys2Proof/Machine/Shell.lean ====
section
/-! DEFINITION. The fabric shell (02_fabric_shell_and_slot_manifest.md): steps, manifest and token port, logit ingest. -/

namespace Sys2Proof.Machine

/-! ### Groups and positions -/

/-- What the shell holds of a group. -/
def State.group (s : State) (g : Nat) : Group := (s.shell.groups.find? (fun x => x.num == g)).getD { num := g }

/-- Change what it holds of a group. -/
def State.modGroup (g : Nat) (f : Group → Group) (s : State) : State :=
  s.modShell (fun h =>
    if h.groups.any (fun x => x.num == g) then { h with groups := lmodIf (fun x => x.num == g) f h.groups }
    else { h with groups := h.groups ++ [f { num := g }] })

/-- Slots of a group. -/
def groupSlots (f : Shape) (g : Nat) : List Nat :=
  if g < f.slots / f.groupSize then (List.range f.groupSize).map (fun i => g * f.groupSize + i) else []

/-- Whether a tile position is this one. -/
def Position.is (p : Position) (g : Nat) (draft : Bool) (posn : Nat) : Bool := p.group == g && p.draft == draft && p.posn == posn

/-- What the shell holds of a row position. -/
def State.position (s : State) (g : Nat) (draft : Bool) (posn : Nat) : Position :=
  (s.shell.positions.find? (fun p => p.is g draft posn)).getD { group := g, draft := draft, posn := posn }

/-- Change it. -/
def State.modPosition (g : Nat) (draft : Bool) (posn : Nat) (f : Position → Position) (s : State) : State :=
  s.modShell (fun h =>
    if h.positions.any (fun p => p.is g draft posn) then { h with positions := lmodIf (fun p => p.is g draft posn) f h.positions }
    else { h with positions := h.positions ++ [f { group := g, draft := draft, posn := posn }] })

/-- Whether the last position of a prefill entry is the last prompt token: known on the home, free on a participant. -/
def State.promptEnds (s : State) (slot : Nat) : Bool :=
  let e := s.entry slot
  match s.reqOfSlot slot with
  | some r => r.streamEnded && e.pos + e.feed == r.prompt.length
  | none => Config.promptEnds e.step slot

/-- Whether a slot's values of a position are stored (R38). -/
def State.keeps (s : State) (slot : Nat) (draft : Bool) (posn : Nat) : Bool :=
  let e := s.entry slot
  e.kind == .live && (if draft then e.spec && decide (posn + 1 < e.feed)
    else if e.prefill then posn + 1 == e.feed && s.promptEnds slot else decide (posn < e.feed))

/-- Slots of a group whose values of a position are stored, in slot order. -/
def State.keptSlots (s : State) (f : Shape) (g : Nat) (draft : Bool) (posn : Nat) : List Nat :=
  (groupSlots f g).filter (fun i => s.keeps i draft posn)

/-- Row positions of a slot that are stored: POSN of KIND 1, then of KIND 2. -/
def State.slotPositions (s : State) (f : Shape) (slot : Nat) : List (Bool × Nat) :=
  ((List.range f.feedWidth).filter (fun j => s.keeps slot false j)).map (fun j => (false, j))
    ++ ((List.range f.draftRows).filter (fun j => s.keeps slot true j)).map (fun j => (true, j))

/-- Whether every position of a group that stores a row has landed (R19). -/
def State.groupLanded (s : State) (f : Shape) (g : Nat) : Bool :=
  let whole := fun draft j => (s.keptSlots f g draft j).isEmpty || decide (f.shardLen ≤ (s.position g draft j).landed)
  (List.range f.feedWidth).all (whole false) && (List.range f.draftRows).all (whole true)

/-- Rows leave their strainers with their work lost: keys that none uses any more are released, and buffers go to the rows
that wait (R109, R196). -/
def State.dropRows (s : State) (gone : Row → Bool) : State :=
  let old := s.str.rows.filter gone
  let s := s.modStr (fun u => { u with rows := u.rows.filter (fun r => !gone r) })
  (old.foldl (fun s r => s.sweepPins r.slot r.step) s).freeTiles.startWork

/-- Drop a group for the step: its stored tiles, its rows, and every later tile (R20, R37, R39). A row in slab looks
keeps the work of its earlier looks (R113). -/
def State.dropGroup (s : State) (g : Nat) : State :=
  let n := s.shell.step
  let s := s.modGroup g (fun x => { x with dropped := true })
  let looks := fun (r : Row) => match r.slab with | some b => b.figures.isSome | none => false
  let s := s.modShell (fun h => { h with tiles := h.tiles.filter (fun t => !(t.step == n && t.group == g)) })
  s.dropRows (fun r => r.step == n && r.group == g && !looks r)

/-- Run every slot of a group dry. -/
def State.dryGroup (s : State) (f : Shape) (g cause : Nat) : State := s.markDryAll (groupSlots f g) cause

/-! ### Writing the build buffer (R25, R26) -/

/-- Write a slot's entry and record into the build buffer, both or neither: dropped where STEP is not the step the buffer
serves, and reported as missing the freeze where that step has been frozen already (R25, R26). Step 0 meets no freeze
(R418). The manual rules no write of a slot at or beyond N: it is dropped without a report (DESIGN CHOICE,
notes/assumptions/131.md). -/
def State.putEntry (s : State) (slot : Nat) (e : Entry) (r : TokRecord) : State :=
  match s.shell.building with
  | none => s
  | some b =>
    if b.shape.slots ≤ slot then s
    else if e.step = b.step then s.modShell (fun h => { h with building := some { b with cells := tput slot (e, r) b.cells } })
    else if 0 < e.step ∧ e.step < b.step then s.modShell (fun h => { h with missed := h.missed ++ [(e.step, slot)] })
    else s

/-- Apply the writes that waited in the CTL-to-FAB queue (R26). -/
def State.flushHeld (s : State) : State :=
  let w := s.shell.held
  w.foldl (fun s x => match entryOf x.2.1.toNat with
    | some e => s.putEntry x.1 e (tokRecordOf x.2.2.toNat)
    | none => s) (s.modShell (fun h => { h with held := [] }))

/-- One write of 96 B by firmware: held until Dm + 8 (R26). -/
def State.writeEntry (s : State) (slot : Nat) (e : Entry) (r : TokRecord) : State :=
  if s.buildOpen then (s.flushHeld).putEntry slot e r
  else s.modShell (fun h => { h with held := h.held ++ [(slot, BitVec.ofNat 512 e.toNat, BitVec.ofNat 256 r.toNat)] })

/-! ### The freeze (R25, R27, R33) -/

/-- What a participant issues for the slots for which no decision has come (R33). The manual does not say what REQ, POS
and the PASS words of such an entry hold: they are 0, as in a default entry of R27 (DESIGN CHOICE,
notes/assumptions/132.md). While no core does CC2's duties the defaults of R27 stand (R340, R341). -/
def State.noDecision (s : State) (b : Buffer) : Buffer :=
  if s.rounds.isSome && s.duty 2 then
    { b with cells := (List.range b.shape.slots).foldl (fun cs i =>
        if s.homed i || cs.any (fun c => c.1 == i) then cs
        else tput i ({ kind := .dry, dryCause := dryNoDecision, step := b.step }, { step := b.step }) cs) b.cells }
  else b

/-- Requests whose first LIVE entry has been frozen (Table 13-9, T_FIRST_LIVE). -/
def State.frozenLive (s : State) (b : Buffer) : State :=
  s.modReqs (fun q => { q with table := q.table.map (fun p =>
    match p.2.slot with
    | none => p
    | some i =>
      let e := (b.entryAt i).1
      if e.kind = .live ∧ e.req = p.2.handle ∧ p.2.tele.tFirstLive = 0 then
        (p.1, { p.2 with tele := { p.2.tele with tFirstLive := s.now } })
      else p) })

/-- The buffers change places, and a fresh one opens with the defaults and the shape that is due (R24, R25, R27). -/
def State.freezeNow (s : State) : State :=
  let s := s.flushHeld
  match s.shell.building with
  | none => s
  | some b =>
    let b := s.noDecision b
    let next := b.step + 1
    let pend := match s.shell.pendingShape with
      | some (f, first) => if first ≤ next then some f else none
      | none => none
    let fresh : Buffer := { step := next, shape := pend.getD b.shape }
    (s.modShell (fun h => { h with serving := some b, building := some fresh, frozen := true, cutoff := false,
                                   pendingShape := if pend.isSome then none else h.pendingShape })).frozenLive b

/-- FREEZE: cycle Dm of the step. -/
def execFreeze (t : Time) (s : State) : Result1 :=
  let s := s.at t
  .next (match s.shapeNow with
    | some f => if s.shell.started && !s.shell.frozen && decide (f.manDeadline ≤ s.clk.fab) then s.freezeNow else s
    | none => s)

/-- Whether a selection of an earlier step still runs for the request in a slot: until it ends no entry is written
(R106). -/
def State.awaitsOld (s : State) (slot : Nat) : Bool :=
  match s.reqOfSlot slot with
  | none => false
  | some r =>
    let n := s.shell.step
    let looks := fun (x : Row) => match x.slab with | some b => b.figures.isSome | none => false
    let mine := fun (p : Option Part) => match p with | some p => p.req == r.handle | none => false
    s.str.rows.any (fun x => x.slot == slot && x.req == r.handle && decide (x.step < n) && !looks x)
      || s.coll.sels.any (fun x => x.slot == slot && decide (x.step < n) && !x.taken && (mine x.own || mine x.merged))

/-- Whether the result of one slot's step is known: no LIVE entry, or its commit or dry result has been met (R18), and no
earlier selection runs. -/
def State.slotKnown (s : State) (slot : Nat) : Bool :=
  ((s.entry slot).kind != .live || s.reqs.settled.contains slot) && !s.awaitsOld slot

/-- The slot that the other request of a pair holds (R316). -/
def State.otherSlot (s : State) (slot : Nat) : Option Nat :=
  ((s.reqOfSlot slot).bind (fun r => r.other.bind s.findReq)).bind (fun o => o.slot)

/-- Whether a slot's next entry can be made: its result is known, and that of the other slot of its pair (R123). -/
def State.outcomeKnown (s : State) (slot : Nat) : Bool :=
  s.slotKnown slot && match s.otherSlot slot with | some i => s.slotKnown i | none => true

/-- MANIFEST_ENTRY_WRITE: a slot of this SK9's own whose commit or dry result is not known takes no entry for the next
step (R18). -/
def execManifestEntryWrite (t : Time) (slot : BitVec 12) (entry : BitVec 512) (record : BitVec 256) (s : State) : Result1 :=
  let s := s.at t
  let i := slot.toNat
  .next (if !s.duty 2 then s
    else if s.homed i ∧ !s.outcomeKnown i then s
    else match entryOf entry.toNat with
      | some e => s.writeEntry i e (tokRecordOf record.toNat)
      | none => s)

/-! ### The start of a step (R40 to R42, R418) -/

/-- Log the groups whose beats exceeded the crossing allowance (R41). -/
def State.crossingLog (s : State) : State :=
  s.shell.groups.foldl (fun s g =>
    if g.late.isSome || g.crossing then s.logFabric errCrossingLate none g.num (g.late.getD 0) s.shell.step else s) s

/-- w_eff of a customer (R321). -/
def Customer.eff (c : Customer) : Nat := max 1 ((c.weight * c.k) >>> 8)

/-- One slot-step charged to the arbiters (R321). -/
def Rations.slotStep (q : Rations) (cust : Nat) : Rations :=
  match tget cust q.customers with
  | none => q
  | some c => { q with customers := tmod cust (fun c => { c with pass := (c.pass + 2 ^ 32 / c.eff) % 2 ^ 64 }) q.customers,
                       pools := lmod c.pool (fun p => { p with pass := (p.pass + 2 ^ 32 / p.weight) % 2 ^ 64 }) q.pools }

/-- What issuing a slot's entry does for its request: LIVE entries count and are charged to the arbiters, a DRY one is
counted under its cause (R32, R321, Table 13-9). -/
def State.issueEntry (s : State) (slot : Nat) (r : Request) : State :=
  let e := s.entry slot
  match e.kind with
  | .live => if e.req = r.handle then
      (s.modReq r.handle (fun r => { r with turnSteps := r.turnSteps + 1, firstIssued := true,
                                            tele := { r.tele with stepsLive := r.tele.stepsLive + 1 } })).modRat
        (fun q => q.slotStep r.customer)
      else s
  | .dry => s.modReq r.handle (fun r => { r.countDry e.dryCause with turnSteps := r.turnSteps + 1 })
  | .idle => s.modReq r.handle (fun r => { r with turnSteps := r.turnSteps + 1 })

/-- The entries of a step issued. -/
def State.issueAll (s : State) : State :=
  s.reqs.table.foldl (fun s p => match p.2.slot with | some i => s.issueEntry i p.2 | none => s) s

/-- The configuration that governs a step (R140). -/
def Collective.forStep (c : Collective) (step : Nat) : Collective :=
  match (c.pending.filter (fun p => decide (p.firstStep ≤ step))).getLast? with
  | some p => { c with config := some p, prior := c.config.toList ++ c.prior, lost := [],
                       pending := c.pending.filter (fun p => decide (step < p.firstStep)) }
  | none => c

/-- Earlier configurations are kept while a selection that one of them governs is (R140). -/
def Collective.prune (c : Collective) : Collective :=
  { c with prior := c.prior.filter (fun p => c.sels.any (fun x => match c.governing x.step with | some q => q == p | none => false)) }

/-- Firmware keeps the slots of a row set that has lost a die dry, until a new configuration is in force (R161). -/
def State.keepLost (s : State) : State :=
  match s.rounds, s.shapeNow with
  | some _, some f => if s.coll.lost.isEmpty then s else s.markDryAll (List.range f.slots) dryRoundTimeout
  | _, _ => s

/-- Whether a row lives on when its step ends: a retained one, and one whose group has landed whole (R19, R106). -/
def State.outlives (s : State) (r : Row) : Bool :=
  r.stage == .retained || (s.rowLanded r && (r.step != s.shell.step || s.groupLanded r.shape r.group))

/-- Begin a step: the frozen buffer's entries are in flight, and everything that belongs to one step starts afresh.
Tiles of rows that are still held stay in the vat (R106). Headers left without their beats stay queued, and their beats
are dropped. Writes still held take their place first (R25). -/
def State.beginStep (s : State) (n : Nat) : State :=
  let s := s.flushHeld
  let next := s.shell.dryNext
  let s := s.dropRows (fun r => !s.outlives r)
  let fab := s.clk.fab
  let s := s.modShell (fun h =>
    { h with current := h.serving, step := n, started := true, frozen := false, deadline := false,
             missed := h.missed.filter (fun m => decide (n ≤ m.1)),
             headers := h.headers.map (fun x => { x with refused := true }), positions := [], groups := [],
             tiles := h.tiles.filter (fun t => t.landed), dry := [], dryNext := [], engMarks := h.engMarks.map (fun d => d - fab),
             stretches := 0, startAon := s.now })
  let s := (s.modClk (fun c => { c with fab := 0 })).modVat (fun v => { v with poisonLogged := [] })
  let s := s.modReqs (fun q => { q with settled := [] })
  let live := fun (x : Sel) => decide (n ≤ x.step + 2) || s.str.rows.any (fun r => r.step == x.step && r.slot == x.slot && r.posn == x.posn)
  let s := (s.modColl (fun c => ({ c.forStep n with sels := c.sels.filter live, dry := [] } : Collective).prune)).freeTiles.startWork
  (next.foldl (fun s d => s.markDry d.1 d.2) s.issueAll).keepLost.reweigh

/-- A later fs_step_start, judged against S and A (R42). -/
def State.laterStart (s : State) (b : Buffer) : State :=
  let c := s.clk.fab
  let len := b.shape.stepLen
  let a := b.shape.xallow
  let n := s.shell.step + 1
  let s := s.crossingLog
  let s := s.modShell (fun h => { h with lastLen := s.now - h.startAon, lastStretches := h.stretches,
                                         startDiff := (c : Int) - (len : Int) })
  let s := if s.shell.frozen then s else s.freezeNow
  if c + a < len then
    let s := s.modShell (fun h => { h with serving := h.serving.map (fun b => { b with early := true }) })
    (s.logFabric errStepEarly none (len - c) n 0).beginStep n
  else if len + a < c then (s.logErr errStepLate none (c - (len + a)) n 0).beginStep n
  else s.beginStep n

/-- STEP_START. Before a shape the pulse is ignored; the first one begins step 0 (R418). -/
def execStepStart (t : Time) (s : State) : Result1 :=
  let s := s.at t
  .next (match s.shell.serving, s.shell.current with
    | none, _ => s
    | some b, none => s.beginStep b.step
    | some _, some b => s.laterStart b)

/-- STRETCH: the shell only counts the period (R40). -/
def execStretch (t : Time) (s : State) : Result1 := .next ((s.at t).modShell (fun h => { h with stretches := h.stretches + 1 }))

/-- FREQUENCY_CHANGE: every count continues (R40). -/
def execFrequencyChange (t : Time) (mhz : Nat) (s : State) : Result1 := .next ((s.at t).modClk (fun c => { c with fabMHz := mhz, fchg := true }))

/-! ### Reads by the program (R28, R30, R34, R43) -/

/-- A read strobed in the guard band (R28). -/
def State.inGuard (s : State) : Bool :=
  match s.shapeNow with
  | some f => s.shell.started && decide (f.manDeadline ≤ s.clk.fab + f.xallow) && decide (s.clk.fab < f.manDeadline + f.xallow)
  | none => false

/-- The entry with an uncorrectable error, and its record (R34). The record is IDLE content; its STEP is 0, as in the
entry, whose fields but four are 0 (DESIGN CHOICE, notes/assumptions/133.md). -/
def spoiledEntry : Entry := { kind := .dry, dryCause := dryBufferEcc, noAdapter := false }
def spoiledRecord : TokRecord := {}

/-- Run a slot dry in the step that a buffer serves. -/
def State.dryInStep (s : State) (step slot cause : Nat) : State :=
  if s.shell.started && step == s.shell.step then s.markDry slot cause
  else s.modShell (fun h => { h with dryNext := if (tget slot h.dryNext).isSome then h.dryNext else tput slot cause h.dryNext })

/-- What the check bits of one read of a slot below N do (R34). -/
def State.readEcc (s : State) (b : Buffer) (slot port : Nat) (ecc : Ecc) : State :=
  match ecc with
  | .clean => s
  | .correctable => s.modShell (fun h => { h with corrected := h.corrected + 1 })
  | _ =>
    let s := s.logFabric errBufferUe (some slot) port b.step 0
    let s := if s.shell.started && b.step == s.shell.step then s.markDry slot dryBufferEcc else s
    let spoil := fun (b : Buffer) => { b with cells := tput slot (spoiledEntry, spoiledRecord) b.cells }
    s.modShell (fun h => { h with serving := h.serving.map spoil })

/-- What one read of a slot does beside returning data: check bits, for a slot below N, and the guard band for every slot
(R34, R43). `port` is 0 for the manifest, 1 for the token port. -/
def State.readSlot (s : State) (b : Buffer) (slot port : Nat) (ecc : Ecc) : State :=
  let s := if slot < b.shape.slots then s.readEcc b slot port ecc else s
  if s.inGuard then
    let dm : Nat := match s.shapeNow with | some f => f.manDeadline | none => 0
    let d := (((s.clk.fab : Int) - (dm : Int)) % 2 ^ 32).toNat
    (s.logErr errGuardRead (some slot) d b.step port).dryInStep b.step slot dryCrossing
  else s

/-- A fatal check result. -/
def eccFatal (e : Ecc) : Bool := match e with | .uncorrectable => true | .tagParity => true | _ => false

/-- The buffer that serves reads; none before a shape, in reset and in skim mode (R348, R418). -/
def State.readBuffer (s : State) : Option Buffer := if s.inRst 0 || s.skimMode then none else s.shell.serving

/-- What a read of a slot returns: IDLE content at or beyond N (R30). -/
def Buffer.readAt (b : Buffer) (slot : Nat) : Entry × TokRecord :=
  if slot < b.shape.slots then b.entryAt slot else ({ step := b.step }, { step := b.step })

/-- MANIFEST_READ: the data is returned 4 cycles after the strobe. -/
def execManifestRead (t : Time) (slot : BitVec 12) (ecc : Ecc) (s : State) : Result1 :=
  let s := s.at t
  let i := slot.toNat
  .next (match s.readBuffer with
    | none => s.modShell (fun h => { h with manData := BitVec.ofNat 512 ({} : Entry).toNat })
    | some b =>
      (s.readSlot b i 0 ecc).modShell (fun h =>
        { h with manData := BitVec.ofNat 512 (if eccFatal ecc && decide (i < b.shape.slots) then spoiledEntry else (b.readAt i).1).toNat }))

/-- TOKEN_PORT_READ: the records of slots 2i and 2i + 1. In the guard band one GUARD_READ entry is written for each slot of
the pair, since each is run dry (R43 says "logs the read"; DESIGN CHOICE, notes/assumptions/134.md). -/
def execTokenPortRead (t : Time) (pair : BitVec 11) (eccLo eccHi : Ecc) (s : State) : Result1 :=
  let s := s.at t
  let i := 2 * pair.toNat
  .next (match s.readBuffer with
    | none => s.modShell (fun h => { h with tokData := BitVec.ofNat 512 (({} : TokRecord).toNat + 2 ^ 256 * ({} : TokRecord).toNat) })
    | some b =>
      let lo := if eccFatal eccLo && decide (i < b.shape.slots) then spoiledRecord else (b.readAt i).2
      let hi := if eccFatal eccHi && decide (i + 1 < b.shape.slots) then spoiledRecord else (b.readAt (i + 1)).2
      ((s.readSlot b i 1 eccLo).readSlot b (i + 1) 1 eccHi).modShell (fun h => { h with tokData := BitVec.ofNat 512 (lo.toNat + 2 ^ 256 * hi.toNat) }))

/-! ### Header beats (R35, R37) -/

/-- The first check of R37 that a header fails, 1 to 6; 0 for none. -/
def State.headerCheck (s : State) (f : Shape) (raw : Nat) : Nat :=
  let h := headerOf raw
  let draft := h.kind == 2
  if !crc64Ok raw then 1
  else if (h.kind ≠ 1 ∧ h.kind ≠ 2) ∨ h.format ≠ f.format ∨ (if draft then f.draftRows else f.feedWidth) ≤ h.posn
      ∨ f.slots / f.groupSize ≤ h.group ∨ h.gsize ≠ f.groupSize ∨ h.chunkLen = 0 ∨ (blockScaled f.format ∧ h.chunkLen % 32 ≠ 0) then 2
  else if h.step16 ≠ s.shell.step % 65536 then 3
  else if f.shardLen < h.chunkFirst + h.chunkLen then 4
  else if h.bytes ≠ payloadBytes f.format h.chunkLen f.groupSize then 5
  else if h.chunkFirst ≠ (s.position h.group draft h.posn).covered then 6
  else 0

/-- Data beats of a tile (R35). -/
def Header.beats (h : Header) : Nat := ceilDiv h.bytes 1024

/-- Queue a header; one whose tile has no data beats needs no place. -/
def State.queueHeader (s : State) (h : Header) (refused : Bool) : State :=
  if h.beats = 0 then s else s.modShell (fun x => { x with headers := x.headers ++ [{ hdr := h, refused := refused }] })

/-- A beat later than E + A: the tile it belongs to, when rows have been found for it, and every later tile of the group
are dropped, and the lateness is kept for the entry of R41. Positions complete by E + A stand. -/
def State.lateBeat (s : State) (f : Shape) (g : Nat) (tile : Option Nat) : State :=
  (s.modGroup g (fun x => { x with cut := true, late := some (s.clk.fab - (f.ingestEnd + f.xallow)) })).modShell
    (fun h => { h with tiles := h.tiles.filter (fun t => some t.num != tile) })

/-- A beat is beyond E + A. -/
def State.beyond (s : State) (f : Shape) : Bool := decide (f.ingestEnd + f.xallow < s.clk.fab)

/-- A header beat. -/
def State.headerBeat (s : State) (f : Shape) (raw : Nat) : State :=
  let h := headerOf raw
  let n := s.shell.step
  if 256 ≤ s.shell.headers.length then (s.logFabric errHeaderOverflow none h.group n 0).dryGroup f h.group dryTileError
  else if s.beyond f then (s.lateBeat f h.group none).queueHeader h true
  else if (s.group h.group).dropped ∨ (s.group h.group).cut then s.queueHeader h true
  else
    let c := s.headerCheck f raw
    if c = 0 then
      (s.modPosition h.group (h.kind == 2) h.posn (fun p => { p with covered := h.chunkFirst + h.chunkLen, begun := true })).queueHeader h false
    else
      (((s.dropGroup h.group).dryGroup f h.group dryTileError).logFabric errTileRefused none h.group c n).queueHeader h true

/-- Whether the shell takes logit beats: a shape in force and the first step begun. R418 rules the time before a shape is
accepted; the time from then to the first fs_step_start, which it leaves open, is taken alike: beats are dropped and
counted (DESIGN CHOICE, notes/assumptions/135.md). -/
def State.ingests (s : State) : Option Shape := if s.inRst 0 then none else if s.shell.started then s.shapeNow else none

/-- HEADER_BEAT. -/
def execHeaderBeat (t : Time) (hdr : BitVec 512) (s : State) : Result1 :=
  let s := s.at t
  .next (if s.inRst 0 then s
    else match s.ingests with
      | none => s.modShell (fun h => { h with dropped := h.dropped + 1 })
      | some f => s.headerBeat f hdr.toNat)

/-! ### Dealing a group (R88) and finding room (R20, R48) -/

/-- Strainers that may be dealt to: ON, not mapped out and not asked to power down (R88, R110, R395). -/
def State.dealable (s : State) : List Nat :=
  (List.range 16).filter (fun i => match s.str.units[i]? with
    | some u => u.st == .on && !u.release && bit s.str.usable.toNat i
    | none => false)

/-- The teams of a dealing: each kept slot with its strainers (R88). -/
def dealTeams (kept av : List Nat) : List (Nat × List Nat) :=
  let n := av.length
  kept.zipIdx.map (fun p =>
    if kept.length ≤ n then
      let t := n / kept.length
      (p.1, (av.drop (p.2 * t)).take t)
    else (p.1, [av.getD (p.2 % n) 0]))

/-- A row of a dealt slot. A row in slab looks goes on with its work under the new step (R113). -/
def State.dealRow (s : State) (f : Shape) (g slot : Nat) (team : List Nat) (p : Bool × Nat) : State :=
  let posn := if p.1 then f.feedWidth + p.2 else p.2
  let e := s.entry slot
  let ms := team.map (fun i => ({ strainer := i } : Member))
  let ds := s.draftsTo slot (rowDepth e f.feedWidth posn)
  let old := s.str.rows.find? (fun r => r.slot == slot && r.posn == posn && r.stage == .retained && r.slab.isSome && r.req == e.req)
  let row : Row := match old with
    | some r => { r with step := s.shell.step, group := g, team := team, members := ms, shape := f, drafts := ds,
                         partner := s.partnerSlot slot, begun := false,
                         slab := r.slab.map (fun b => { b with look := b.look + 1, upTo := 0, list := [], acc := {}, blkList := [],
                                                               blkAcc := {}, hist := [] }) }
    | none => { step := s.shell.step, slot := slot, posn := posn, group := g, draft := p.1, tposn := p.2, req := e.req, shape := f,
                drafts := ds, partner := s.partnerSlot slot, team := team, k := s.rowK slot ds, members := ms }
  (s.dropRow slot posn).modStr (fun u => { u with rows := u.rows ++ [row] })

/-- Deal a group's kept slots. A partner makes no selection, so it has no row of its own (R123). -/
def State.dealGroup (s : State) (f : Shape) (g : Nat) : State :=
  let kept := (groupSlots f g).filter (fun i => !(s.slotPositions f i).isEmpty)
  let teams := dealTeams kept s.dealable
  let s := s.modGroup g (fun x => { x with dealt := some teams })
  teams.foldl (fun s d =>
    if (s.samplingOf d.1).follow then s
    else (s.slotPositions f d.1).foldl (fun s p => s.dealRow f g d.1 d.2 p) s) s

/-- A group that finds no room (R20). -/
def State.groupFull (s : State) (f : Shape) (g : Nat) : State :=
  (((s.dropGroup g).modGroup g (fun x => { x with full := true })).engDryAll (groupSlots f g) dryVatFull).logFabric errGroupVatFull none g s.shell.step 0

/-- The areas a tile may go to (R48). -/
def State.tileAreas (s : State) (draft : Bool) : List Area :=
  let d := s.vat.plan.filter (fun a => a.use == 2)
  if draft && !d.isEmpty then d else s.vat.plan.filter (fun a => a.use == 1)

/-- Whether area rows [row, row + n) of an area are free. -/
def State.rowsFree (s : State) (a : Area) (row n : Nat) : Bool :=
  s.shell.tiles.all (fun t => t.area != a.num || decide (row + n ≤ t.firstRow) || decide (t.firstRow + t.rows ≤ row))

/-- The lowest free run of n rows in an area: it begins at row 0 or where a stored tile ends. -/
def State.freeRun (s : State) (a : Area) (n : Nat) : Option Nat :=
  let starts := 0 :: (s.shell.tiles.filter (fun t => t.area == a.num)).map (fun t => t.firstRow + t.rows)
  ((starts.filter (fun r => decide (r + n ≤ s.vat.areaCap a) && s.rowsFree a r n)).min?)

/-- Room for n rows: the first area with a free run. -/
def State.findRoom (s : State) (draft : Bool) (n : Nat) : Option (Area × Nat) :=
  ((s.tileAreas draft).filterMap (fun a => (s.freeRun a n).map (fun r => (a, r)))).head?

/-- Rows that the plan leaves for the rows of a step: the areas' capacity less the rows that earlier steps still hold. -/
def State.rowsLeft (s : State) (draft : Bool) : Nat :=
  let areas := s.tileAreas draft
  (areas.map (fun a => s.vat.areaCap a)).foldl (· + ·) 0
    - ((s.shell.tiles.filter (fun t => t.step != s.shell.step && areas.any (fun a => a.num == t.area))).map (fun t => t.rows)).foldl (· + ·) 0

/-- Slab mode of a position (R111), decided at its first tile. -/
def State.slabMode (s : State) (f : Shape) (g : Nat) (draft : Bool) (posn : Nat) (kept : List Nat) : State :=
  if storedRows f.format f.shardLen kept.length ≤ s.rowsLeft draft then s
  else
    let mine := fun (r : Row) => r.step == s.shell.step && r.group == g && r.draft == draft && r.tposn == posn
    s.modStr (fun u => { u with rows := lmodIf mine (fun r => { r with slab := some (r.slab.getD {}) }) u.rows })

/-- The first data beat of a tile: the group is dealt at its first tile, and the tile finds its rows. Answers the tile's
number; none when nothing of it is stored. -/
def State.openTile (s : State) (f : Shape) (h : Header) : State × Option Nat :=
  let draft := h.kind == 2
  let g := h.group
  let kept := s.keptSlots f g draft h.posn
  let any := (groupSlots f g).any (fun i => !(s.slotPositions f i).isEmpty)
  if (s.group g).dealt.isNone ∧ any ∧ s.dealable = [] then (s.groupFull f g, none)
  else
    let s := if (s.group g).dealt.isNone then s.dealGroup f g else s
    if kept = [] then (s, none)
    else
      let s := if h.chunkFirst = 0 then s.slabMode f g draft h.posn kept else s
      let rows := storedRows f.format h.chunkLen kept.length
      match s.findRoom draft rows with
      | none => (s.groupFull f g, none)
      | some (a, first) =>
        let t : Tile := { num := s.shell.nextTile, step := s.shell.step, group := g, draft := draft, posn := h.posn,
                          chunkFirst := h.chunkFirst, chunkLen := h.chunkLen, area := a.num, firstRow := first, rows := rows, kept := kept }
        (s.modShell (fun x => { x with tiles := x.tiles ++ [t], nextTile := x.nextTile + 1 }), some t.num)

/-! ### Data beats (R36, R38, R48) -/

/-- Where a payload byte of a tile of n entries goes in the stored tile (R36, R48): its offset there, when its slot is
kept. -/
def storedOffset (format n g : Nat) (base : Nat) (kept : List Nat) (off : Nat) : Option Nat :=
  let w := elemBytes format
  if off < n * g * w then
    let q := off / w
    (kept.idxOf? (base + q % g)).map (fun ki => (q / g * kept.length + ki) * w + off % w)
  else
    let sc := scaleStart format n g
    if blockScaled format ∧ sc ≤ off ∧ off < payloadBytes format n g then
      let q := (off - sc) / 4
      (kept.idxOf? (base + q % g)).map (fun ki => scaleStart format n kept.length + (q / g * kept.length + ki) * 4 + (off - sc) % 4)
    else none

/-- The stored bytes of one beat, with their offsets in the stored tile. -/
def beatBytes (f : Shape) (h : Header) (kept : List Nat) (beat : Nat) (data : List Byte) : List (Nat × Byte) :=
  data.zipIdx.filterMap (fun p =>
    (storedOffset f.format h.chunkLen f.groupSize (h.group * f.groupSize) kept (1024 * beat + p.2)).map (fun o => (o, p.1)))

/-- Bytes at rising offsets of a stored tile, appended to the `n` bytes before them: zeros stand where nothing goes. R48
zeroes the tail of the last row; it does not say what the padding before the scales holds, which is zeros here too (DESIGN
CHOICE, notes/assumptions/142.md). -/
def streamFrom : Nat → List (Nat × Byte) → List Byte
  | _, [] => []
  | n, (o, b) :: r => List.replicate (o - n) 0 ++ b :: streamFrom (o + 1) r

/-- The stored bytes of a tile that are still to be written once a beat has come: those held back, the beat's own, and with
the last beat the zero tail of the last row (R48). -/
def Tile.pendingBytes (t : Tile) (bs : List (Nat × Byte)) (last : Bool) : List Byte :=
  let l := t.buf ++ streamFrom (t.written * 128 + t.buf.length) bs
  if last then l ++ List.replicate (t.rows * 128 - (t.written * 128 + l.length)) 0 else l

/-- The selections of a group count from now (R158). -/
def State.timeGroup (s : State) (f : Shape) (t : Tile) : State :=
  let s := (s.str.rows.filter (fun r => r.step == t.step && r.group == t.group)).foldl
    (fun s r => s.modSel r.step r.slot r.posn (fun x => { x with tG := s.clk.eng })) s
  let now := s.clk.eng
  s.modColl (fun c => { c with sels := lmodIf (fun x => x.step == t.step && x.slot / f.groupSize == t.group) (fun x => { x with tG := now }) c.sels })

/-- A tile has landed: its position grows, and the group's selections count from now. -/
def State.landTile (s : State) (f : Shape) (t : Tile) : State :=
  let s := s.modShell (fun h => { h with tiles := lmodIf (fun x => x.num == t.num) (fun x => { x with landed := true, written := x.rows, buf := [] }) h.tiles })
  (s.modPosition t.group t.draft t.posn (fun p => { p with landed := p.landed + t.chunkLen })).timeGroup f t

/-- Store one beat of a tile: every row of it is written once, whole (R56, R61). -/
def State.storeBeat (s : State) (f : Shape) (h : Header) (num beat : Nat) (data : List Byte) : State :=
  match s.shell.tiles.find? (fun t => t.num == num) with
  | none => s
  | some t => match s.tileArea t with
    | none => s
    | some a =>
      if !s.vat.rangeOk a t.firstRow t.rows then s.logRange a.num t.firstRow
      else
        let last := beat + 1 == h.beats
        let bytes := t.pendingBytes (beatBytes f h t.kept beat data) last
        let n := bytes.length / 128
        let s := s.modVat (Vat.writeRows a n (t.firstRow + t.written) bytes)
        if last then (s.landTile f t).startWork
        else
          let upd := fun (y : Tile) => { y with written := t.written + n, buf := bytes.drop (n * 128) }
          (s.modShell (fun x => { x with tiles := lmodIf (fun y => y.num == num) upd x.tiles })).startWork

/-- Count a beat to the oldest header and drop the header once all its beats have come. -/
def State.countBeat (s : State) : State :=
  s.modShell (fun h => match h.headers with
    | [] => h
    | x :: r => if x.beats + 1 < x.hdr.beats then { h with headers := { x with beats := x.beats + 1 } :: r } else { h with headers := r })

/-- The oldest header's tile is dropped: its later beats too (R41). -/
def State.refuseOldest (s : State) : State :=
  s.modShell (fun h => match h.headers with
    | [] => h
    | x :: r => { h with headers := { x with refused := true, tile := none } :: r })

/-- A tile of which nothing is stored still covers its entries once its last beat has come. -/
def State.passBeat (s : State) (h : Header) (beat : Nat) : State :=
  if beat + 1 = h.beats then s.modPosition h.group (h.kind == 2) h.posn (fun p => { p with landed := p.landed + h.chunkLen }) else s

/-- A data beat bound to a header that is not refused. -/
def State.takeBeat (s : State) (f : Shape) (x : PendingHeader) (data : List Byte) : State :=
  let r := if x.beats = 0 then s.openTile f x.hdr else (s, x.tile)
  let s := r.1.modShell (fun h => match h.headers with
    | y :: l => { h with headers := { y with tile := r.2 } :: l }
    | [] => h)
  match r.2 with
  | some n => (s.storeBeat f x.hdr n x.beats data).countBeat
  | none => (if (s.group x.hdr.group).dropped then s else s.passBeat x.hdr x.beats).countBeat

/-- A data beat (R35, R41). -/
def State.dataBeat (s : State) (f : Shape) (data : List Byte) : State :=
  match s.shell.headers with
  | [] => (s.modShell (fun h => { h with orphans := h.orphans + 1 })).logFabric errBeatOrphan none 1 s.shell.step 0
  | x :: _ =>
    if x.refused && !(s.beyond f) then s.countBeat
    else if s.beyond f then ((s.lateBeat f x.hdr.group x.tile).refuseOldest).countBeat
    else if (s.group x.hdr.group).dropped ∨ (s.group x.hdr.group).cut then s.countBeat
    else s.takeBeat f x data

/-- DATA_BEAT. -/
def execDataBeat (t : Time) (data : BitVec 8192) (s : State) : Result1 :=
  let s := s.at t
  .next (if s.inRst 0 then s
    else match s.ingests with
      | none => s.modShell (fun h => { h with dropped := h.dropped + 1 })
      | some f => s.dataBeat f (leBytes 1024 data.toNat))

/-! ### The ingest deadline (R39, R309) -/

/-- Decide one position of a group that is not complete. TILE_ERROR for a position with no tile begun has no code in Table
17-2, so no log entry is written for it, though R32 has every in-step cause in the log (DESIGN CHOICE,
notes/assumptions/136.md). -/
def State.judgePosition (s : State) (f : Shape) (g : Nat) (draft : Bool) (posn : Nat) : State :=
  let p := s.position g draft posn
  if (s.group g).dropped ∨ s.keptSlots f g draft posn = [] ∨ f.shardLen ≤ p.landed then s
  else if p.begun then ((s.modGroup g (fun x => { x with crossing := true })).dropGroup g).dryGroup f g dryCrossing
  else (s.dropGroup g).dryGroup f g dryTileError

/-- Decide every position of a group. Where one position has begun and another has no tile begun, R39 gives the group both
causes: it takes the one of the first position in order of KIND and POSN (DESIGN CHOICE, notes/assumptions/137.md). -/
def State.judgeGroup (s : State) (f : Shape) (g : Nat) : State :=
  let s := (List.range f.feedWidth).foldl (fun s j => s.judgePosition f g false j) s
  (List.range f.draftRows).foldl (fun s j => s.judgePosition f g true j) s

/-- LIVE slots that store no row give their part at E + A with COUNT 0 (R309). -/
def State.rowlessParts (s : State) (f : Shape) : State :=
  (List.range f.slots).foldl (fun s i =>
    let e := s.entry i
    if e.kind = .live ∧ e.prefill ∧ (s.slotPositions f i).isEmpty then
      let part : Part := { dryCause := (s.dryOf i).getD 0, req := e.req }
      s.modSel s.shell.step i 0 (fun x => { x with own := some part, merged := if s.rounds.isNone then some part else x.merged, tG := s.clk.eng })
    else s) s

/-- INGEST_DEADLINE: cycle E + A of the step. -/
def execIngestDeadline (t : Time) (s : State) : Result1 :=
  let s := s.at t
  .next (match s.ingests with
    | none => s
    | some f =>
      if s.shell.deadline ∨ s.clk.fab < f.ingestEnd + f.xallow then s
      else
        let s := s.modShell (fun h => { h with deadline := true })
        ((List.range (f.slots / f.groupSize)).foldl (fun s g => s.judgeGroup f g) s).rowlessParts f)

end Sys2Proof.Machine
end

