-- ==== Sys2Proof/Machine/VatOps.lean ====
section
/-! DEFINITION. The vat's own commands: INBOUND_WRITE, SCRUB_VISIT, WRITE_BACK and WRITE_BACK_DROP (03_logit_vat.md). -/

namespace Sys2Proof.Machine

/-- An inbound address decoded (R54): STAMP, WINDOW, OFFSET. -/
def inboundStamp (a : BitVec 64) : Nat := a.toNat / 2 ^ 38
def inboundWindow (a : BitVec 64) : Nat := (a.toNat / 2 ^ 32) % 64
def inboundOffset (a : BitVec 64) : Nat := a.toNat % 2 ^ 32

/-- The window entry with a number. -/
def Vat.window (v : Vat) (w : Nat) : Window := v.windows.getD w {}

/-- The PRA of a window's row (R54); `none` for an entry that was never opened. The rows of an OPEN window lie in its
area; a CLOSED entry keeps only the banks its rows lay in, in row order (R53). -/
def Vat.windowPra (v : Vat) (w : Window) (row : Nat) : Option Nat :=
  match w.banks with
  | [] => none
  | b :: _ =>
    let kept := v.pra (w.banks.getD (row % w.banks.length) b) (row / w.banks.length)
    if w.st = .closed then some kept
    else match v.plan.find? (fun a => a.num == w.area && a.use == 4) with
      | some a => some (v.areaPra a.firstBank a.nbanks (w.firstRow + row))
      | none => some kept

/-! ### The buffers of a window (R143, R144, R171) -/

/-- List buffers per selection (R171). -/
def buffersPer (f : Shape) : Nat := f.feedWidth + f.draftRows

/-- Rows of one list buffer of a window by its role (Table 7-2). -/
def listRows (role : Nat) : Nat := if role = 1 ∨ role = 3 then 17 else 11

/-- Whether a configuration names a window as one of this die's. -/
def CollConfig.names (c : CollConfig) (w : Nat) : Bool :=
  c.ownDown == w || c.ownHome == w || c.ownRoot == w || c.children.any (fun k => k.2 == w)

/-- The configuration that a window serves: the one in force before accepted later ones. -/
def Collective.configOf (c : Collective) (w : Nat) : Option CollConfig :=
  (c.config.toList ++ c.pending ++ c.prior).find? (fun x => x.names w)

/-- The buffer that a window row lies in: its first row and its rows. -/
def bufferOf (c : CollConfig) (f : Shape) (role row : Nat) : Option (Nat × Nat) :=
  let r := listRows role
  let lists := c.nb * buffersPer f * r
  if row < lists then some (row / r * r, r)
  else if role = 1 ∧ row < lists + c.np * 193 then some (lists + (row - lists) / 193 * 193, 193)
  else none

/-- A header write marks its buffer, named by its first row (R144). -/
def State.markBuffer (s : State) (n off : Nat) : State :=
  let w := s.vat.window n
  match s.coll.configOf n, s.shapeInForce with
  | some c, some f => match bufferOf c f w.role (off / 128) with
    | some (first, _) =>
      if off = first * 128 ∧ !w.marked.contains first then
        s.modVat (fun v => { v with windows := lmod n (fun w => { w with marked := w.marked ++ [first] }) v.windows })
      else s
    | none => s
  | _, _ => s

/-- The response code of an inbound write by the first check of Table 3-3 that fails; 0 when it is written. -/
def Vat.inboundResp (v : Vat) (a : BitVec 64) (tagBad : Bool) : Nat :=
  let w := v.window (inboundWindow a)
  let off := inboundOffset a
  if w.st = .free ∨ w.stamp.toNat ≠ inboundStamp a then 1
  else if off % 64 ≠ 0 ∨ w.length * 128 ≤ off then 1
  else match v.windowPra w (off / 128) with
    | none => 2
    | some p =>
      if !v.bankOn (p / 2048) then 2
      else if w.st ≠ .opened then 1
      else if tagBad then 3
      else 0

/-- Count a rejection, and log the first of its entry and code in each span of 1,024 ENG cycles (R55). The manual does not
say where a span begins: at every 1,024th ENG count (DESIGN CHOICE, notes/assumptions/141.md). -/
def State.rejectInbound (s : State) (a : BitVec 64) (resp : Nat) : State :=
  let n := inboundWindow a
  let w := s.vat.window n
  let span := s.clk.eng / 1024
  let seen := w.logged.contains (resp, span)
  let s := s.modVat (fun v => { v with windows := lmod n (fun w =>
    { w with rejects := w.rejects + 1, logged := if seen then w.logged else (resp, span) :: w.logged.filter (fun x => x.1 != resp) }) v.windows })
  if seen then s else s.logErr errWindowReject none (n + 256 * resp) (inboundOffset a) (inboundStamp a)

/-- One inbound write decided (R54 to R56, R60). -/
def State.inbound (s : State) (a : BitVec 64) (data : BitVec 512) (tagBad : Bool) : State :=
  let r := s.vat.inboundResp a tagBad
  let off := inboundOffset a
  let s := s.modPorts (fun p => { p with rxResp := r })
  match s.vat.windowPra (s.vat.window (inboundWindow a)) (off / 128) with
  | none => s.rejectInbound a r
  | some pra =>
    if r = 0 then (s.modVat (fun v => v.writeRow pra (off % 128) (leBytes 64 data.toNat))).markBuffer (inboundWindow a) off
    else if r = 3 then (s.modVat (fun v => v.zeroTag pra)).rejectInbound a r
    else s.rejectInbound a r

/-- INBOUND_WRITE. The vat takes nothing while ENG is in reset (R54). -/
def execInboundWrite (t : Time) (addr : BitVec 64) (data : BitVec 512) (tagBad : Bool) (s : State) : Result1 :=
  let s := s.at t
  .next (if s.inRst 1 then s else s.inbound addr data tagBad)

/-- What a read of one row finds, beyond its data (R62, R63, R65). -/
def State.rowRead (s : State) (pra : Nat) (e : Ecc) : State :=
  match e with
  | .clean => s
  | .correctable => s.rowCorrected pra
  | .uncorrectable => s.rowPoisoned pra false
  | .tagParity => s.rowPoisoned pra true

/-- One visit of the scrubber to an ON bank (R64). -/
def State.scrubBank (s : State) (b : Nat) (e : Ecc) : State :=
  let n := s.vat.goodRows b
  if !s.vat.bankOn b ∨ n = 0 then s
  else
    let g := s.vat.scrub.getD b 0 % n
    (s.rowRead (s.vat.pra b g) e).modVat (fun v => { v with scrub := lmod b (fun _ => (g + 1) % n) v.scrub })

/-- SCRUB_VISIT. -/
def execScrubVisit (t : Time) (bank : BitVec 6) (ecc : Ecc) (s : State) : Result1 :=
  let s := s.at t
  .next (s.scrubBank bank.toNat ecc)

/-- Whether a row's write-back waits, and since when. -/
def Vat.waitingBack (v : Vat) (pra : Nat) : Option Nat := (v.writeBacks.find? (fun w => w.pra == pra)).map (fun w => w.since)

/-- WRITE_BACK: the corrected row is written, within 64 ENG cycles of its queueing (R62). The data is the row's own, so
only the tag moves (R56). -/
def execWriteBack (t : Time) (pra : BitVec 17) (s : State) : Result1 :=
  let s := s.at t
  .next (match s.vat.waitingBack pra.toNat with
    | none => s
    | some since => if s.clk.eng ≤ since + 64 ∧ s.vat.bankOn (pra.toNat / 2048) then s.modVat (fun v => v.writeRow pra.toNat 0 []) else s)

/-- WRITE_BACK_DROP: the write port has not been free for the row within 64 ENG cycles (R62). -/
def execWriteBackDrop (t : Time) (pra : BitVec 17) (s : State) : Result1 :=
  let s := s.at t
  .next (match s.vat.waitingBack pra.toNat with
    | none => s
    | some since =>
      if since + 64 ≤ s.clk.eng then
        s.modVat (fun v => { v with writeBacks := v.writeBacks.filter (fun w => w.pra != pra.toNat), dropped := v.dropped + 1 })
      else s)

end Sys2Proof.Machine
end

