-- ==== Sys2Proof/Machine/Messages.lean ====
section
/-! DEFINITION. The collective's messages: their cells, the buffers they go into, and the queue of messages that wait for
the port (R138, R143 to R147, R171, Tables 7-4 to 7-7). -/

namespace Sys2Proof.Machine

/-- Message kinds (Table 7-5). -/
def kPartial : Nat := 1
def kMerged : Nat := 2
def kDecision : Nat := 3
def kWalk : Nat := 4
def kHist : Nat := 5
def kFound : Nat := 6
def kReject : Nat := 7

/-- A message header (Table 7-4). -/
structure MsgHeader where
  kind : Nat
  posn : Nat := 0
  hops : Nat := 0
  src : Nat := 0
  missing : Nat := 0xFFFF
  step : Nat := 0
  slot : Nat := 0
  round : Nat := 0
  dryCause : Nat := 0
  cells : Nat := 1
  req : Handle := 0
  res : Result := {}
deriving DecidableEq, Repr

/-- A header as its cell of 512 bits, HCRC included. -/
def MsgHeader.toNat (h : MsgHeader) : Nat :=
  withCrc64 (pack [(8, h.kind), (8, h.posn), (16, h.hops), (16, h.src), (16, h.missing), (32, h.step), (12, h.slot), (4, 0),
    (8, h.round), (8, h.dryCause), (16, h.cells), (16, 0), (32, h.req.toNat), (32, h.res.selstat.toNat), (32, h.res.valid),
    (32, h.res.above), (32, h.res.ties), (32, h.res.tau.toNat), (32, h.res.lmax.toNat), (32, h.res.nancnt), (32, h.res.sig),
    (16, h.res.count), (16, h.res.block)])

/-- The header that a cell holds. -/
def msgHeaderOf (x : Nat) : MsgHeader :=
  let w := fun lo => BitVec.ofNat 32 (bits x lo 32)
  { kind := bits x 0 8, posn := bits x 8 8, hops := bits x 16 16, src := bits x 32 16, missing := bits x 48 16, step := bits x 64 32,
    slot := bits x 96 12, round := bits x 112 8, dryCause := bits x 120 8, cells := bits x 128 16, req := w 160,
    res := { selstat := w 192, valid := bits x 224 32, above := bits x 256 32, ties := bits x 288 32, tau := w 320, lmax := w 352,
             nancnt := bits x 384 32, count := bits x 448 16, block := bits x 464 16, sig := bits x 416 32 } }

/-! ### Bodies -/

/-- A number cut into cells of 512 bits. -/
def cellsOf : Nat → Nat → List Nat
  | 0, _ => []
  | n + 1, x => x % 2 ^ 512 :: cellsOf n (x / 2 ^ 512)

/-- Cells joined into a number. -/
def joinCells : List Nat → Nat
  | [] => 0
  | c :: r => c % 2 ^ 512 + 2 ^ 512 * joinCells r

/-- A list body: 8 entries a cell (Table 7-5). -/
def listCells (l : List ListEntry) : List Nat := cellsOf (ceilDiv l.length 8) (pack (l.map (fun e => (64, e.toNat))))

/-- The list that a body holds. -/
def listOfCells (count : Nat) (cells : List Nat) : List ListEntry :=
  let x := joinCells cells
  (List.range count).map (fun i => listEntryOf (bits x (64 * i) 64))

/-- What a DECISION carries (Table 7-6). -/
structure Decision where
  entry : Entry := {}
  record : TokRecord := {}
  toks : List TokenId := []
  gram : Nat := 0
  sampling : Sampling := {}
  penalty : List (TokenId × Nat) := []
deriving DecidableEq, Repr

/-- The body of a DECISION: 3 cells, and 17 more when the entry has FIRST = 1 (R147). -/
def Decision.cells (d : Decision) : List Nat :=
  let c2 := pack ([(256, d.record.toNat), (8, d.toks.length)] ++ (List.range 9).map (fun i => (24, match d.toks[i]? with | some t => t.toNat | none => 0)))
  [d.entry.toNat, c2, d.gram % 2 ^ 128]
    ++ (if d.entry.first then d.sampling.toNat :: cellsOf 16 (penaltyNat d.penalty) else [])

/-- The DECISION that a body holds; `none` for an entry of KIND 3. -/
def decisionOf (cells : List Nat) : Option Decision :=
  let c2 := cells.getD 1 0
  (entryOf (cells.getD 0 0)).map (fun e =>
    { entry := e, record := tokRecordOf (c2 % 2 ^ 256),
      toks := (List.range (min 9 (bits c2 256 8))).map (fun i => BitVec.ofNat 24 (bits c2 (264 + 24 * i) 24)),
      gram := cells.getD 2 0 % 2 ^ 128,
      sampling := if e.first then samplingOf (cells.getD 3 0) else {},
      penalty := if e.first then penaltyOf (joinCells (cells.drop 4)) else [] })

/-- The body of a WALK (Table 7-7). -/
def WalkMsg.cell (w : WalkMsg) : Nat :=
  let ex := fun i => match w.excl[i]? with | some v => v % 2 ^ 56 + 2 ^ 63 | none => 0
  pack [(8, w.wkind), (8, w.digit), (16, w.owner), (32, w.prefixV), (56, w.lo), (8, 0), (56, w.hi), (8, 0), (32, w.km.toNat),
    (32, w.invT.toNat), (64, ex 0), (64, ex 1), (64, ex 2), (64, w.target)]

/-- The WALK that a cell holds. -/
def walkMsgOf (x : Nat) : WalkMsg :=
  { wkind := bits x 0 8, digit := bits x 8 8, owner := bits x 16 16, prefixV := bits x 32 32, lo := bits x 64 56, hi := bits x 128 56,
    km := BitVec.ofNat 32 (bits x 192 32), invT := BitVec.ofNat 32 (bits x 224 32),
    excl := (List.range 3).filterMap (fun i => let v := bits x (256 + 64 * i) 64; if bit v 63 then some (v % 2 ^ 56) else none),
    target := bits x 448 64 }

/-- The body of a FOUND or a REJECT (Table 7-7). -/
def foundCell (e : ListEntry) (acc weight : Nat) : Nat := pack [(32, e.key.toNat), (24, e.id.toNat), (8, 0), (64, acc), (32, weight)]

/-- The entry, ACC and WEIGHT of a FOUND or a REJECT. -/
def foundOf (x : Nat) : ListEntry × Nat × Nat := (⟨BitVec.ofNat 32 (bits x 0 32), BitVec.ofNat 24 (bits x 32 24)⟩, bits x 64 64, bits x 128 32)

/-- The body of a HIST: 2,048 buckets of 12 B in 384 cells (Table 7-5). -/
def histCells (h : List Bucket) : List Nat :=
  cellsOf 384 (pack ((List.range 2048).flatMap (fun i => match h[i]? with | some b => [(32, b.count), (64, b.weight)] | none => [(96, 0)])))

/-- The histogram that a body holds. -/
def histOf (cells : List Nat) : List Bucket :=
  let x := joinCells cells
  (List.range 2048).map (fun i => ⟨bits x (96 * i) 32, bits x (96 * i + 32) 64⟩)

/-! ### Buffers and the outbound queue -/

/-- Byte offset of a list buffer (R143, R171). -/
def listBase (f : Shape) (nb step slot posn rows : Nat) : Nat :=
  (((step * f.slots + slot) % nb) * buffersPer f + posn) * rows * 128

/-- Byte offset of a pass buffer of an UP window (R143). -/
def passBase (f : Shape) (nb np slot : Nat) : Nat := (nb * buffersPer f * 17 + (slot % np) * 193) * 128

/-- The cells of a message in the order of their sending: body, the zero cell of an odd count, header last (R144). -/
def messageCells (h : MsgHeader) (body : List Nat) : List (Nat × BitVec 512) :=
  let n := body.length + 1
  (body.zipIdx.map (fun p => (p.2 + 1, BitVec.ofNat 512 p.1))) ++ (if n % 2 = 1 then [(n, 0)] else [])
    ++ [(0, BitVec.ofNat 512 { h with cells := n }.toNat)]

/-- Whether the plan has a WORK area (R412). -/
def State.hasWork (s : State) : Bool := (s.vat.areaOf 5).isSome

/-- Queue a message for a window (R144): class of the port, window address, byte offset of the buffer. -/
def State.post (s : State) (cls : Nat) (addr : Nat × Nat) (base : Nat) (h : MsgHeader) (body : List Nat) : State :=
  if !s.hasWork then s
  else s.modColl (fun c => { c with outbox := c.outbox ++
    [{ cls := cls, step := h.step, slot := h.slot, posn := h.posn, stamp := addr.1, window := addr.2, base := base, cells := messageCells h body }] })

/-- The header that a part travels under. -/
def Part.header (p : Part) (kind src step slot posn : Nat) : MsgHeader :=
  { kind := kind, posn := posn, hops := p.hops, src := src, missing := p.missing, step := step, slot := slot, dryCause := p.dryCause,
    req := p.req, res := p.res }

/-- The list that a part sends: COUNT entries, none when dry. -/
def Part.sent (p : Part) : List ListEntry := p.list.take p.res.count

/-- Send a PARTIAL to the parent (R148). -/
def State.sendPartial (s : State) (c : CollConfig) (f : Shape) (step slot posn : Nat) (p : Part) : State :=
  (s.post 3 c.parentAddr (listBase f c.nb step slot posn 17) (p.header kPartial c.die step slot posn) (listCells p.sent)).modSel step slot posn
    (fun x => { x with sent := true })

/-- Write a message on to every spread target (R137, R153, R154). -/
def State.spreadOn (s : State) (c : CollConfig) (f : Shape) (h : MsgHeader) (posn : Nat) (body : List Nat) : State :=
  c.spread.foldl (fun s t => s.post 1 (t.2.1, t.2.2) (listBase f c.nb h.step h.slot posn 11) { h with src := c.die } body) s

/-- The part that a dry slot gives (R148): its cause, COUNT 0. -/
def dryPart (cause : Nat) (req : Handle) : Part := { dryCause := cause, req := req }

/-- A die's own part of a selection is ready (R148): it decides the selection where no rounds run, goes up at once from a
die of height 0, and otherwise waits for the children's. -/
def State.ownPart (s : State) (f : Shape) (step slot posn k : Nat) (p : Part) : State :=
  let s := s.modSel step slot posn (fun x => { x with k := k, own := some p })
  match s.roundsAt step with
  | none => s.modSel step slot posn (fun x => { x with merged := some p })
  | some c =>
    if c.children.isEmpty && c.parent != 0xFFFF then s.sendPartial c f step slot posn { p with src := c.die } else s

end Sys2Proof.Machine
end

