-- ==== Sys2Proof/Machine/RowDraw.lean ====
section
/-! DEFINITION. The draw over a row without a short list (R133): the top-k boundary, the cut and the draw walked by row
passes. `hist` answers a pass with its histogram, or with the pass itself where it has still to be asked for. -/

namespace Sys2Proof.Machine

/-- The entry a walk ends at (R133): its key and token ID. -/
def Walked.entry (to32 : Nat → Word) (base : Nat) (w : Walked) : ListEntry := ⟨to32 w.kn, BitVec.ofNat 24 (base + w.idx)⟩

/-- What a row walk draws: the draw, kθ, and which stages left entries out. -/
structure RowDrawn where
  res : DrawRes
  kminp : Word
  kcut : Bool
  mpcut : Bool
  pcut : Bool
deriving DecidableEq, Repr

/-- Draw, resolve and recheck over a row (R131, R133, R204, R205): `wn` and `nn` are the weights and the entries that
remain in the nucleus; an entry the walk rejects is left out of the later passes. A selection by row walks has no
settle. -/
def rowDrawLoop (find : Bool → List Nat → Nat → Except PassReq (Option Walked)) (to32 : Nat → Word) (base : Nat)
    (wt : Word → Nat) (u : Nat → Nat) (walk : TokenId → Option (Option GState)) :
    Nat → Nat → List Nat → Nat → Nat → DrawRes → Except PassReq DrawRes
  | n, a, excl, wn, nn, r =>
    if nn = 0 then .ok { r with chosen := none }
    else
      let t := if wn = 0 then 0 else (u a * wn) >>> 64
      match find (wn != 0) excl (if wn = 0 then 1 else t + 1) with
      | .error q => .error q
      | .ok none => .ok { r with chosen := none }
      | .ok (some x) =>
        let e := x.entry to32 base
        let w := wt e.key
        let r := { r with attempt := a, rechecks := a, wnuc := wn, target := t, nnuc := nn }
        match walk e.id with
        | some st => .ok { r with chosen := some (e, w, st) }
        | none =>
          let r := { r with rejected := r.rejected ++ [e.id] }
          match n with
          | 0 => .ok { r with chosen := none }
          | n + 1 => rowDrawLoop find to32 base wt u walk n (a + 1) (orderValue e.key e.id :: excl) (wn - w) (nn - 1) r

/-- The lower bound λ of R133: that of the k-th entry and that of min-p. -/
def rowBound (count : Nat → Except PassReq (Option Walked)) (to32 : Nat → Word) (base valid topk : Nat) (kth : Word) :
    Except PassReq Nat :=
  if topk = 0 ∨ valid < topk then .ok (kth.toNat * 2 ^ 24)
  else match count topk with
    | .error q => .error q
    | .ok none => .ok (kth.toNat * 2 ^ 24)
    | .ok (some x) =>
      let e := x.entry to32 base
      .ok (max (orderValue e.key e.id) (kth.toNat * 2 ^ 24))

/-- The nucleus of R128 over a row: W_nuc and its count of entries, from the first weighted pass and, with top-p, the
walk to T_p. -/
def rowNucleus (cut : Nat → Except PassReq (Option Walked)) (to32 : Nat → Word) (base topp : Nat) (wt : Word → Nat) (w n : Nat) :
    Except PassReq (Nat × Nat) :=
  if !toppOn topp then .ok (w, n)
  else match cut (cutTarget topp w) with
    | .error q => .error q
    | .ok none => .ok (w, n)
    | .ok (some x) => .ok (x.acc + wt (x.entry to32 base).key, x.cnt + 1)

/-- The whole draw of a row with TOPK of 0 or above 256 (R124 to R133). -/
def rowDraw (width base : Nat) (to32 : Nat → Word) (hist : PassReq → Except PassReq (List Bucket)) (valid : Nat) (lmax invT : Word)
    (topk minp topp : Nat) (u : Nat → Nat) (walk : TokenId → Option (Option GState)) (rechecks : Nat) : Except PassReq RowDrawn :=
  let km := kmOf lmax
  let kth := minpKey km invT minp
  let wt := fun k => weight k km invT
  let kcut := topk != 0 && decide (topk < valid)
  if valid = 0 then .ok ⟨{}, kth, false, false, false⟩
  else match rowBound (rowWalk width to32 hist ⟨false, 0, none, 0⟩ []) to32 base valid topk kth with
    | .error q => .error q
    | .ok lam =>
      let wk : WalkKind := ⟨true, lam, km, invT⟩
      match hist (walkReq wk [] (.key 1) 0 lam noBound) with
      | .error q => .error q
      | .ok h =>
        let w := histTotal true h
        let n := histTotal false h
        match rowNucleus (rowWalk width to32 hist wk []) to32 base topp wt w n with
        | .error q => .error q
        | .ok (wn, nn) =>
          let find := fun (weighted : Bool) excl x =>
            rowWalk width to32 hist (if weighted then wk else ⟨false, lam, none, 0⟩) excl x
          match rowDrawLoop find to32 base wt u walk rechecks 0 [] wn nn {} with
          | .error q => .error q
          | .ok r => .ok ⟨r, kth, kcut, decide (n < (if topk = 0 then valid else min topk valid)), decide (nn < n)⟩

/-! ### Draw records (R135) -/

/-- NANWIN set in a SELSTAT. -/
def withNanwin (w : Word) (nan : Bool) : Word := if nan then w ||| 4#32 else w

/-- Whether a chosen entry has the NaN key (R130). -/
def DrawRes.nan (r : DrawRes) : Bool := match r.chosen with | some c => c.1.key == nanKey | none => false

/-- The draw record of a draw. `anyValid` tells whether the row had a valid entry (R132). -/
def RowDrawn.record (d : RowDrawn) (stat : Word) (greedy anyValid : Bool) (rstep : Nat) (invT : Word) : DrawRecord :=
  let r := d.res
  let base : DrawRecord :=
    { selstat := withNanwin stat r.nan, token := match r.chosen with | some c => c.1.id | none => tokNone,
      greedy := greedy, empty := !anyValid, attempt := r.attempt, key := match r.chosen with | some c => c.1.key | none => 0 }
  if greedy then base
  else { base with kcut := d.kcut, mpcut := d.mpcut, pcut := d.pcut, weight := match r.chosen with | some c => c.2.1 | none => 0,
                   wnuc := r.wnuc, target := r.target, nnuc := r.nnuc, kminp := d.kminp, rstep := rstep, invT := invT }

/-- Looks that a slab-mode selection can need at most (R113, R133): the first, the passes of the count walk, of the cut
walk and of the draw walk, whose first pass is the cut walk's. -/
def looksNeeded (width topk topp valid : Nat) : Nat :=
  let p := (schedule width).length + 2
  1 + (if topk ≠ 0 ∧ topk ≤ valid then p else 0) + (if toppOn topp then p + (p - 1) else p)

end Sys2Proof.Machine
end

