-- ==== Sys2Proof/Machine/Root.lean ====
section
/-! DEFINITION. Walking a retained row over its row set (R143, R154, R155): what the root asks next, what each die runs,
and how histograms and found entries come back. -/

namespace Sys2Proof.Machine

/-! ### The root's walks, as a function of what it has learnt -/

/-- A bound above every order value that fits the field HI of a WALK (the largest key is 0xFFC0_0000). -/
def hiTop : Nat := 2 ^ 56 - 1

/-- A WALK before its digit and prefix are filled in. -/
def walkBase (weighted : Bool) (lo : Nat) (km : Option Word) (invT : Word) (excl : List Nat) : WalkMsg :=
  { wkind := b2n weighted, digit := 0, lo := lo, hi := hiTop, km := if weighted then km.getD 0 else 0, invT := if weighted then invT else 0,
    excl := excl }

/-- Whether a WALK counts weights. A resolve counts weights when it carries invT, which is never +0. -/
def WalkMsg.weighted (w : WalkMsg) : Bool := if w.wkind = 4 then w.invT != 0#32 else w.wkind % 2 == 1

/-- The key digits, 32-bit schedule (R154). -/
def shardKeys (hist : WalkMsg → Except WalkMsg (List Bucket)) (m : WalkMsg) (x : Nat) :
    List Nat → Nat → Nat → Nat × Nat → Except WalkMsg (Option (Nat × Nat × Nat))
  | [], _, pre, acc => .ok (some (pre, acc))
  | wd :: r, d, pre, acc => match hist { m with digit := d, prefixV := pre } with
    | .error q => .error q
    | .ok h => match scanTo x (scanOrder m.weighted true h) acc with
      | none => .ok none
      | some (b, acc') => shardKeys hist m x r (d + 1) (pre * 2 ^ wd + b) acc'

/-- One base round (R155). -/
def shardBaseRound (hist : WalkMsg → Except WalkMsg (List Bucket)) (m : WalkMsg) (x : Nat) (acc : Nat × Nat) :
    Except WalkMsg (Option (Nat × Nat × Nat)) :=
  match hist m with
  | .error q => .error q
  | .ok h => .ok (scanTo x (scanOrder m.weighted false h) acc)

/-- An entry that a walk over the row set found: its weight, and the sum and count of entries before it. -/
structure ShardHit where
  e : ListEntry
  w : Nat
  acc : Nat
  cnt : Nat
deriving DecidableEq, Repr

/-- A walk over the row set to X (R154, R155). -/
def shardWalk (hist : WalkMsg → Except WalkMsg (List Bucket)) (found : WalkMsg → Except WalkMsg (ListEntry × Nat × Nat))
    (own : Nat → Nat) (m : WalkMsg) (x : Nat) : Except WalkMsg (Option ShardHit) :=
  match shardKeys hist m x [11, 11, 10] 0 0 (0, 0) with
  | .error q => .error q
  | .ok none => .ok none
  | .ok (some (k, acc)) =>
    let m := { m with wkind := 2 + b2n m.weighted, lo := max m.lo (k * 2 ^ 24), hi := (k + 1) * 2 ^ 24 }
    match shardBaseRound hist { m with digit := 0, prefixV := 0 } x acc with
    | .error q => .error q
    | .ok none => .ok none
    | .ok (some (b1, acc1)) => match shardBaseRound hist { m with digit := 1, prefixV := b1 } x acc1 with
      | .error q => .error q
      | .ok none => .ok none
      | .ok (some (b2, acc2)) =>
        match found { m with wkind := 4, digit := 0, prefixV := 0, owner := own (b1 * 512 + b2), target := x - acc2.1 } with
        | .error q => .error q
        | .ok (e, a, w) => .ok (some ⟨e, w, acc2.1 + a, acc2.2 + a / max 1 w⟩)

/-- What the root's walks draw, with the figures of the draw record. -/
structure RootDrawn where
  hit : ShardHit
  wnuc : Nat
  target : Nat
  nnuc : Nat
  attempt : Nat
  kminp : Word
  kcut : Bool
  mpcut : Bool
  pcut : Bool
deriving DecidableEq, Repr

/-- The nucleus and the draw under a bound (R128, R130, R131). -/
def rootNucleus (find : WalkMsg → Nat → Except WalkMsg (Option ShardHit)) (r : RootWalk) (km : Option Word) (invT : Word) (lam topp : Nat)
    (u : Nat → Nat) (w n : Nat) (fin : RootDrawn → RootDrawn) : Except WalkMsg (Option RootDrawn) :=
  let wt := fun k => weight k km invT
  let nuc : Except WalkMsg (Nat × Nat) :=
    if !toppOn topp then .ok (w, n)
    else match find (walkBase true lam km invT []) (cutTarget topp w) with
      | .error q => .error q
      | .ok none => .ok (w, n)
      | .ok (some h) => .ok (h.acc + h.w, h.cnt + 1)
  match nuc with
  | .error q => .error q
  | .ok (wn0, nn0) =>
    let wn := wn0 - sumNat (r.removed.map (fun e => wt e.key))
    let nn := nn0 - r.removed.length
    let excl := r.removed.map (fun e => orderValue e.key e.id)
    let a := r.removed.length
    if nn = 0 then .ok none
    else
      let t := if wn = 0 then 0 else (u a * wn) >>> 64
      match find (walkBase (wn != 0) lam km invT excl) (if wn = 0 then 1 else t + 1) with
      | .error q => .error q
      | .ok none => .ok none
      | .ok (some h) => .ok (some (fin { hit := { h with w := wt h.e.key }, wnuc := wn, target := t, nnuc := nn, attempt := a, kminp := 0,
                                         kcut := false, mpcut := false, pcut := decide (nn0 < n) }))

/-- The draw of a retained selection over its row set (R133, R154, R155): the next WALK to make, or the entry chosen,
none for an empty end. -/
def rootDraw (r : RootWalk) (own : Nat → Nat) (invT : Word) (topk minp topp : Nat) (u : Nat → Nat) : Except WalkMsg (Option RootDrawn) :=
  let km := kmOf r.res.lmax
  let kth := minpKey km invT minp
  let hist := fun (m : WalkMsg) => match r.done.find? (fun p => p.1 == m) with
    | some p => (Except.ok p.2 : Except WalkMsg (List Bucket))
    | none => .error m
  let found := fun (m : WalkMsg) => match r.founds.find? (fun p => p.1 == m) with
    | some p => (Except.ok p.2 : Except WalkMsg (ListEntry × Nat × Nat))
    | none => .error m
  let find := shardWalk hist found own
  if r.res.valid = 0 then .ok none
  else
    let bound : Except WalkMsg Nat :=
      if topk = 0 ∨ r.res.valid < topk then .ok (kth.toNat * 2 ^ 24)
      else match find (walkBase false 0 none 0 []) topk with
        | .error q => .error q
        | .ok none => .ok (kth.toNat * 2 ^ 24)
        | .ok (some h) => .ok (max (orderValue h.e.key h.e.id) (kth.toNat * 2 ^ 24))
    match bound with
    | .error q => .error q
    | .ok lam => match hist (walkBase true lam km invT []) with
      | .error q => .error q
      | .ok h =>
        let n := histTotal false h
        rootNucleus find r km invT lam topp u (histTotal true h) n (fun d =>
          { d with kminp := kth, kcut := topk != 0 && decide (topk < r.res.valid),
                   mpcut := decide (n < (if topk = 0 then r.res.valid else min topk r.res.valid)) })

/-- The draw that the root's walks come to, as a draw record's figures. -/
def RootDrawn.drawn (d : RootDrawn) : RowDrawn :=
  ⟨{ chosen := some (d.hit.e, d.hit.w, none), attempt := d.attempt, wnuc := d.wnuc, target := d.target, nnuc := d.nnuc }, d.kminp, d.kcut,
    d.mpcut, d.pcut⟩

/-! ### What each die runs -/

/-- The histogram of a pass that a row has kept (R133), or the pass to ask for. -/
def Row.kept (r : Row) (q : PassReq) : Except PassReq (List Bucket) :=
  match r.passes.find? (fun p => p.1 == q) with | some p => .ok p.2 | none => .error q

/-- The row pass that a WALK asks of a die (R154, R155). -/
def WalkMsg.pass (w : WalkMsg) : PassReq :=
  let digit := if w.wkind ≤ 1 then Digit.key32 (w.digit + 1) else if w.digit = 0 then Digit.baseHi else Digit.baseLo
  ⟨digit, w.prefixV, w.lo, w.hi, w.weighted, if w.weighted then kmOf w.km else none, w.invT, w.excl⟩

/-- The owner's walk over its tied entries to the residual target: the entry, ACC and WEIGHT (R155). -/
def State.resolveTied (s : State) (r : Row) (w : WalkMsg) : Option (ListEntry × Nat × Nat) :=
  let km := if w.weighted then kmOf w.km else none
  let es := (s.rowEntries r).filter (fun x => x.kn != 0 && decide (w.lo ≤ orderValue x.k32 x.id) && decide (orderValue x.k32 x.id < w.hi)
    && !w.excl.contains (orderValue x.k32 x.id))
  let ws := es.map (fun x => if w.weighted then weight x.k32 km w.invT else 1)
  match walkTo w.target ws 0 0 with
  | none => none
  | some i => (es[i]?).map (fun x => (⟨x.k32, x.id⟩, sumNat (ws.take i), ws.getD i 0))

/-- The owner's walk on a row in slabs, whose index digits its looks count: the entry, or the pass of the next look (R113,
R155). -/
def resolveLooks (r : Row) (w : WalkMsg) : Except PassReq (Option (ListEntry × Nat × Nat)) :=
  let km := if w.weighted then kmOf w.km else none
  let wk : WalkKind := ⟨w.weighted, w.lo, km, w.invT⟩
  match walkIndex r.kept wk w.excl w.target .indexHi 0 w.lo w.hi (0, 0) with
  | .error q => .error q
  | .ok none => .ok none
  | .ok (some (b1, acc1)) => match walkIndex r.kept wk w.excl w.target .indexLo b1 w.lo w.hi acc1 with
    | .error q => .error q
    | .ok none => .ok none
    | .ok (some (b2, acc2)) =>
      let e : ListEntry := ⟨BitVec.ofNat 32 (w.lo / 2 ^ 24), BitVec.ofNat 24 (r.shape.shardBase + b1 * 512 + b2)⟩
      .ok (some (e, acc2.1, if w.weighted then weight e.key km w.invT else 1))

/-- The owner's walk of a resolve: the entry, or the pass that a row in slabs needs first. -/
def State.resolveRow (s : State) (r : Row) (w : WalkMsg) : Except PassReq (Option (ListEntry × Nat × Nat)) :=
  if r.slab.isSome then resolveLooks r w else .ok (s.resolveTied r w)

/-- Ask for a row pass that a row has neither made nor been asked for. -/
def State.askPass (s : State) (r : Row) (q : PassReq) : State :=
  if r.passes.any (fun p => p.1 == q) || r.asks.any (fun a => a.work == .pass q) then s else s.askWork r.slot r.posn (.pass q)

/-- The die sets out on a WALK: a pass is asked of its row, and one it has made already is taken from the WORK area. -/
def State.beginWalk (s : State) (x : Sel) (w : WalkMsg) (round : Nat) : State :=
  let early := round == x.round && x.walk.isNone
  let s := s.modSel x.step x.slot x.posn (fun y => { y with walk := some w, round := round, hist := none,
                                                            hists := if early then y.hists else [],
                                                            histHops := if early then y.histHops else 0 })
  if 4 ≤ w.wkind then s
  else match s.row x.slot x.posn with
    | none => s
    | some r => match r.passes.find? (fun p => p.1 == w.pass) with
      | some p => s.modSel x.step x.slot x.posn (fun y => { y with hist := some p.2, tG := s.clk.eng })
      | none => s.askPass r w.pass

/-- Whether a die's row in slabs cannot answer a WALK in this look (R113). -/
def State.lookNeeded (s : State) (x : Sel) (w : WalkMsg) : Bool :=
  match s.row x.slot x.posn with
  | none => false
  | some r => r.slab.isSome && decide (w.wkind < 4) && !r.passes.any (fun p => p.1 == w.pass)

/-- The sum of a die's histogram and its children's, once all have come (R154). -/
def Sel.histSum (x : Sel) (c : CollConfig) : Option (List Bucket) :=
  match x.hist with
  | none => none
  | some h => if c.children.all (fun k => (tget k.1 x.hists).isSome) then some (x.hists.foldl (fun a p => addHist a p.2) h) else none

/-- The handle that a selection's part carries. -/
def Sel.reqOf (x : Sel) : Handle := match x.own with | some p => p.req | none => 0

/-! ### Merged results at the home (R152) -/

/-- The cause a merged result gives its home: the merged cause, or PEER_DRY when it came from another die (R152). A planned
dry step of a row in slabs is VAT_FULL on every die that takes it in slabs (R113). -/
def Sel.homeCause (x : Sel) (p : Part) : Nat :=
  let own := match x.own with | some q => q.dryCause | none => 0
  let slab := match x.own with | some q => statBit q.res.selstat 7 | none => false
  if p.dryCause == 0 || own != 0 || (slab && p.dryCause == dryVatFull) then p.dryCause else dryPeerDry

/-- Rejections of a row in slabs count on over its looks (R113, R204). -/
def State.carryTries (s : State) (x : Sel) (p : Part) : Sel :=
  match s.coll.sels.find? (fun y => y.slot == x.slot && y.posn == x.posn && decide (y.step < x.step) && y.reqOf == x.reqOf && y.tries != 0) with
  | some y => if x.tries = 0 ∧ statBit p.res.selstat 7 then { x with tries := y.tries, last := y.last } else x
  | none => x

/-- The home takes a merged result (R152); a block of a longer list stands beside it (R156). -/
def State.takeMerged (s : State) (step slot posn : Nat) (block : Bool) (p : Part) : State :=
  match s.sel step slot posn with
  | none => s.modSel step slot posn (fun x => { x with merged := some p })
  | some x =>
    let p := { p with dryCause := x.homeCause p }
    let s := if p.dryCause ≠ 0 ∧ step = s.shell.step then s.engDry slot p.dryCause else s
    if block ∧ p.dryCause = 0 then s.modSel step slot posn (fun x => { x with block := some p })
    else
      let y := s.carryTries x p
      s.modSel step slot posn (fun x => { x with merged := some p, tries := y.tries, last := y.last })

/-- The root gives the merged result to the slot's home (R152): inside the block when it is the home. ROUND is that of the
last pass round, 0 for a gather and for a block round. -/
def State.giveMerged (s : State) (c : CollConfig) (f : Shape) (step slot posn round : Nat) (block : Bool) (p : Part) : State :=
  if (s.reqOfSlot slot).isSome ∨ s.homed slot then s.takeMerged step slot posn block p
  else match (tget slot s.coll.homeOf).bind (fun d => c.homes.find? (fun h => h.1 == d)) with
    | some h => s.post 2 h.2 (listBase f c.nb step slot posn 17) { p.header kMerged c.die step slot posn with round := round } (listCells p.sent)
    | none => s

/-- A pass round that ends here without its histogram, by a timer or by a row in slabs: the dry mark goes up with the sum so
far, and the root ends the selection dry (R113, R159). What the root has learnt of a row in slabs is kept for the next
look. -/
def State.dryRound (s : State) (c : CollConfig) (f : Shape) (x : Sel) (cause missing : Nat) : State :=
  let s := s.modSel x.step x.slot x.posn (fun y =>
    { y with walk := none, hist := none, hists := [], histHops := 0, root := none, waits := false, endRound := some x.round,
             saved := match y.root with | some r => if statBit r.res.selstat 7 then some r else none | none => y.saved })
  if c.parent = 0xFFFF then s.giveMerged c f x.step x.slot x.posn x.round false { dryCause := cause, missing := missing, req := x.reqOf }
  else
    let h : MsgHeader := { kind := kHist, posn := x.posn, hops := x.histHops, src := c.die, missing := missing, step := x.step, slot := x.slot,
                           round := x.round, dryCause := cause, req := x.reqOf }
    s.post 4 c.parentAddr (passBase f c.nb c.np x.slot) h (histCells (x.hists.foldl (fun a p => addHist a p.2) (x.hist.getD [])))

/-- A planned dry step counted for a slot's request (R113). -/
def State.countLook (s : State) (slot : Nat) : State :=
  match s.reqOfSlot slot with
  | some q => s.modReq q.handle (fun q => { q with tele := { q.tele with slabLooks := q.tele.slabLooks + 1 } })
  | none => s

/-- A row in slabs that needs another look for a pass round: the step is dry with VAT_FULL by plan, with no pulse (R113). -/
def State.lookDry (s : State) (c : CollConfig) (f : Shape) (x : Sel) : State :=
  let s := s.countLook x.slot
  let s := if x.step = s.shell.step then s.engDry x.slot dryVatFull else s
  s.dryRound c f ((s.sel x.step x.slot x.posn).getD x) dryVatFull 0xFFFF

/-! ### The root -/

/-- RSTEP of the request in a slot (R129): its own count at the home, elsewhere the count of its decisions. -/
def State.rstepOf (s : State) (slot : Nat) : Nat :=
  match s.reqOfSlot slot with | some r => r.rstep | none => (tget slot s.coll.rsteps).getD 0

/-- The uniform the root draws with (R129). -/
def State.rootUniform (s : State) (slot attempt : Nat) : Nat := uniform (s.samplingOf slot).seed 0 attempt (s.rstepOf slot)

/-- What the root's walks of a selection come to. Where two dies share a base, the lower of them resolves (R155). -/
def State.rootResult (s : State) (f : Shape) (c : CollConfig) (x : Sel) (r : RootWalk) : Except WalkMsg (Option RootDrawn) :=
  let sp := s.samplingOf x.slot
  let own := fun b => if b = f.shardBase ∧ Config.baseShared x.step x.slot = false then c.die else Config.shardOwner b
  rootDraw r own (invTOf (s.progOf x.slot) sp.param) sp.topk sp.minp sp.topp (s.rootUniform x.slot)

/-- The part that the root's walks give the home: the one entry chosen (R155), or none. -/
def rootPart (r : RootWalk) (req : Handle) (d : Option RootDrawn) : Part :=
  match d with
  | some d => { list := [d.hit.e], res := { r.res with count := 1, tau := d.hit.e.key, ties := 1, above := 0 }, req := req }
  | none => { res := r.res, req := req }

/-- What the root has learnt, with CONFLICT where a base bucket that it resolved held entries of two dies (R155). -/
def RootWalk.marked (r : RootWalk) (step slot : Nat) : RootWalk :=
  if !r.founds.isEmpty && Config.baseShared step slot then { r with res := { r.res with selstat := r.res.selstat ||| 0x20#32 } } else r

/-- The root forms the draw record from its walks (R155). -/
def State.rootRecord (s : State) (slot : Nat) (r : RootWalk) (d : Option RootDrawn) : State :=
  match d with
  | none => s
  | some d =>
    let invT := invTOf (s.progOf slot) (s.samplingOf slot).param
    let rec_ := d.drawn.record r.res.selstat false (r.res.valid != 0) (s.rstepOf slot) invT
    s.modColl (fun c => { c with records := tput slot rec_.toBits c.records })

/-- Order of two selections by (STEP, SLOT), then POSN. -/
def Sel.before (y x : Sel) : Bool :=
  decide (y.step < x.step) || (y.step == x.step && (decide (y.slot < x.slot) || (y.slot == x.slot && decide (y.posn < x.posn))))

/-- A retained selection waits for its pass buffer while another holds it, or while one that comes before it wants it
(R143). -/
def State.passHeld (s : State) (c : CollConfig) (x : Sel) : Bool :=
  s.coll.sels.any (fun y => y.root.isSome && y.slot % c.np == x.slot % c.np && !(y.step == x.step && y.slot == x.slot && y.posn == x.posn)
    && (y.round != 0 || y.before x))

/-- What a die's own resolve gives the root. -/
def State.rootFound (s : State) (x : Sel) (r : RootWalk) (w : WalkMsg) (fnd : ListEntry × Nat × Nat) : State :=
  s.modSel x.step x.slot x.posn (fun y => { y with walk := none, root := some { r with founds := r.founds ++ [(w, fnd.1, fnd.2.1, fnd.2.2)] } })

/-- The root goes on with a selection: sums that are complete are kept, the next WALK is spread and run on its own row, and
the chosen entry goes home. The count bounds the passes that its own row can answer at once. -/
def State.rootGo (c : CollConfig) (f : Shape) (step slot posn : Nat) : Nat → State → State
  | 0, s => s
  | n + 1, s => match s.sel step slot posn with
    | none => s
    | some x => match x.root, x.walk with
      | none, _ => s
      | some r, some w => match x.histSum c with
        | some h =>
          State.rootGo c f step slot posn n (s.modSel step slot posn (fun y =>
            { y with walk := none, hist := none, hists := [], histHops := 0, root := some { r with done := r.done ++ [(w, h)] } }))
        | none => s
      | some r, none => match s.rootResult f c x r with
        | .ok d => (s.rootRecord slot (r.marked step slot) d).giveMerged c f step slot posn x.round false (rootPart (r.marked step slot) x.reqOf d)
        | .error w =>
          if s.passHeld c x then s.modSel step slot posn (fun y => { y with waits := true })
          else
            let round := x.round + 1
            let s := s.spreadOn c f { kind := kWalk, posn := posn, step := step, slot := slot, round := round, req := x.reqOf } posn [w.cell]
            let s := s.beginWalk x w round
            if w.wkind = 4 ∧ w.owner = c.die then
              match s.row slot posn with
              | none => s
              | some q => match s.resolveRow q w with
                | .ok (some fnd) => State.rootGo c f step slot posn n (s.rootFound x r w fnd)
                | .ok none => s
                | .error p => (s.askPass q p).lookDry c f x
            else if s.lookNeeded x w then s.lookDry c f x
            else State.rootGo c f step slot posn n s

/-- A die that is not the root sends its sum up once it is complete (R154). -/
def State.sendHist (s : State) (c : CollConfig) (f : Shape) (x : Sel) : State :=
  match x.histSum c with
  | none => s
  | some h =>
    let hd : MsgHeader := { kind := kHist, posn := x.posn, hops := x.histHops, src := c.die, step := x.step, slot := x.slot, round := x.round, req := x.reqOf }
    (s.post 4 c.parentAddr (passBase f c.nb c.np x.slot) hd (histCells h)).modSel x.step x.slot x.posn
      (fun y => { y with walk := none, hist := none, hists := [], histHops := 0 })

/-- A histogram of a pass round has come, from the die's own row or from a child: the sum is kept or sent on. -/
def State.histStep (s : State) (c : CollConfig) (f : Shape) (step slot posn : Nat) : State :=
  match s.sel step slot posn with
  | none => s
  | some x => if c.parent = 0xFFFF then s.rootGo c f step slot posn 64 else if x.walk.isSome then s.sendHist c f x else s

/-- The home's recheck rejected the entry that the walks chose: the root leaves it out and draws again (R155). -/
def State.rejectAt (s : State) (c : CollConfig) (f : Shape) (step slot posn : Nat) (e : ListEntry) : State :=
  (s.modSel step slot posn (fun y => { y with root := y.root.map (fun r => { r with removed := r.removed ++ [e] }) })).rootGo c f step slot posn 64

end Sys2Proof.Machine
end

