-- ==== Sys2Proof/Machine/Strain.lean ====
section
/-! DEFINITION. The strainers' commands: FLOOR_UPDATE, LIST_SELECTION_DONE, EXTEND_BLOCK, EXTEND_BLOCK_DONE, ROW_PASS and
ROW_PASS_DONE (05_radix_selection.md). -/

namespace Sys2Proof.Machine

/-! ### Survivors (R92, R93) -/

/-- Entries of a tile that its count of written rows has passed (R48, R87). -/
def Tile.ready (format : Nat) (t : Tile) : Nat :=
  if t.landed then t.chunkLen
  else if blockScaled format then 0
  else min t.chunkLen (t.written * 128 / (t.kept.length * elemBytes format))

/-- The entries that member m of a team of n takes: transposed blocks j with j mod n = m (R88), of those that are
written. -/
def State.memberEntries (s : State) (r : Row) (m : Nat) : List RowEntry :=
  let n := r.team.length
  let ts := s.rowTiles r
  let ready := fun (e : RowEntry) => ts.any (fun t => decide (t.chunkFirst ≤ e.idx)
    && decide (e.idx < t.chunkFirst + t.ready r.shape.format) && ((e.idx - t.chunkFirst) / 32) % n == m)
  (s.rowEntries r).filter ready

/-- Pass-1 bucket of an entry. -/
def firstBucket (width : Nat) (e : RowEntry) : Nat :=
  match schedule width with | (sh, _) :: _ => e.kn >>> sh | [] => 0

/-- Whether an entry survives a floor (R92). -/
def survives (width : Nat) (floor : Option Nat) (e : RowEntry) : Bool :=
  e.kn != 0 && match floor with | none => true | some f => decide (f ≤ firstBucket width e)

/-- A histogram buffer with one entry more in a bucket: filled buckets ascending (R86, R89). -/
def countBucket (b : Nat) : List (Nat × Nat) → List (Nat × Nat)
  | [] => [(b, 1)]
  | (k, n) :: r => if b < k then (b, 1) :: (k, n) :: r else if b = k then (k, n + 1) :: r else (k, n) :: countBucket b r

/-- Buckets from the highest down until k entries are counted. -/
def floorGo (k : Nat) : List (Nat × Nat) → Nat → Option Nat
  | [], _ => none
  | (b, n) :: r, acc => if k ≤ acc + n then some b else floorGo k r (acc + n)

/-- The floor of R92: the highest bucket f such that the counts of buckets f and above sum to at least k. -/
def floorOf (k : Nat) (h : List (Nat × Nat)) : Option Nat := floorGo k h.reverse 0

/-- Rows in progress on a strainer (R86). -/
def State.rowsOn (s : State) (i : Nat) : Nat := (s.str.rows.filter (fun r => r.begun && r.team.contains i)).length

/-- A row's share of a strainer's survivor buffer (R93). -/
def State.share (s : State) (i : Nat) : Nat := if 2 ≤ s.rowsOn i then 2048 else 4096

/-- A member's entries counted up to n: those since its last update are tested against its floor, and the survivors are
stored (R92). -/
def State.countMember (s : State) (r : Row) (width m n : Nat) (x : Member) : Member :=
  let new := (((s.memberEntries r m).take n).drop x.counted).filter (fun e => e.kn != 0)
  let hist := new.foldl (fun h e => countBucket (firstBucket width e) h) x.hist
  { x with counted := n, hist := hist, floor := floorOf r.k hist,
           survivors := x.survivors ++ (new.filter (survives width x.floor)).map (fun e => (e.kn, e.idx)) }

/-- Whether a member's survivors exceed its share (R93). -/
def State.overflows (s : State) (x : Member) : Bool := decide (s.share x.strainer < x.survivors.length)

/-- FLOOR_UPDATE: a member recomputes its floor at the end of a 64th ENG cycle, having counted `counted` entries. -/
def execFloorUpdate (t : Time) (slot : BitVec 12) (posn : Nat) (strainer : BitVec 4) (counted : Nat) (s : State) : Result1 :=
  let s := s.at t
  .next (match s.row slot.toNat posn with
    | none => s
    | some r => match r.team.idxOf? strainer.toNat, r.members.find? (fun x => x.strainer == strainer.toNat) with
      | some m, some x =>
        if r.stage ≠ .landing ∨ !r.begun ∨ retainedK r.k ∨ r.slab.isSome ∨ counted < x.counted ∨ (s.memberEntries r m).length < counted then s
        else
          let y := s.countMember r (s.rowEnv r).width m counted x
          let more := s.overflows y
          let y := { y with survivors := y.survivors.take (s.share strainer.toNat) }
          s.modRow slot.toNat posn (fun r => { r with members := lmodIf (fun z => z.strainer == x.strainer) (fun _ => y) r.members,
                                                      sovf := r.sovf || more })
      | _, _ => s)

/-- The members of a row at the end of its first pass. -/
def State.countedMembers (s : State) (r : Row) (width : Nat) : List Member :=
  r.members.zipIdx.map (fun p => s.countMember r width p.2 (s.memberEntries r p.2).length p.1)

/-- What the later passes and the collect read (R93, R94): the survivors, or the raw row under SOVF; and SOVF. -/
def State.laterReads (s : State) (r : Row) (width : Nat) (es : List RowEntry) : List RowEntry × Bool :=
  let ms := s.countedMembers r width
  let sovf := r.sovf || ms.any s.overflows
  (if sovf then es else es.filter (fun e => ms.any (fun x => x.survivors.contains (e.kn, e.idx))), sovf)

/-! ### Ends of a row's selection -/

/-- A row ends: it leaves its strainers, its raw rows are freed, its keys are released once no row uses them, and its buffers
go to the work that waits. -/
def State.endRow (s : State) (r : Row) : State :=
  let s := (s.dropRow r.slot r.posn).freeTiles
  (if s.keysUsed r.slot r.step then s else s.releasePins r.slot r.step).startWork

/-- The part that a die gives of a row: dry when the slot is dry on this die (R148). -/
def State.partOf (s : State) (r : Row) (list : List ListEntry) (res : Result) : Part :=
  match (if r.step = s.shell.step then s.dryOf r.slot else none) with
  | some c => { dryPart c r.req with res := { block := res.block } }
  | none => { list := list, res := res, req := r.req }

/-- A list and its record leave the strainers (R97, R99): a list stands in the candidate register of every member of the
team, since the manual does not say whose register orders a team's list (DESIGN CHOICE, notes/assumptions/143.md). -/
def State.putOut (s : State) (r : Row) (list : List ListEntry) (res : Result) : State :=
  s.modStr (fun u => { u with record := res.toBits,
                              cand := if list.isEmpty then u.cand else r.team.foldl (fun l i => lmod i (fun _ => list.take res.count) l) u.cand })

/-- Deliver a row's list and record (R97, R99). -/
def State.deliver (s : State) (r : Row) (k : Nat) (list : List ListEntry) (res : Result) : State :=
  let s := s.putOut r list res
  s.ownPart r.shape r.step r.slot r.posn k (s.partOf r list res)

/-- The die's part of a row that has run dry: in a block round of that block, and in a pass round as the dry mark of the
round (R148, R156, R159). -/
def State.dryOwn (s : State) (r : Row) (cause : Nat) : State :=
  let x := s.sel r.step r.slot r.posn
  let p := dryPart cause r.req
  match s.roundsAt r.step, x with
  | some c, some x =>
    if x.walk.isSome then (s.modSel r.step r.slot r.posn (fun x => { x with own := some p })).dryRound c r.shape x cause 0xFFFF
    else s.ownPart r.shape r.step r.slot r.posn r.k { p with res := { block := x.blk.getD 0 } }
  | _, _ => s.ownPart r.shape r.step r.slot r.posn r.k p

/-- A row whose slot runs dry: the row ends and its part carries the cause. -/
def State.failRow (s : State) (r : Row) (cause : Nat) : State :=
  let s := if r.step = s.shell.step then s.engDry r.slot cause else s
  (s.endRow r).dryOwn r cause

/-- Log NO_WORK_AREA once for a request (R412). -/
def State.noWork (s : State) (h : Handle) : State :=
  match s.findReq h with
  | some q => if q.noWork then s else (s.modReq h (fun q => { q with noWork := true })).logErr errNoWorkArea none h.toNat s.shell.step 0
  | none => s

/-! ### What the reads of a row's work find (R46, R62, R63, R115, R197, R409) -/

/-- What a fault logs and marks, beyond running the slot dry with ROW_ECC. -/
def State.rowFault (s : State) (slot : Nat) (x : RowFault) : State :=
  match x with
  | .rowCe p => s.rowCorrected p.toNat
  | .rowUe p => s.rowPoisoned p.toNat false
  | .tagParity p => s.rowPoisoned p.toNat true
  | .strainerUe i part => s.logErr errStrainerUe (some slot) i.toNat part s.shell.step
  | .storeUe st i => s.logErr errDrawStoreUe (some slot) st i 0
  | .maskCe _ _ => s.modRen (fun n => { n with corrected := n.corrected + 1 })
  | .maskUe c i =>
    let lose := fun (l : List CacheItem) => l.eraseIdx i
    (s.modRen (fun n => if c = 0 then { n with states := lose n.states } else { n with chunks := lose n.chunks })).logErr
      errRennetCacheUe (some slot) c i 0

/-- Everything that the reads of a slot's work find. -/
def State.rowFaults (s : State) (slot : Nat) (l : List RowFault) : State := l.foldl (fun s x => s.rowFault slot x) s

/-- Whether a slot cannot go on after a fault: all but those that were corrected. -/
def RowFault.fatal : RowFault → Bool
  | .rowCe _ => false
  | .maskCe _ _ => false
  | _ => true

/-- The reads of a row's stored tiles, and whether they run its slot dry with ROW_ECC. R46 refuses and logs a read beyond the
capacity of the plan in force; what its reader then does is not said: it takes the row as one that read with POISON
(DESIGN CHOICE, notes/assumptions/144.md). -/
def State.rowReads (s : State) (r : Row) (found : List RowFault) : State × Bool :=
  let ts := s.rowTiles r
  let out := ts.filter (fun t => !s.tileInArea t)
  let dead := ts.any (fun t => !s.tileUp t)
  let s := s.rowFaults r.slot found
  (match out with | t :: _ => s.logRange t.area t.firstRow | [] => s, found.any RowFault.fatal || !out.isEmpty || dead)

/-! ### Slab looks (R111 to R114) -/

/-- A running list with its figures, taken on by one slab's list (R112). -/
def mergeSlab (k : Nat) (list : List ListEntry) (acc : Result) (new : List ListEntry × Result) : List ListEntry × Result :=
  let p := mergeParts [{ list := list, res := acc }, { list := new.1, res := new.2 }] k new.2.block
  (p.list, p.res)

/-- The extend block, and the row pass, that a row in slabs makes in this look: the first piece of work asked for
(R113). -/
def Row.lookBlock (r : Row) : Option Nat := match r.asks with | a :: _ => (match a.work with | .block n => some n | .pass _ => none) | [] => none
def Row.lookPass (r : Row) : Option PassReq := match r.asks with | a :: _ => (match a.work with | .pass q => some q | .block _ => none) | [] => none

/-- One landed slab taken into a row's look: block 0 and the figures in every look, and the extend block or the row pass
that the look is for. -/
def State.takeSlab (s : State) (r : Row) (b : SlabState) (t : Tile) : SlabState :=
  let e := s.rowEnv r
  let es := s.entriesIn r [t]
  let k := if retainedK r.k then 256 else r.k
  let (list, acc) := mergeSlab k b.list b.acc (selectList e.width k es (rowFigures es) false 0)
  let blk := match r.lookBlock with
    | none => (b.blkList, b.blkAcc)
    | some n =>
      let rest := match r.cursor with | some c => belowCursor c es | none => es
      mergeSlab (blockLen r.k n) b.blkList b.blkAcc (selectList e.width (blockLen r.k n) rest (rowFigures es) false n)
  let hist := match r.lookPass with | none => b.hist | some q => addHist b.hist (rowPassHist e.width e.base es q)
  { b with upTo := t.chunkFirst + t.chunkLen, list := list, acc := acc, blkList := blk.1, blkAcc := blk.2, hist := hist }

/-- The figures that looks are compared by (R114). -/
def Result.figures (r : Result) : Nat × Nat × Word × Nat := (r.valid, r.nancnt, r.lmax, r.sig)

/-- Which figures of two looks differ (Table 17-2). -/
def figureMask (a b : Nat × Nat × Word × Nat) : Nat :=
  b2n (a.1 != b.1) + 2 * b2n (a.2.1 != b.2.1) + 4 * b2n (a.2.2.1 != b.2.2.1) + 8 * b2n (a.2.2.2 != b.2.2.2)

/-- SLAB set in a record (R111). -/
def Result.slabbed (r : Result) : Result := { r with selstat := r.selstat ||| 0x80 }

/-- The padding of a SHORT list (R96). -/
def padList (k : Nat) (l : List ListEntry) : List ListEntry := l ++ List.replicate (k - l.length) padEntry

/-- How a slot's chosen token is walked on its home (R203), after some drafts: the state after it, or a rejection. A slot
without a grammar takes any token. -/
def State.resolve (s : State) (slot : Nat) (drafts : List TokenId) (t : TokenId) : Option (Option GState) :=
  match s.rowGram slot drafts with
  | .at g st extra =>
    let v := match s.reqOfSlot slot with | some r => s.reqVocab r | none => s.gramVocab g
    match walkToken g (strOf v) extra st t with | .ok st' => some (some st') | _ => none
  | _ => some none

/-- The uniform of a slot's request (R129). -/
def State.uniformOf (s : State) (slot draw attempt : Nat) : Nat :=
  uniform (s.samplingOf slot).seed draw attempt (match s.reqOfSlot slot with | some r => r.rstep | none => 0)

/-- The draw over an unsharded retained row, or the next row pass that it needs: the draw's own walk decides it (R133). -/
def State.walkRow (s : State) (r : Row) (res : Result) : Except PassReq RowDrawn :=
  let e := s.rowEnv r
  let sp := s.samplingOf r.slot
  rowDraw e.width e.base e.to32 r.kept res.valid res.lmax (invTOf e.prog sp.param) sp.topk sp.minp sp.topp (s.uniformOf r.slot 0)
    (s.resolve r.slot r.drafts) (s.recheckMax r.step)

/-- SLAB_ENTERED, when the request's row first enters slab looks (R113). -/
def State.enterLooks (s : State) (r : Row) : State :=
  let sp := s.samplingOf r.slot
  s.logErr errSlabEntered (some r.slot) r.req.toNat (looksNeeded (s.rowEnv r).width sp.topk sp.topp r.res.valid) s.shell.step

/-- A look of a retained row that is not its last: the step is dry with VAT_FULL by plan, with no pulse (R113). -/
def State.plannedDry (s : State) (r : Row) : State :=
  ((s.countLook r.slot).engDry r.slot dryVatFull).ownPart r.shape r.step r.slot r.posn r.k (dryPart dryVatFull r.req)

/-- The row as its look leaves it: the look's own work is kept, all earlier work is discarded where its figures differ from
look 1's (R113, R114). -/
def Row.afterLook (r : Row) (b : SlabState) (restart : Bool) : Row :=
  let figs := b.acc.figures
  let top := b.list.take b.acc.count
  let blk := b.blkList.take b.blkAcc.count
  let r := { r with stage := .retained, begun := false,
                    slab := some { b with look := if restart then 1 else b.look, figures := some figs, list := [], acc := {}, blkList := [],
                                          blkAcc := {}, hist := [], logged := true } }
  if restart then
    { r with passes := [], asks := [], made := some 0, list := padList 256 b.list, cursor := top.getLast?, res := (retainedRecord figs).slabbed }
  else
    let r := match r.lookPass with | some q => { r with passes := r.passes ++ [(q, b.hist)] } | none => r
    let r := match r.lookBlock with
      | some n => { r with made := some n, list := padList (blockLen r.k n) b.blkList, cursor := (match blk.getLast? with | some c => some c | none => r.cursor),
                           res := { r.res with block := n } }
      | none => r
    { r with asks := r.asks.tail }

/-- The end of a look of a retained row (R113, R114). A sharded row gives its figures in every look, and the root's walks
decide whether the step is dry (R154); any other asks for the next pass of its draw, and delivers its record once it needs
none. -/
def State.endLook (s : State) (r : Row) (b : SlabState) : State :=
  let bad := match b.figures with | some x => figureMask x b.acc.figures | none => 0
  let s := if bad ≠ 0 then s.logErr errLookMismatch (some r.slot) r.req.toNat bad b.look else s
  let row := r.afterLook b (b.figures.isNone || bad != 0)
  let s := s.modRow r.slot r.posn (fun _ => row)
  if (s.roundsAt r.step).isSome then
    ((if b.logged then s else s.enterLooks row).startWork).deliver row r.k [] ((retainedRecord b.acc.figures).slabbed)
  else
    let s := match s.walkRow row row.res with | .error q => s.askPass row q | .ok _ => s
    if (match s.row r.slot r.posn with | some q => !q.asks.isEmpty | none => false) then
      (if b.logged then s else s.enterLooks row).startWork.plannedDry row
    else s.startWork.deliver row r.k [] row.res

/-- A row whose slabs are all merged, once its group has landed (R19). -/
def State.endSlabs (s : State) (r : Row) (b : SlabState) : State :=
  if retainedK r.k then s.endLook r b else (s.endRow r).deliver r r.k (padList r.k b.list) b.acc.slabbed

/-- Whether a row's group has landed (R19); that of an earlier step has. -/
def State.groupIn (s : State) (r : Row) : Bool := r.step != s.shell.step || s.groupLanded r.shape r.group

/-- One slab of a row taken, and the look ended with the last (R111). -/
def State.slabStep (s : State) (r : Row) (b : SlabState) (t : Tile) : State :=
  let b := s.takeSlab r b t
  let s := (s.modRow r.slot r.posn (fun r => { r with slab := some b })).freeTiles
  if b.upTo < r.shape.shardLen ∨ !s.groupIn r then s else s.endSlabs { r with slab := some b } b

/-! ### The first pass and the list (R91 to R103) -/

/-- A row taken whole: a retained row delivers its first-pass figures and stays (R103); any other its list. -/
def State.wholeRow (s : State) (r : Row) : State :=
  let e := s.rowEnv r
  let es := s.rowEntries r
  let figs := rowFigures es
  if retainedK r.k then
    let res := retainedRecord figs
    ((s.modRow r.slot r.posn (fun r => { r with stage := .retained, begun := false, res := res })).startWork).deliver r r.k [] res
  else
    let (later, sovf) := s.laterReads r e.width es
    let (list, res) := selectList e.width r.k later figs sovf 0
    (s.endRow r).deliver r r.k list { res with valid := figs.1 }

/-- A row that may be taken now. -/
def State.selectRow (s : State) (r : Row) (found : List RowFault) : State :=
  let ts := s.rowTiles r
  let (s, bad) := s.rowReads r found
  if bad then s.failRow r dryRowEcc
  else if s.partnerLost r then s.failRow r dryTileError
  else if retainedK r.k && !s.hasWork then (s.noWork r.req).failRow r dryVatFull
  else match r.slab with
    | none => s.wholeRow r
    | some b => match ts.find? (fun t => t.landed && t.chunkFirst == b.upTo) with
      | some t => s.slabStep r b t
      | none => s.endSlabs r b

/-- Whether a row's work can run now (R19): its first pass has begun, and it has landed with its whole group; or a slab of
it has landed. -/
def State.rowDue (s : State) (r : Row) : Bool :=
  r.begun && match r.slab with
    | some b => if b.upTo < r.shape.shardLen then (s.rowTiles r).any (fun t => t.landed && t.chunkFirst == b.upTo) else s.groupIn r
    | none => r.stage == .landing && s.rowLanded r && s.groupIn r

/-- LIST_SELECTION_DONE. A row whose masks are not ready waits (R199). -/
def execListSelectionDone (t : Time) (slot : BitVec 12) (posn : Nat) (found : List RowFault) (s : State) : Result1 :=
  let s := s.at t
  .next (match s.row slot.toNat posn with
    | none => s
    | some r =>
      if !s.rowDue r then s
      else if (s.reqOfSlot r.slot).isNone && !s.masksReady r.slot r.drafts r.shape.shardBase r.shape.shardLen then s
      else
        let k := s.rowK r.slot r.drafts
        let s := s.modRow slot.toNat posn (fun r => { r with k := k })
        s.selectRow { r with k := k } found)

/-! ### Extend blocks and row passes (R104 to R108) -/

/-- A retained row that work may be asked of. -/
def State.retained (s : State) (slot posn : Nat) : Option Row :=
  match s.row slot posn with | some r => if r.stage = .retained then some r else none | none => none

/-- The number of the block after the last one made or asked for (R105). -/
def Row.nextBlock (r : Row) : Nat :=
  match (r.asks.filterMap (fun a => match a.work with | .block n => some n | .pass _ => none)).getLast? with
  | some n => n + 1
  | none => match r.made with | some n => n + 1 | none => 0

/-- A row in slabs in a block round: a block that its last look made is its part, any other is for its next look, and the
step is dry by plan (R113, R156). -/
def State.slabBlock (s : State) (r : Row) (n : Nat) : State :=
  if r.made == some n ∧ n ≠ 0 then s.ownPart r.shape r.step r.slot r.posn r.k (s.partOf r r.list r.res.slabbed)
  else
    let s := if r.asks.any (fun a => a.work == .block n) then s else s.askWork r.slot r.posn (.block n)
    ((s.countLook r.slot).engDry r.slot dryVatFull).ownPart r.shape r.step r.slot r.posn r.k { dryPart dryVatFull r.req with res := { block := n } }

/-- A block round begins on a die (R156): its own part and its children's are those of that block, which rank below the
cursor. R158 gives its timers no beginning: they run from here (DESIGN CHOICE, notes/assumptions/145.md). -/
def State.beginBlock (s : State) (step slot posn n : Nat) (cursor : Option ListEntry) : State :=
  let now := s.clk.eng
  let s := s.modSel step slot posn (fun x =>
    { x with blk := some n, own := none, sent := false, late := false, parts := x.early.filter (fun p => p.res.block == n), early := [], tG := now })
  match s.row slot posn with
  | none => s
  | some r =>
    if r.slab.isSome then s.slabBlock r n else (s.modRow slot posn (fun r => { r with cursor := cursor })).startWork

/-- The root asks every die for the next block that is wanted, once the one before it is merged (R156): the cursor is an
exclusive upper bound, above every order value for the first block. -/
def State.blockRound (s : State) (c : CollConfig) (slot posn : Nat) : State :=
  match s.row slot posn with
  | none => s
  | some r => match s.sel r.step slot posn with
    | none => s
    | some x =>
      let n := match x.blk with | some b => b + 1 | none => 0
      if !x.sent || !r.asks.any (fun a => a.work == .block n) then s
      else
        let hi := match x.cursor with | some e => orderValue e.key e.id | none => hiTop
        let h : MsgHeader := { kind := kWalk, posn := posn, step := r.step, slot := slot, req := r.req, res := { block := n } }
        (s.spreadOn c r.shape h posn [{ wkind := 5, digit := 0, hi := hi : WalkMsg }.cell]).beginBlock r.step slot posn n x.cursor

/-- EXTEND_BLOCK: a consumer asks for the next block; blocks are made in order (R105). Of a sharded row the consumer is the
collective engine, whose root asks every die (R156). -/
def execExtendBlock (t : Time) (slot : BitVec 12) (posn : Nat) (s : State) : Result1 :=
  let s := s.at t
  .next (match s.retained slot.toNat posn with
    | none => s
    | some r =>
      if !s.hasWork then (s.noWork r.req).failRow r dryVatFull
      else match s.roundsAt r.step with
        | none => s.askWork slot.toNat posn (.block r.nextBlock)
        | some c => if c.parent = 0xFFFF then (s.askWork slot.toNat posn (.block r.nextBlock)).blockRound c slot.toNat posn else s)

/-- The block a row has made goes to its consumer: into the block's round, or to the draw unit. -/
def State.giveBlock (s : State) (r : Row) (list : List ListEntry) (res : Result) : State :=
  if (s.roundsAt r.step).isSome then s.deliver r r.k list res
  else
    let s := s.putOut r list res
    s.modSel r.step r.slot r.posn (fun x => { x with block := some (s.partOf r list res) })

/-- One extend block made (R104). -/
def State.runBlock (s : State) (r : Row) (order n : Nat) : State :=
  let e := s.rowEnv r
  let (list, res) := selectBlock e.width r.k n r.cursor (s.rowEntries r)
  let cursor := match (list.take res.count).getLast? with | some c => some c | none => r.cursor
  ((s.modRow r.slot r.posn (fun r =>
    { r with asks := r.asks.filter (fun a => a.order != order), made := some n, list := list, cursor := cursor, res := { r.res with block := n } })).startWork).giveBlock
    r list res

/-- EXTEND_BLOCK_DONE: the first block in work is delivered and its last entry is the next cursor (R104). -/
def execExtendBlockDone (t : Time) (slot : BitVec 12) (work : WorkRead) (s : State) : Result1 :=
  let s := s.at t
  .next (match s.retained slot.toNat work.posn with
    | none => s
    | some r => match r.asks.findSome? (fun a => match a.work with | .block n => if a.running then some (a.order, n) else none | .pass _ => none) with
      | none => s
      | some (o, n) =>
        let (s, bad) := s.rowReads r work.found
        if bad then s.failRow r dryRowEcc else s.runBlock r o n)

/-- ROW_PASS: a consumer asks for one row pass; a pass the selection has made or asked for already is not asked for again
(R133). -/
def execRowPass (t : Time) (slot : BitVec 12) (posn : Nat) (req : PassReq) (s : State) : Result1 :=
  let s := s.at t
  .next (match s.retained slot.toNat posn with
    | none => s
    | some r => if !s.hasWork then (s.noWork r.req).failRow r dryVatFull else s.askPass r req)

/-- The histogram of a row pass, kept in the WORK area (R107, R108); in a pass round of it the die's own is there. -/
def State.runPass (s : State) (r : Row) (order : Nat) (q : PassReq) : State :=
  let e := s.rowEnv r
  let h := rowPassHist e.width e.base (s.rowEntries r) q
  let s := (s.modRow r.slot r.posn (fun r => { r with asks := r.asks.filter (fun a => a.order != order), passes := r.passes ++ [(q, h)] })).startWork
  match s.roundsAt r.step, s.sel r.step r.slot r.posn with
  | some c, some x => match x.walk with
    | some w => if w.pass = q ∧ w.wkind < 4 then
        (s.modSel r.step r.slot r.posn (fun x => { x with hist := some h, tG := s.clk.eng })).histStep c r.shape r.step r.slot r.posn
      else s
    | none => s
  | _, _ => s

/-- ROW_PASS_DONE: the first row pass in work ends. -/
def execRowPassDone (t : Time) (slot : BitVec 12) (work : WorkRead) (s : State) : Result1 :=
  let s := s.at t
  .next (match s.retained slot.toNat work.posn with
    | none => s
    | some r => match r.asks.findSome? (fun a => match a.work with | .pass q => if a.running then some (a.order, q) else none | .block _ => none) with
      | none => s
      | some (o, q) =>
        let (s, bad) := s.rowReads r work.found
        if bad then s.failRow r dryRowEcc else s.runPass r o q)

end Sys2Proof.Machine
end

