-- ==== Sys2Proof/Machine/Sample.lean ====
section
/-! DEFINITION. DRAW and VERIFY: the draw over a merged selection and the verification of drafts
(06_logit_programs_and_sampling.md, 08_speculative_verification.md, and R203 to R206). -/

namespace Sys2Proof.Machine

/-! ### The selection that a draw reads -/

/-- The newest selection of a slot's request whose merged result is at the home (R152). -/
def State.mergedSel (s : State) (slot : Nat) (h : Handle) (p : Sel → Bool) : Option (Sel × Part) :=
  (s.coll.sels.filterMap (fun x => match x.merged with
    | some m => if x.slot == slot && m.req == h && !x.taken && p x then some (x, m) else none
    | none => none)).getLast?

/-- Whether a LIVE slot of the step in flight stores no row (R309). -/
def State.rowless (s : State) (slot : Nat) : Bool :=
  match s.shapeNow with
  | some f => (s.entry slot).kind == .live && (s.entry slot).prefill && (s.slotPositions f slot).isEmpty
  | none => false

/-- Whether a slot's commit has been decided already. -/
def State.decidedSlot (s : State) (slot : Nat) : Bool := s.reqs.decided.any (fun d => d.slot == slot)

/-! ### What a draw of one row comes to -/

/-- Count an image fault of a grammar (R203, R227). -/
def State.imageFault (s : State) (gidx : Nat) : State :=
  s.modRen (fun n =>
    let u := (tget gidx n.tune).getD {}
    { n with tune := tput gidx { u with faults := u.faults + 1 } n.tune })

/-- Count and log an image fault of a key record or map: its detail and a state (R227). -/
def State.logReadFault (s : State) (g : Grammar) (f : Nat × Nat) : State :=
  (s.imageFault (gidxOf g.handle)).logErr errGrammarFault none g.handle.toNat f.1 f.2

/-- Log a rejection that the key does not list and no depth excuses (R203). -/
def State.unlisted (s : State) (slot : Nat) (drafts : List TokenId) (t : TokenId) : State :=
  match s.rowGram slot drafts with
  | .at g st extra =>
    let v := match s.reqOfSlot slot with | some r => s.reqVocab r | none => s.gramVocab g
    match walkToken g (strOf v) extra st t with
    | .fail =>
      if (keyConds g st.state (clsOf g st.stack)).contains t then s
      else (s.imageFault (gidxOf g.handle)).logErr errGrammarFault (some slot) g.handle.toNat 1 st.state
    | _ => s
  | _ => s

/-- Log every unlisted rejection of a draw. -/
def State.unlistedAll (s : State) (slot : Nat) (drafts ts : List TokenId) : State := ts.foldl (fun s t => s.unlisted slot drafts t) s

/-- Candidates of a list in greedy mode (R126): its valid entries, no weights. -/
def greedyCands (l : List ListEntry) : List Cand := (l.filter (fun e => e.key != 0#32)).map (fun e => ({ e := e, w := 0 } : Cand))

/-- The list of a part that is drawn over. -/
def Part.drawn (p : Part) : List ListEntry := p.list.take p.res.count

/-- The draw over a list of a step's selection (R126 to R131, R204, R205), walked after some drafts. -/
def State.listDraw (s : State) (step slot : Nat) (drafts : List TokenId) (p : Part) : RowDrawn :=
  let sp := s.samplingOf slot
  let prog := s.progOf slot
  let walk := s.resolve slot drafts
  if isGreedy prog sp then
    ⟨drawLoop true false (fun _ => 0) walk (s.recheckMax step) 0 (greedyCands p.drawn) {}, 0, false, false, false⟩
  else
    let n := nucleusOf p.drawn (kmOf p.res.lmax) (invTOf prog sp.param) sp.minp sp.topp
    let cands := n.ents.map (fun e => ({ e := e.1, w := e.2 } : Cand))
    ⟨drawLoop false false (s.uniformOf slot 0) walk (s.recheckMax step) 0 cands {}, n.kminp, decide (p.res.count < p.res.valid), n.mpcut, n.pcut⟩

/-! ### Delivering a draw (R135, R206) -/

/-- The commit that a draw decides (R206). -/
def RowDrawn.decided (d : RowDrawn) (slot : Nat) (rec_ : DrawRecord) : Decided :=
  { slot := slot, toks := match d.res.chosen with | some c => [c.1.id] | none => [], state := d.res.chosen.bind (fun c => c.2.2),
    record := rec_, drained := d.res.chosen.isNone, reason := if d.res.chosen.isNone then endNoValidToken else 0,
    nans := if d.res.chosen.isSome then [d.res.nan] else [], rechecks := d.res.rechecks, settles := b2n d.res.settled }

/-- Deliver a decision: the records go to the control cores, and rows selected with NaN entries are counted (R91,
Table 13-9). -/
def State.giveDecided (s : State) (h : Handle) (d : Decided) (nans : Nat) : State :=
  let s := s.modReqs (fun q => { q with decided := q.decided.filter (fun x => x.slot != d.slot) ++ [d] })
  let s := s.modDrw (fun w => { w with records := tput d.slot d.record.toBits w.records,
                                       verifies := match d.verify with | some v => tput d.slot v w.verifies | none => w.verifies })
  s.modReq h (fun r => { r with tele := { r.tele with nanRows := r.tele.nanRows + nans } })

/-- One when a record has NAN set. -/
def nanRow (p : Part) : Nat := b2n (statBit p.res.selstat 1)

/-- The slot of a selection runs dry in step at its draw: what the merged result held is lost. -/
def State.dryDraw (s : State) (x : Sel) (cause : Nat) : State :=
  let s := if x.step = s.shell.step then s.engDry x.slot cause else s
  s.modSel x.step x.slot x.posn (fun y => { y with merged := y.merged.map (fun p => dryPart cause p.req) })

/-! ### A retained selection of a sharded row (R155) -/

/-- The figures of a draw over the row set as a home that is not the root forms them (R133, R135, R155). W_nuc, the nucleus's
count where min-p or top-p cuts it, and whether they cut are in no message: free values. -/
def State.peerFigures (s : State) (x : Sel) (p : Part) (e : ListEntry) : RowDrawn :=
  let sp := s.samplingOf x.slot
  let invT := invTOf (s.progOf x.slot) sp.param
  let g := fun i n => Config.rootFigure x.step x.slot i % 2 ^ n
  let km := kmOf p.res.lmax
  let kth := minpKey km invT sp.minp
  let top := if sp.topk = 0 then p.res.valid else min sp.topk p.res.valid
  let cuts := kth != 0#32 || toppOn sp.topp
  let wn := g 0 64
  ⟨{ chosen := some (e, weight e.key km invT, none), attempt := x.tries, wnuc := wn,
     target := (s.uniformOf x.slot 0 x.tries * wn) >>> 64, nnuc := if cuts then g 1 32 else top - x.tries },
    kth, sp.topk != 0 && decide (sp.topk < p.res.valid), kth != 0#32 && g 2 1 == 1, toppOn sp.topp && g 3 1 == 1⟩

/-- The figures of the draw record: the root's own where the home is the root. -/
def State.rootFigures (s : State) (x : Sel) (p : Part) (e : ListEntry) : RowDrawn :=
  let mine := match x.root, s.roundsAt x.step, s.shapeNow with
    | some r, some c, some f => (match s.rootResult f c x r with | .ok d => d | .error _ => none)
    | _, _, _ => none
  match mine with
  | some d => d.drawn
  | none => s.peerFigures x p e

/-- The home rejects the entry that the row set's walks chose (R155, R204): a REJECT goes to the root while rechecks are
left. -/
def State.rejectWalked (s : State) (c : CollConfig) (f : Shape) (x : Sel) (e : ListEntry) (last : DrawRecord) : State :=
  let s := s.modSel x.step x.slot x.posn (fun y => { y with merged := none, tries := y.tries + 1, last := some last })
  if c.parent = 0xFFFF then s.rejectAt c f x.step x.slot x.posn e
  else s.post 1 c.rootAddr (listBase f c.nb x.step x.slot 0 11)
    { kind := kReject, posn := x.posn, src := c.die, step := x.step, slot := x.slot, round := x.round, req := x.reqOf } [foundCell e 0 0]

/-- The draw of a sharded retained selection at its home. -/
def State.drawWalked (s : State) (c : CollConfig) (f : Shape) (r : Request) (x : Sel) (p : Part) : State :=
  let sp := s.samplingOf x.slot
  let invT := invTOf (s.progOf x.slot) sp.param
  let record := fun (d : RowDrawn) => d.record p.res.selstat false (p.res.valid != 0) r.rstep invT
  let give := fun (s : State) (d : RowDrawn) (rec_ : DrawRecord) => s.giveDecided r.handle (d.decided x.slot rec_) (nanRow p)
  match p.drawn with
  | [] =>
    let d : RowDrawn := ⟨{ rechecks := x.tries }, minpKey (kmOf p.res.lmax) invT sp.minp, false, false, false⟩
    give s d (x.last.getD (record d))
  | e :: _ =>
    let d := s.rootFigures x p e
    let none_ : RowDrawn := { d with res := { d.res with chosen := none, rechecks := x.tries } }
    match s.resolve x.slot [] e.id with
    | some st => 
      let d := { d with res := { d.res with chosen := some (e, (match d.res.chosen with | some q => q.2.1 | none => 0), st), rechecks := x.tries } }
      give s d (record d)
    | none =>
      let s := s.unlisted x.slot [] e.id
      if x.tries < s.recheckMax x.step then s.rejectWalked c f x e (record none_) else give s none_ (record none_)

/-! ### DRAW -/

/-- A draw over a selection that is not dry. -/
def State.drawSel (s : State) (r : Request) (x : Sel) (p : Part) : State :=
  let greedy := isGreedy (s.progOf x.slot) r.sampling
  let invT := invTOf (s.progOf x.slot) r.sampling.param
  let give := fun (s : State) (d : RowDrawn) =>
    (s.unlistedAll x.slot [] d.res.rejected).giveDecided r.handle
      (d.decided x.slot (d.record p.res.selstat greedy (p.res.valid != 0) r.rstep invT)) (nanRow p)
  if !retainedK x.k then give s (s.listDraw x.step x.slot [] p)
  else match s.roundsAt x.step, s.shapeNow with
    | some c, some f => s.drawWalked c f r x p
    | _, _ => match s.retained x.slot x.posn with
      | none => s
      | some row => match s.walkRow row p.res with
        | .ok d => (give s d).endRow row
        | .error _ => s

/-- Whether DRAW has work for a request's slot: a row is to be drawn from by the request itself, once. -/
def State.drawDue (s : State) (slot : Nat) (r : Request) : Bool :=
  !r.sampling.follow && !s.decidedSlot slot && !s.rowless slot
    && !((s.entry slot).kind == .live && (s.entry slot).spec && (s.entry slot).req == r.handle)

/-- Whether a selection belongs to a speculative step that is over: its drafts went with the step's token-port record, so
nothing of it is drawn and its tokens are computed again. -/
def State.lateDrafts (s : State) (x : Sel) : Bool :=
  x.step != s.shell.step && decide (1 < (s.coll.sels.filter (fun y => y.slot == x.slot && y.step == x.step)).length)

/-- DRAW (R130). A slot that is dry in step is left for its commit. -/
def execDraw (t : Time) (slot : BitVec 12) (found : List RowFault) (s : State) : Result1 :=
  let s := s.at t
  let i := slot.toNat
  .next (match s.reqOfSlot i with
    | none => s
    | some r =>
      if !s.drawDue i r then s
      else match s.mergedSel i r.handle (fun _ => true) with
        | none => s
        | some (x, p) =>
          if p.dryCause ≠ 0 ∨ (x.step = s.shell.step ∧ (s.dryOf i).isSome) ∨ s.lateDrafts x then s
          else
            let s := s.rowFaults i found
            if found.any RowFault.fatal then s.dryDraw x dryRowEcc else s.drawSel r x p)

/-! ### VERIFY -/

/-- The drafts of a speculative entry. -/
def State.drafts (s : State) (slot : Nat) : List TokenId := (s.tokRec slot).toks.take ((s.entry slot).feed - 1)

/-- Row positions whose MERGED the home awaits for a speculative slot (R171). -/
def specPositions (e : Entry) (f : Shape) (rows : Bool) : List Nat :=
  List.range e.feed ++ (if rows then (List.range (e.feed - 1)).map (fun j => f.feedWidth + j) else [])

/-- The merged result of a row position of the step in flight. -/
def State.mergedAt (s : State) (slot : Nat) (h : Handle) (posn : Nat) : Option Part :=
  (s.mergedSel slot h (fun x => x.step == s.shell.step && x.posn == posn)).map (fun x => x.2)

/-- A row as the verifier reads it (R170). -/
def State.vrow (s : State) (slot : Nat) (p : Part) : VRow :=
  let sp := s.samplingOf slot
  let valid := p.drawn.filter (fun e => e.key != 0#32)
  ⟨valid, (nucleusOf valid (kmOf p.res.lmax) (invTOf (s.progOf slot) sp.param) sp.minp sp.topp).ents⟩

/-- The output allowance of R311. -/
def Request.allowance (r : Request) : Nat :=
  let a := r.maxPos - 1 - r.prompt.length
  if r.maxOut = 0xFFFFFFFF then a else min r.maxOut a

/-- Whether a grammar state's key has DEAD set. -/
def stateDead (g : Grammar) (st : GState) : Bool := keyDead g st.state (clsOf g st.stack)

/-- Whether a grammar state's key has ACCEPT set. -/
def stateAccepts (g : Grammar) (st : GState) : Bool := keyAccept g st.state (clsOf g st.stack)

/-- The end reason that a token gives a request, as the n-th token of its output, reaching grammar state st; 0 for none
(R206, R311, R312: the lowest code). -/
def State.tokenEnd (s : State) (r : Request) (t : TokenId) (st : Option GState) (n : Nat) : Nat :=
  let dead := match r.grammar.bind s.grammarOf, st with | some g, some q => some (stateDead g q, stateAccepts g q) | _, _ => none
  if (match s.reqVocab r with | some v => tokEnds v t | none => false) then endEndToken
  else if dead == some (true, true) then endGrammarComplete
  else if r.allowance ≤ n then endAllowance
  else if dead == some (true, false) then endNoValidToken
  else 0

/-- What one verification reads. -/
structure VerifyIn where
  drafts : List TokenId
  main : List Part
  draft : List Part
deriving DecidableEq, Repr

/-- All the row positions' results, when every one is there (R171). -/
def State.verifyIn (s : State) (f : Shape) (slot : Nat) (r : Request) : Option VerifyIn :=
  let e := s.entry slot
  let d := e.feed - 1
  let get := fun (l : List Nat) => l.mapM (fun j => s.mergedAt slot r.handle j)
  match get (List.range e.feed), (if r.spec.src = 3 then get ((List.range d).map (fun j => f.feedWidth + j)) else some []) with
  | some m, some q => some ⟨s.drafts slot, m, q⟩
  | _, _ => none

/-- The rows in order: draft, the main row that judges it, its draft row if there is one. -/
def State.verifyRows (s : State) (slot : Nat) (v : VerifyIn) : List (TokenId × VRow × Option VRow) :=
  v.drafts.zipIdx.map (fun p => (p.1, (v.main[p.2]?.map (s.vrow slot)).getD ⟨[], []⟩, v.draft[p.2]?.map (s.vrow slot)))

/-- SELSTAT of a speculative slot: the OR over its rows (R177). -/
def VerifyIn.stat (v : VerifyIn) : Word := (v.main ++ v.draft).foldl (fun a p => a ||| p.res.selstat) 0

/-- Rows of the slot that the verifier did not read (R176), having read main rows 0 to j and draft rows below n. -/
def VerifyIn.wasted (v : VerifyIn) (mains drafts : Nat) : Nat := (v.main.length - mains) + (v.draft.length - drafts)

/-- The grammar state after the first n drafts (R207, R208). -/
def Request.afterDrafts (r : Request) (n : Nat) : Option GState := if n = 0 then r.gstate else r.pathStates[n - 1]?

/-- NANWIN of the accepted drafts: draft i comes from main row i (R77). -/
def VerifyIn.nans (v : VerifyIn) (n : Nat) : List Bool :=
  ((v.drafts.take n).zip v.main).map (fun q => q.2.drawn.any (fun e => e.id == q.1 && e.key == nanKey))

/-- A verification that ends in a draw of its own: the accepted drafts, then at most one token more (Table 8-4). -/
def State.verifyDrawn (s : State) (r : Request) (slot : Nat) (v : VerifyIn) (n : Nat) (d : RowDrawn) (greedy residual : Bool)
    (ver : VerifyRecord) (wasted : Nat) : State :=
  let invT := invTOf (s.progOf slot) r.sampling.param
  let got := d.res.chosen.isSome
  let anyValid := match v.main[n]? with | some p => p.res.valid != 0 | none => false
  let nans := v.nans n
  let stat := withNanwin v.stat (!got && nans.getLastD false)
  let rec_ := d.record stat greedy anyValid r.rstep invT
  let rec_ := if residual && greedy then
      { rec_ with weight := match d.res.chosen with | some c => c.2.1 | none => 0, wnuc := d.res.wnuc, target := d.res.target, nnuc := d.res.nnuc }
    else rec_
  let dec := d.decided slot rec_
  let toks := v.drafts.take n ++ dec.toks
  let ver := { ver with fed := v.drafts.length, accepted := n, ncommit := toks.length, rows := r.spec.src == 3,
                        ending := if got then ver.ending else 3, rtotal := if residual then d.res.wnuc else 0 }
  (s.unlistedAll slot (v.drafts.take n) d.res.rejected).giveDecided r.handle
    { dec with toks := toks, nans := nans ++ dec.nans, state := if got then dec.state else r.afterDrafts n, verify := some ver, wasted := wasted }
    (sumNat ((v.main ++ v.draft).map nanRow))

/-- The residual draw at the rejection of draft j + 1 by row j (R173, R175). -/
def State.residual (s : State) (slot j : Nat) (greedy : Bool) (row : VRow) (q : Option VRow) (x : TokenId) (main : Part) : RowDrawn × Bool :=
  let sp := s.samplingOf slot
  let (cands, fallback) := residualCands greedy row (probsOf greedy row) (q.map (probsOf greedy)) x
  let n := nucleusOf row.list (kmOf main.res.lmax) (invTOf (s.progOf slot) sp.param) sp.minp sp.topp
  let u := if greedy then fun _ => 0 else s.uniformOf slot (9 + j)
  (⟨drawLoop false true u (s.resolve slot (s.draftsTo slot j)) (s.recheckMax s.shell.step) 0 cands {}, n.kminp, decide (main.res.count < main.res.valid), n.mpcut, n.pcut⟩, fallback)

/-- Verification over all the rows of a slot (R173). -/
def State.verifySlot (s : State) (r : Request) (slot : Nat) (v : VerifyIn) : State :=
  let greedy := isGreedy (s.progOf slot) r.sampling
  let rows := s.verifyRows slot v
  let ends := fun j => s.tokenEnd r (v.drafts.getD j tokNone) (r.pathStates[j]?) (r.outToks.length + j + 1) != 0
  let d := v.drafts.length
  match verifyGo greedy (fun i => s.uniformOf slot i 0) ends 0 rows with
  | .rejected j px qx =>
    match rows[j]?, v.main[j]? with
    | some (x, row, q), some main =>
      let (dr, fallback) := s.residual slot j greedy row q x main
      s.verifyDrawn r slot v j dr greedy true { fallback := fallback, rejIndex := j + 1, pRej := px, qRej := qx } (v.wasted (j + 1) (j + 1))
    | _, _ => s
  | .ended n =>
    let ver : VerifyRecord := { fed := d, accepted := n, ncommit := n, ending := 2, rows := r.spec.src == 3 }
    s.giveDecided r.handle
      { slot := slot, toks := v.drafts.take n, nans := v.nans n, state := r.afterDrafts n, verify := some ver, wasted := v.wasted n n,
        record := { selstat := withNanwin v.stat ((v.nans n).getLastD false), token := v.drafts.getD (n - 1) tokNone } } (sumNat ((v.main ++ v.draft).map nanRow))
  | .bonus =>
    match v.main[d]? with
    | some p => s.verifyDrawn r slot v d (s.listDraw s.shell.step slot v.drafts p) greedy false { ending := 1 } 0
    | none => s

/-- VERIFY: the home holds every MERGED of a speculative slot (R171, R173); its scratch lies in the WORK area (R412). -/
def execVerify (t : Time) (slot : BitVec 12) (found : List RowFault) (s : State) : Result1 :=
  let s := s.at t
  let i := slot.toNat
  .next (match s.reqOfSlot i, s.shapeNow with
    | some r, some f =>
      let e := s.entry i
      if e.kind ≠ .live ∨ !e.spec ∨ e.req ≠ r.handle ∨ s.decidedSlot i ∨ (s.dryOf i).isSome then s
      else match s.verifyIn f i r with
        | none => s
        | some v =>
          if (v.main ++ v.draft).any (fun p => p.dryCause != 0) then s
          else if !s.hasWork then (s.noWork r.handle).engDry i dryVatFull
          else
            let s := s.rowFaults i found
            if found.any RowFault.fatal then s.engDry i dryRowEcc else s.verifySlot r i v
    | _, _ => s)

end Sys2Proof.Machine
end

