-- ==== Sys2Proof/Machine/Life.lean ====
section
/-! DEFINITION. What every part of a request's life shares: churn's lanes (R264), charges (R317 to R319), reports
of a stream's entries (R238, R239), the end of output (R311 to R316), adapter versions let go (R330), telemetry and
retirement (R307, R327). -/

namespace Sys2Proof.Machine

/-! ### Customers (R317, R318) -/

/-- Level and fraction refilled to a time, under a bucket of `burst` tokens (R318). -/
def Customer.refill (c : Customer) (now burst : Nat) : Int × Nat :=
  let num := c.frac + c.rate * 256 * (now - c.t)
  let l := c.level + ((num / 100000000 : Nat) : Int)
  if ((burst * 256 : Nat) : Int) ≤ l then (((burst * 256 : Nat) : Int), 0) else (l, num % 100000000)

/-- RATE, BURST and IW that a charge leaves in force (R317). -/
def Customer.due (c : Customer) : Nat × Nat × Nat := c.nextRate.getD (c.rate, c.burst, c.iw)

/-- The level as a charge of no units would find it (R320). -/
def Customer.levelAt (c : Customer) (now : Nat) : Int := max (c.refill now c.due.2.1).1 (-(2 ^ 47))

/-- A charge: refill at the old RATE, cap at the new BURST, units at the new IW (R317, R318). -/
def Customer.charge (c : Customer) (now : Nat) (units : Nat → Nat) : Customer :=
  let (rate, burst, iw) := c.due
  let (l, f) := c.refill now burst
  { c with rate := rate, burst := burst, iw := iw, nextRate := none, t := now, frac := f,
           level := max (l - ((units iw : Nat) : Int)) (-(2 ^ 47)) }

/-- The customer with an ID. -/
def State.customer (s : State) (c : Nat) : Option Customer := tget c s.rat.customers

/-- Change a customer. -/
def State.modCustomer (c : Nat) (f : Customer → Customer) (s : State) : State :=
  s.modRat (fun q => { q with customers := tmod c f q.customers })

/-- Units a charge would take of a customer. -/
def State.unitsOf (s : State) (c : Nat) (units : Nat → Nat) : Nat :=
  match s.customer c with | some x => units x.due.2.2 | none => 0

/-- Charge a customer. -/
def State.charge (s : State) (c : Nat) (units : Nat → Nat) : State := s.modCustomer c (fun x => x.charge s.now units)

/-- Charge a request's customer, in its telemetry too. -/
def State.chargeReq (s : State) (r : Request) (units : Nat → Nat) (inputs : Nat) : State :=
  let n := s.unitsOf r.customer units
  (s.charge r.customer units).modReq r.handle (fun r =>
    { r with tele := { r.tele with charged := r.tele.charged + n, inputTokens := r.tele.inputTokens + inputs } })

/-- Count service of an epoch (R324). -/
def State.serve1 (s : State) (c : Nat) (units : Nat → Nat) : State := s.modCustomer c (fun x => { x with service := x.service + units x.iw })

/-! ### Adapter versions (R330) -/

/-- A tracked request bound to a version ends its output: at the last one the version leaves the table, its residency
slot is free, and the release is reported. -/
def State.dropVersion (s : State) (h : Handle) : State :=
  match s.stw.versions.find? (fun v => v.handle == h) with
  | none => s
  | some v =>
    if 1 < v.refs then
      s.modStw (fun w => { w with versions := lmodIf (fun x => x.handle == h) (fun x => { x with refs := x.refs - 1 }) w.versions })
    else
      let s := s.modStw (fun w => { w with versions := w.versions.filter (fun x => x.handle != h) })
      match s.stw.pool with
      | none => s
      | some p => s.sendEvent p.eventCtx evAdapterReleased
          (leBytes 8 (pack [(32, h.toNat), (16, match v.rslot with | some i => i | none => 0xFFFF), (16, 0)]))

/-! ### Lanes (R264) -/

/-- Whether a stream has a buffer and waits for no fill. -/
def Stream.ready (x : Stream) : Bool := !x.queue.isEmpty && x.waitFill.isNone

/-- Streams that a lane holds. -/
def Churn.onLane (c : Churn) (l : Nat) : List (Nat × Stream) := c.streams.filter (fun p => p.2.lane == some l)

/-- The ready stream of a lane that comes next after a context, in turn by context. -/
def Churn.nextReady (c : Churn) (l : Nat) (after : Option Nat) : Option Nat :=
  let rs := ((c.onLane l).filter (fun p => p.2.ready)).map (fun p => p.1)
  match after.bind (fun i => rs.find? (fun j => decide (i < j))) with | some j => some j | none => rs.head?

/-- Let a lane run another stream. -/
def Churn.switchTo (c : Churn) (l eng : Nat) (next : Option Nat) : Churn :=
  match next with
  | some j => { c with running := tput l j c.running, streams := tmod j (fun x => { x with laneStart := eng }) c.streams }
  | none => { c with running := tdel l c.running }

/-- A lane goes on with its stream while that is ready, and otherwise switches. -/
def Churn.runLane (c : Churn) (eng l : Nat) : Churn :=
  match tget l c.running with
  | some i => (match tget i c.streams with
    | some x => if x.lane == some l && x.ready then c else c.switchTo l eng (c.nextReady l (some i))
    | none => c.switchTo l eng (c.nextReady l (some i)))
  | none => c.switchTo l eng (c.nextReady l none)

/-- The usable lane with room that holds the fewest streams, the lowest among equals: a lane holds 4. -/
def Churn.laneFor (c : Churn) : Option Nat :=
  leastBy (fun l => (c.onLane l).length) ((List.range 16).filter (fun l => bit c.lanes.toNat l && decide ((c.onLane l).length < 4)))

/-- Streams without a buffer leave their lanes, streams with one and no lane go to lanes, and every lane runs. -/
def Churn.schedule (c : Churn) (eng : Nat) : Churn :=
  let rest := c.streams.map (fun (p : Nat × Stream) => if p.2.queue.isEmpty then (p.1, { p.2 with lane := none }) else p)
  let c := { c with streams := rest }
  let c := (c.streams.filter (fun p => p.2.lane.isNone && !p.2.queue.isEmpty)).foldl (fun c p => match c.laneFor with
    | some l => { c with streams := tmod p.1 (fun x => { x with lane := some l }) c.streams }
    | none => c) c
  (List.range 16).foldl (fun c l => c.runLane eng l) c

/-- Schedule churn's lanes now. -/
def State.schedule (s : State) : State := s.modChurn (fun c => c.schedule s.clk.eng)

/-! ### Streams (R238, R239) -/

/-- The context index of a request's open stream. -/
def State.streamOf (s : State) (h : Handle) : Option Nat :=
  (s.churn.streams.find? (fun p => p.2.job.isNone && p.2.req == h)).map (fun p => p.1)

/-- Change a stream. -/
def State.modStream (i : Nat) (f : Stream → Stream) (s : State) : State :=
  s.modChurn (fun c => { c with streams := tmod i f c.streams })

/-- Charge a job's entries not yet charged (R319). -/
def State.chargeJob (s : State) (i : Nat) (x : Stream) (cust : Nat) : State :=
  let n := x.entries.length - x.charged
  if n = 0 then s else (s.charge cust (fun iw => iw * n)).modStream i (fun x => { x with charged := x.entries.length })

/-- Report a stream's new entries (R238): prompt tokens to the request, charges by R319. `fin` tells that the stream has
ended or stopped. -/
def State.reportEntries (s : State) (i : Nat) (fin : Bool) : State :=
  match tget i s.churn.streams with
  | none => s
  | some x =>
    let new := x.entries.drop x.reported
    let s := s.modStream i (fun x => { x with reported := x.entries.length })
    match x.job with
    | some (_, cust) => if x.opts.invalid = 2 && !fin then s else s.chargeJob i x cust
    | none => match s.findReq x.req with
      | none => s
      | some r =>
        let s := s.modReq r.handle (fun r => { r with prompt := r.prompt ++ new.map (fun e => e.id) })
        let n := if x.opts.invalid = 2 then (if fin then x.entries.length else 0) else new.length
        let s := if n = 0 then s else s.chargeReq r (fun iw => iw * n) n
        s.tryWaiting r.handle

/-- Counters added up (R265). -/
def EncCounters.add (a b : EncCounters) : EncCounters :=
  { bytesIn := a.bytesIn + b.bytesIn, tokensOut := a.tokensOut + b.tokensOut, specials := a.specials + b.specials,
    invalidSeq := a.invalidSeq + b.invalidSeq, invalidBytes := a.invalidBytes + b.invalidBytes, unknownBytes := a.unknownBytes + b.unknownBytes,
    pieces := a.pieces + b.pieces, memoHits := a.memoHits + b.memoHits, misses := a.misses + b.misses }

/-- Free a stream's context. A request's counters stay with the request, and join its vocabulary's sums (R265). -/
def State.freeStream (s : State) (i : Nat) : State :=
  match tget i s.churn.streams with
  | none => s
  | some x =>
    let s := s.modChurn (fun c => { c with streams := tdel i c.streams, running := c.running.filter (fun p => p.2 != i),
                                           fills := c.fills.map (fun f => { f with streams := f.streams.filter (fun k => k != i) }),
                                           sums := tput x.opts.vidx (((tget x.opts.vidx c.sums).getD {}).add x.counters) c.sums,
                                           stopped := if x.job.isNone then x.req :: c.stopped else c.stopped })
    if x.job.isSome then s else s.modReq x.req (fun r => { r with tele := { r.tele with churn := x.counters } })

/-- Answer a stream's waiting buffers with a status (R239). -/
def State.answerBuffers (s : State) (i status : Nat) : State :=
  match tget i s.churn.streams with
  | none => s
  | some x => x.queue.foldl (fun s b => s.refuse b.by_ opAppendInput status) (s.modStream i (fun x => { x with queue := [] }))

/-- The stream of a request that has ended stops before its next entry (R239). -/
def State.stopStream (s : State) (h : Handle) : State :=
  match s.streamOf h with
  | none => s.modChurn (fun c => if c.stopped.contains h then c else { c with stopped := h :: c.stopped })
  | some i => ((s.answerBuffers i stEncStream).freeStream i).schedule

/-! ### The end of output (R312, R316) -/

/-- One request's output ends. `flush` asks the skimmer for the flush and the END that no commit brings. -/
def State.endOne (s : State) (h : Handle) (reason : Nat) (flush : Bool) : State :=
  match s.findReq h with
  | none => s
  | some r =>
    if r.st = .ending then s
    else
      let s := s.modReq h (fun r => { r.goTo s.now .ending with endReason := reason, slot := none, moving := false,
                                                                 tele := { r.tele with tEnd := s.now } })
      let s := (s.dropRows (fun x => x.req == h)).stopStream h
      let s := if r.adapter = 0 then s else s.dropVersion r.adapter
      if flush then s.modSkim (fun k => { k with work := k.work ++ [{ req := h, toks := [], finish := some reason }] }) else s

/-- A request's output ends, and its partner's with it (R316). -/
def State.endOutput (s : State) (h : Handle) (reason : Nat) (flush : Bool) : State :=
  match s.findReq h with
  | none => s
  | some r =>
    let s := s.endOne h reason flush
    match r.other with | some o => s.endOne o reason flush | none => s

/-- The stream of a request has ended (R311, R312): an empty prompt or one too long ends the request. -/
def State.promptEnded (s : State) (h : Handle) : State :=
  let s := s.modReq h (fun r => { r with streamEnded := true })
  match s.findReq h with
  | none => s
  | some r =>
    if r.prompt.isEmpty then s.endOutput h endEmptyPrompt true
    else if r.maxPos - 1 ≤ r.prompt.length then s.endOutput h endPromptTooLong true
    else s.tryWaiting h

/-! ### Telemetry and retirement (R307, R327) -/

/-- STATE of a telemetry record. -/
def ReqState.code : ReqState → Nat
  | .encoding => 0
  | .waiting => 1
  | .slotted => 2
  | .paused => 3
  | .ending => 4

/-- Churn's counters of a request: its open stream's, or those left when it ended. -/
def State.churnCounters (s : State) (r : Request) : EncCounters :=
  match (s.streamOf r.handle).bind (fun i => tget i s.churn.streams) with | some x => x.counters | none => r.tele.churn

/-- Churn's counters in table order (Table 11-13): one of 64 bits and eight of 32. -/
def EncCounters.fields (c : EncCounters) : List (Nat × Nat) :=
  [(64, c.bytesIn), (32, c.tokensOut), (32, c.specials), (32, c.invalidSeq), (32, c.invalidBytes), (32, c.unknownBytes),
   (32, c.pieces), (32, c.memoHits), (32, c.misses)]

/-- The telemetry record (Table 13-9). -/
def State.telemetry (s : State) (r : Request) (state : Nat) : List Byte :=
  let r := r.goTo s.now r.st
  let t := r.tele
  leBytes 256 (pack ([(32, r.handle.toNat), (16, r.customer), (8, state), (8, r.endReason), (64, t.tAdmit), (64, t.tFirstLive),
      (64, t.tFirstToken), (64, t.tLastCommit), (64, t.tEnd), (64, t.waitTicks), (64, t.pausedTicks), (64, t.charged), (32, t.inputTokens),
      (32, r.outToks.length), (32, t.stepsLive), (32, sat 0xFFFFFFFF t.maxGap)]
    ++ (List.range 12).map (fun i => (16, sat 0xFFFF (t.dry.getD i 0)))
    ++ [(32, t.specSteps), (32, t.draftsFed), (32, t.draftsAccepted), (32, t.draftsWasted), (32, t.draftsLostDry), (32, t.staleSets),
      (32, t.noDraftSteps), (32, t.rechecks), (32, t.settles), (32, t.slabLooks), (32, t.nanRows), (32, t.nanWin)]
    ++ (s.churnCounters r).fields
    ++ [(32, r.pail.invSeq), (32, r.pail.invBytes), (8, r.dcur), (24, 0), (32, r.adapter.toNat), (320, 0)]))

/-- A request whose pail has closed retires: its telemetry is delivered and its index freed. -/
def State.retire (s : State) (h : Handle) : State :=
  match s.findReq h with
  | none => s
  | some r =>
    let s := if r.telemAddr = 0 then s else s.hostWrite r.telemAddr (s.telemetry r 5)
    let s := s.modReqs (fun q => { q with table := tdel (h.toNat % 65536) q.table, decided := q.decided })
    (s.modChurn (fun c => { c with stopped := c.stopped.filter (fun x => x != h) })).modSkim (fun k =>
      { k with work := k.work.filter (fun w => w.req != h), since := tdel h.toNat k.since })

end Sys2Proof.Machine
end

