-- ==== Sys2Proof/Machine/VocabCache.lean ====
section
/-! DEFINITION. The vocabulary cache of churn (R255, R258 to R262, R269): lines, partitions, fills and memo lines. -/

namespace Sys2Proof.Machine

/-- The set that an image line or a memo indexes: 8,192 sets (R258). -/
def cacheSet (vidx gen x : Nat) : Nat := Config.vocabSet vidx gen x % 8192

/-- The set of a tag. -/
def LineTag.set : LineTag → Nat
  | .image vidx gen line => cacheSet vidx gen line
  | .memo vidx gen piece => cacheSet vidx gen (leNat piece + 256 ^ piece.length)

/-- Whether a tag is held. -/
def Churn.holds (c : Churn) (t : LineTag) : Bool := c.lines.any (fun l => l.tag == t)

/-- The partition of a language tag, and its way mask (R260). -/
def Churn.partOf (c : Churn) (lang : Nat) : Nat := c.map.getD lang 0
def Churn.maskOf (c : Churn) (lang : Nat) : BitVec 16 := c.masks.getD (c.partOf lang) 0

/-- The pinned image lines of a vocabulary: header page, BYTETOK, SPECIAL and CLASSES (R259). -/
def pinnedImageLines (v : Vocab) : List Nat :=
  let sec := fun i n => (List.range (ceilDiv n 128)).map (fun k => lineOf (v.secs.getD i 0) + k)
  List.range 4 ++ sec 2 1024 ++ sec 3 (4 * v.specials.length) ++ sec 4 (8 * v.ranges.length)

/-- Whether a fill brings a pinned line of a loaded vocabulary. -/
def Churn.pinsFill (c : Churn) (f : Fill) : Bool :=
  match tget f.vidx c.vocabs with | some v => v.gen == f.gen && (pinnedImageLines v).contains f.line | none => false

/-- The way of a set that a fill within a mask takes: of the ways without a pinned line, an empty one, or that of the least
recently used line; one that no fill in flight has chosen before one that a fill has. None when every way of the mask is
pinned (R260). -/
def Churn.wayFor (c : Churn) (set : Nat) (mask : BitVec 16) : Option Nat :=
  let chosen := fun (p : Fill → Bool) (w : Nat) => c.fills.any (fun f => f.set == set && f.way == some w && p f)
  let at_ := fun w => c.lines.find? (fun l => l.set == set && l.way == w)
  let pinned := fun w => (match at_ w with | some l => l.pinned | none => false) || chosen c.pinsFill w
  let best := fun (ws : List Nat) => match ws.find? (fun w => (at_ w).isNone) with
    | some w => some w
    | none => leastBy (fun w => match at_ w with | some l => l.used | none => 0) ws
  let ws := (List.range 16).filter (fun w => bit mask.toNat w && !pinned w)
  match best (ws.filter (fun w => !chosen (fun _ => true) w)) with
  | some w => some w
  | none => best ws

/-- Put a line in its way, replacing what lies there. -/
def Churn.place (c : Churn) (l : CacheLine) : Churn :=
  { c with lines := c.lines.filter (fun x => !(x.set == l.set && x.way == l.way)) ++ [{ l with used := c.uses + 1 }], uses := c.uses + 1 }

/-- A use of a line. -/
def Churn.touch (c : Churn) (t : LineTag) : Churn :=
  { c with lines := lmodIf (fun l => l.tag == t) (fun l => { l with used := c.uses + 1 }) c.lines, uses := c.uses + 1 }

/-- Keep a tag in the ways of a mask, when one can be had. -/
def Churn.keep (c : Churn) (t : LineTag) (mask : BitVec 16) (pinned : Bool) (toks : List TokenId) : Churn :=
  if c.holds t then c.touch t
  else match c.wayFor t.set mask with
    | some w => c.place { tag := t, set := t.set, way := w, pinned := pinned, toks := toks }
    | none => c

/-- Pin a loaded vocabulary's lines, in any way. -/
def Churn.pinVocab (c : Churn) (vidx : Nat) (v : Vocab) : Churn :=
  (pinnedImageLines v).foldl (fun c n => c.keep (.image vidx v.gen n) 0xFFFF true []) c

/-- Unpin and invalidate every line of an index; fills not issued are forgotten (R245). -/
def Churn.dropVocab (c : Churn) (vidx : Nat) : Churn :=
  { c with fills := c.fills.filter (fun f => f.vidx != vidx || f.issued)
           lines := c.lines.filter (fun l => match l.tag with | .image i _ _ => i != vidx | .memo i _ _ => i != vidx) }

/-- A fill for a stream (R262): a line already being filled is waited for, another is to be read. -/
def Churn.askLine (c : Churn) (i : Nat) (lane : Option Nat) (vidx gen line : Nat) (mask : BitVec 16) : Churn :=
  let hit := fun (f : Fill) => f.vidx == vidx && f.gen == gen && f.line == line
  if c.fills.any hit then { c with fills := lmodIf hit (fun f => { f with streams := if f.streams.contains i then f.streams else f.streams ++ [i] }) c.fills }
  else { c with fills := c.fills ++ [{ vidx := vidx, gen := gen, line := line, set := cacheSet vidx gen line, streams := [i], lane := lane, mask := mask }] }

/-- Whether a fill may be issued: its lane has fewer than 8 outstanding, and no pinned line of its vocabulary is yet to be
read again, unless it brings one (R262). -/
def Churn.mayIssue (c : Churn) (f : Fill) : Bool :=
  !f.issued && decide (c.fills.countP (fun x => x.issued && x.lane.isSome && x.lane == f.lane) < 8)
    && (c.pinsFill f || !c.fills.any (fun x => x.vidx == f.vidx && x.gen == f.gen && c.pinsFill x))

/-- A fill as it is issued: its way is chosen now, any way for a pinned line (R259, R260). -/
def Churn.issued (c : Churn) (f : Fill) : Fill := { f with issued := true, way := c.wayFor f.set (if c.pinsFill f then 0xFFFF else f.mask) }

/-- Issue the fills that may go, in order, at cellar class 4; `n` bounds them. -/
def State.issueFills : Nat → State → State
  | 0, s => s
  | n + 1, s => match s.churn.fills.find? s.churn.mayIssue, s with
    | none, s => s
    | some f, s =>
      let addr := match tget f.vidx s.churn.vocabs with | some v => v.addr.toNat | none => 0
      State.issueFills n ((s.modChurn (fun c => { c with fills := modFirst (fun x => x == f) c.issued c.fills })).celAccess
        (.line f.vidx f.gen f.line) 4 false (addr + 128 * f.line) 128)

/-- Issue every fill that may go. -/
def State.issueAllFills (s : State) : State := State.issueFills s.churn.fills.length s

/-- Image lines that the skimmer reads for a token: its entry and its string (R269). -/
def tokenLines (v : Vocab) (t : TokenId) : List Nat :=
  match v.toks[t.toNat]? with
  | none => []
  | some e => (lineOf (secOff v 0 8 t.toNat) :: (List.range e.str.length).map (fun i => lineOf (secOff v 1 1 (e.off + i)))).eraseDups

/-- The skimmer's reads of the tokens that it assembles: what is not there is read from the cellar, into the partition of the
request's LANG, before the bytes are assembled. -/
def State.readTokens (s : State) (vidx : Nat) (v : Vocab) (lang : Nat) (ts : List TokenId) : State :=
  (ts.flatMap (tokenLines v)).eraseDups.foldl (fun s n =>
    let t : LineTag := .image vidx v.gen n
    let s := if s.churn.holds t then s else (s.celAccess (.line vidx v.gen n) 4 false (v.addr.toNat + 128 * n) 128).celDone (.line vidx v.gen n)
    s.modChurn (fun c => c.keep t (c.maskOf lang) false [])) s

end Sys2Proof.Machine
end

