-- ==== Sys2Proof/Machine/ChurnOps.lean ====
section
/-! DEFINITION. Churn's commands: BUFFER_TAKEN, ENTRY_REPORT, LANE_SWITCH, VOCAB_FILL_DONE and PARTITION_RETUNE
(R235 to R239, R246 to R265, R409). -/

namespace Sys2Proof.Machine

/-! ### Lanes (R264) -/

/-- The stream that a context index names while a lane runs it. -/
def State.runningStream (s : State) (i : Nat) : Option Stream :=
  match tget i s.churn.streams with
  | some x => if x.ready && s.churn.running.any (fun p => p.2 == i) then some x else none
  | none => none

/-- LANE_SWITCH: a stream that has run 4,096 ENG cycles gives way to another that is ready. -/
def execLaneSwitch (t : Time) (lane : BitVec 4) (s : State) : Result1 :=
  let s := s.at t
  let l := lane.toNat
  .next (match (tget l s.churn.running).bind (fun i => (tget i s.churn.streams).map (fun x => (i, x))) with
    | none => s
    | some (i, x) => match s.churn.nextReady l (some i) with
      | some j => if j ≠ i ∧ x.laneStart + 4096 ≤ s.clk.eng then s.modChurn (fun c => c.switchTo l s.clk.eng (some j)) else s
      | none => s)

/-! ### What a piece of text needs and gives -/

/-- Whether a merged piece is stored as a memo line (R255). -/
def memoable (p : List Byte × List TokenId) : Bool := decide (1 ≤ p.1.length) && decide (p.1.length ≤ 32) && decide (p.2.length ≤ 16)

/-- Pieces that the lane merges, and pieces taken from memo lines: a piece merged earlier in the same text is one once it
is kept. -/
def splitPieces (held kept : List Byte → Bool) : List (List Byte × List TokenId) → List (List Byte) →
    List (List Byte × List TokenId) × List (List Byte × List TokenId)
  | [], _ => ([], [])
  | p :: r, new =>
    if held p.1 || new.contains p.1 then let q := splitPieces held kept r new; (q.1, p :: q.2)
    else let q := splitPieces held kept r (if memoable p && kept p.1 then p.1 :: new else new); (p :: q.1, q.2)

/-- The work on a piece of text: what encoding gives, the pieces merged and those taken from memos, and the image offsets
read. -/
structure TextWork where
  e : Encoded
  merged : List (List Byte × List TokenId)
  memo : List (List Byte × List TokenId)
  read : List Nat
deriving DecidableEq, Repr

/-- The memo tag of a piece. -/
def memoTag (x : Stream) (v : Vocab) (p : List Byte) : LineTag := .memo x.opts.vidx v.gen p

/-- The work on text that follows what the stream holds back. -/
def Churn.work (c : Churn) (x : Stream) (v : Vocab) (text : List Byte) (final : Bool) : TextWork :=
  let e := encodeText v x.opts final (x.pending.text ++ text) x.pending.skip
  let held := fun p => c.holds (memoTag x v p)
  let kept := fun p => (c.wayFor (memoTag x v p).set (c.maskOf x.opts.lang)).isSome
  let (merged, memo) := splitPieces held kept e.pieces []
  let read := if v.mode = 1 ∧ ¬ isByteMode v x.opts then
      specialOffsets v x.opts ++ merged.flatMap (fun p => (pieceToks v p.1).2.2.map (secOff v 7 16))
    else e.touched
  ⟨e, merged, memo, read⟩

/-- The first line that the work needs and the cache does not hold, past those that landed for it. -/
def Churn.missing (c : Churn) (x : Stream) (v : Vocab) (w : TextWork) : Option Nat :=
  (w.read.map lineOf).eraseDups.find? (fun n => !c.holds (.image x.opts.vidx v.gen n) && !x.served.contains n)

/-- A stream waits for a line (R262): the fill is asked for and counted, in the epoch and in the partition's sum (R261, R265). -/
def State.waitLine (s : State) (i : Nat) (x : Stream) (v : Vocab) (line : Nat) : State :=
  let s := s.modStream i (fun x => { x with waitFill := some line, counters := { x.counters with misses := x.counters.misses + 1 } })
  (s.modChurn (fun c => { c.askLine i x.lane x.opts.vidx v.gen line (c.maskOf x.opts.lang) with
    misses := lmod (c.partOf x.opts.lang) (· + 1) c.misses,
    missSums := lmod (c.partOf x.opts.lang) (· + 1) c.missSums })).issueAllFills.schedule

/-! ### Image faults (R246) -/

/-- The fault that an image offset read shows: its kind of Table 17-2 and the index of the entry. -/
def vocabFaultAt (v : Vocab) (off : Nat) : Option (Nat × Nat) :=
  let sec := fun i size n => let b := v.secs.getD i 0; if b ≤ off ∧ off < b + size * n then some ((off - b) / size) else none
  match sec 6 4 v.edges.length, sec 5 8 v.nodes.length, sec 7 16 v.pairs.length with
  | some k, _, _ => if v.nodes.length ≤ (v.edges.getD k (0, 0)).2 then some (1, k) else none
  | none, some k, _ =>
    let n := v.nodes.getD k ⟨tokNone, 0, 0⟩
    if v.edges.length < n.first + n.nchild then some (2, k)
    else if n.token ≠ tokNone ∧ nodeToken v n = none then some (3, k) else none
  | none, none, some k =>
    let p := v.pairs.getD k ⟨0, 0, 0, 0, false⟩
    if p.used ∧ v.toks.length ≤ p.merged then some (4, k) else none
  | none, none, none => none

/-- Count the faults met, and log each kind once per load. -/
def State.vocabFaults (s : State) (vidx : Nat) (v : Vocab) (read : List Nat) : State :=
  (read.filterMap (vocabFaultAt v)).foldl (fun s f =>
    let seen := match tget vidx s.churn.vocabs with | some v => v.faulted.contains f.1 | none => true
    let s := s.modChurn (fun c => { c with vocabs := tmod vidx (fun v =>
      { v with faults := v.faults + 1, faulted := if seen then v.faulted else f.1 :: v.faulted }) c.vocabs })
    if seen then s else s.logErr errVocabFault none vidx f.1 f.2) s

/-! ### Writing entries (R237) -/

/-- The 4 bytes of an entry (Table 11-2). -/
def EncEntry.bytes (e : EncEntry) : List Byte := leBytes 4 (pack [(24, e.id.toNat), (1, b2n e.inv), (1, b2n e.spc), (1, b2n e.unk), (5, 0)])

/-- Write entries after those of a stream, up to DCAP; answers whether the stream is full. -/
def State.writeEntries (s : State) (i : Nat) (x : Stream) (es : List EncEntry) : State × Bool :=
  let n := x.entries.length
  let w := es.take (x.opts.dcap - n)
  let a := x.opts.dest + BitVec.ofNat 64 (4 * n)
  let bs := w.flatMap EncEntry.bytes
  let s := if x.opts.destHost then s.hostWrite a bs else s.cellarWrite a bs
  let unk := w.countP (fun e => e.unk)
  let upd := fun (x : Stream) =>
    let k := { x.counters with tokensOut := x.counters.tokensOut + w.length, unknownBytes := x.counters.unknownBytes + unk }
    { x with entries := x.entries ++ w, counters := k }
  (s.modStream i upd, decide (w.length < es.length))

/-- The effect of finished work on text: cache uses and memo lines, counters, what is held back, entries. -/
def State.applyWork (s : State) (i : Nat) (x : Stream) (v : Vocab) (w : TextWork) (text : List Byte) (more : List EncEntry) : State × Bool :=
  let mask := s.churn.maskOf x.opts.lang
  let s := s.modChurn (fun c =>
    let c := (w.read.map lineOf).eraseDups.foldl (fun c n => c.touch (.image x.opts.vidx v.gen n)) c
    let c := w.memo.foldl (fun c p => c.touch (memoTag x v p.1)) c
    (w.merged.filter memoable).foldl (fun c p => c.keep (memoTag x v p.1) mask false p.2) c)
  let s := s.vocabFaults x.opts.vidx v w.read
  let occ := w.e.invalid
  let s := s.modStream i (fun x =>
    let k := x.counters
    let bad := sumNat (occ.map (fun o => o.2))
    let k := { k with bytesIn := k.bytesIn + text.length, specials := k.specials + w.e.specials, invalidSeq := k.invalidSeq + occ.length,
                      invalidBytes := k.invalidBytes + bad, pieces := k.pieces + w.merged.length, memoHits := k.memoHits + w.memo.length }
    let left : Pending := { text := (x.pending.text ++ text).drop w.e.consumed, skip := w.e.skip }
    { x with counters := k, pending := left })
  s.writeEntries i x (w.e.entries ++ (if w.e.rejected then [] else more))

/-! ### The end of a buffer and of a stream (R235, R238, R239, R249) -/

/-- The response body of APPEND_INPUT; with END the counters of Table 11-13. -/
def Stream.body (x : Stream) (ended : Bool) : List Byte :=
  leBytes 4 x.entries.length ++ leBytes 4 (heldBytes x.pending) ++ (if ended then leBytes 40 (pack x.counters.fields) else [])

/-- The stream stops under a status: its buffers are answered, its context is freed, and a request ends. -/
def State.stopWith (s : State) (i status reason : Nat) (fin : Bool) : State :=
  match tget i s.churn.streams with
  | none => s
  | some x =>
    let s := s.reportEntries i fin
    let s := match x.queue with
      | b :: r => (s.modStream i (fun x => { x with queue := r })).refuse b.by_ opAppendInput status
      | [] => s
    let s := ((s.answerBuffers i stEncStream).freeStream i).schedule
    if x.job.isSome then s else s.endOutput x.req reason true

/-- A stream stopped by a fault, which is logged: 1 text read, 2 cellar fill, 3 context. -/
def State.stopFault (s : State) (i detail : Nat) : State :=
  (s.logErr errEncodeFault none i detail 0).stopWith i stEncFault endEncodeFault true

/-- The end of the oldest buffer of a stream that goes on or ends. -/
def State.finishBuffer (s : State) (i : Nat) (b : InBuffer) : State :=
  let s := s.modStream i (fun x => { x with queue := x.queue.tail, got := 0, served := [] })
  let s := s.reportEntries i b.ended
  match tget i s.churn.streams with
  | none => s
  | some x =>
    let s := s.answer b.by_ opAppendInput stOk (x.body b.ended)
    if b.ended then
      let s := (s.freeStream i).schedule
      if x.job.isSome then s else s.promptEnded x.req
    else s.schedule

/-- A buffer's last text, or its IDs, taken: the stream stops, ends or goes on. -/
def State.takeBuffer (s : State) (i : Nat) (x : Stream) (v : Vocab) (b : InBuffer) (text : List Byte) : State :=
  let final := b.ids.isSome || b.ended
  let w := s.churn.work x v text final
  match s.churn.missing x v w with
  | some n => s.waitLine i x v n
  | none =>
    let ids := (b.ids.getD []).map (fun t => ({ id := t, spc := tokSpecial v t } : EncEntry))
    let (s, full) := s.applyWork i x v w text ids
    if full then s.stopWith i stEncFull endPromptTooLong true
    else if w.e.rejected then s.stopWith i stEncInvalid endInvalidInput false
    else s.finishBuffer i b

/-! ### Faults met on the way (R239, R262, R409) -/

/-- A lane's uncorrectable context error: at the fourth since boot the lane goes out of service and its streams move. -/
def State.laneError (s : State) (l : Nat) : State :=
  let n := s.churn.laneErrors.getD l 0 + 1
  let s := s.modChurn (fun c => { c with laneErrors := lmod l (fun _ => n) c.laneErrors })
  if n = 4 then
    (s.modChurn (fun c => { c with lanes := c.lanes &&& ~~~(1#16 <<< l), running := tdel l c.running,
                                   streams := c.streams.map (fun p => if p.2.lane == some l then (p.1, { p.2 with lane := none }) else p) })).logErr
      errLaneOut none l n 0
  else s

/-- An uncorrectable error in a cache line: the line is lost, and the lookup is a miss (R262). -/
def State.lineLost (s : State) (tag : LineTag) : State :=
  match s.churn.lines.find? (fun l => l.tag == tag) with
  | none => s
  | some l => (s.modChurn (fun c => { c with lines := c.lines.filter (fun y => y.tag != tag) })).logErr errVocabCacheUe none
      (16 * l.set + l.way) (b2n l.pinned) 0

/-- What churn does with an error in a line before it goes on with the buffer. -/
def State.lineFault (s : State) (x : Stream) (v : Vocab) (fault : ChurnFault) : State :=
  match fault with
  | .lineUe n => s.lineLost (.image x.opts.vidx v.gen n)
  | .memoUe p => s.lineLost (.memo x.opts.vidx v.gen p)
  | .lineCe => s.modChurn (fun c => { c with corrected := c.corrected + 1 })
  | _ => s

/-- A lost image line is waited for before the buffer is taken: a pinned one is read again before any other fill of its
vocabulary (R262). -/
def State.lostLine (s : State) (x : Stream) (v : Vocab) : ChurnFault → Option Nat
  | .lineUe n => if s.churn.holds (.image x.opts.vidx v.gen n) then some n else none
  | _ => none

/-- The vocabulary of a stream. -/
def State.streamVocab (s : State) (x : Stream) : Option Vocab := tget x.opts.vidx s.churn.vocabs

/-- The text a TEXT buffer still brings: none when its read failed. A buffer of IDs, and an END of no text, bring none. -/
def InBuffer.rest (b : InBuffer) (got : Nat) (text : Option (List Byte)) : Option (List Byte) :=
  if b.ids.isSome ∨ b.len = 0 then some [] else match text with | some l => if got + l.length = b.len then some l else none | none => none

/-- Whether the text that a command brings is a read failure rather than a read of another length. -/
def InBuffer.fits (b : InBuffer) (got : Nat) (text : Option (List Byte)) : Bool :=
  b.ids.isSome || b.len == 0 || match text with | some l => got + l.length == b.len | none => true

/-- BUFFER_TAKEN: `text` is what the last read of the buffer's text brought. -/
def execBufferTaken (t : Time) (stream : BitVec 10) (text : Option (List Byte)) (fault : ChurnFault) (s : State) : Result1 :=
  let s := s.at t
  let i := stream.toNat
  .next (match s.runningStream i with
    | none => s
    | some x => match x.queue, s.streamVocab x with
      | b :: _, some v =>
        (match fault with
          | .contextUe => ((match x.lane with | some l => s.laneError l | none => s).stopFault i 3)
          | fault =>
            let t := s.lineFault x v fault
            match s.lostLine x v fault with
            | some n => t.waitLine i x v n
            | none =>
              if !b.fits x.got text then t
              else match b.rest x.got text with
                | none => t.stopFault i 1
                | some l => t.takeBuffer i x v b l)
      | _, _ => s)

/-- ENTRY_REPORT: within a TEXT buffer, text that has brought 4,096 entries not reported yet. Cutting a buffer changes no
entry (R236). -/
def execEntryReport (t : Time) (stream : BitVec 10) (text : List Byte) (s : State) : Result1 :=
  let s := s.at t
  let i := stream.toNat
  .next (match s.runningStream i with
    | none => s
    | some x => match x.queue, s.streamVocab x with
      | b :: _, some v =>
        if b.ids.isSome ∨ b.len ≤ x.got + text.length then s
        else
          let w := s.churn.work x v text false
          match s.churn.missing x v w with
          | some n => s.waitLine i x v n
          | none =>
            if x.entries.length + w.e.entries.length < x.reported + 4096 then s
            else
              let (s, full) := s.applyWork i x v w text []
              let s := s.modStream i (fun x => { x with got := x.got + text.length })
              if full then s.stopWith i stEncFull endPromptTooLong true
              else if w.e.rejected then s.stopWith i stEncInvalid endInvalidInput false
              else s.reportEntries i false
      | _, _ => s)

/-! ### Fills and partitions (R260 to R262) -/

/-- A fill lands: the line goes to the way chosen when it was issued, unless a pinned line lies there by now, and its streams
go on. One for a released index is dropped (R245). -/
def State.fillLands (s : State) (f : Fill) : State :=
  let live := match tget f.vidx s.churn.vocabs with | some v => v.gen == f.gen | none => false
  let free := fun w => !s.churn.lines.any (fun l => l.set == f.set && l.way == w && l.pinned)
  let s := match f.way with
    | some w => if live && free w then
        s.modChurn (fun c => c.place { tag := .image f.vidx f.gen f.line, set := f.set, way := w, pinned := c.pinsFill f })
      else s
    | none => s
  (f.streams.foldl (fun s i => s.modStream i (fun x => { x with waitFill := none, served := f.line :: x.served })) s).schedule

/-- VOCAB_FILL_DONE: a cellar error stops every stream that waits for the fill (R239). -/
def execVocabFillDone (t : Time) (vidx : BitVec 6) (line : Nat) (ok : Bool) (s : State) : Result1 :=
  let s := s.at t
  .next (match s.churn.fills.find? (fun f => f.vidx == vidx.toNat && f.line == line && f.issued) with
    | none => s
    | some f =>
      let s := s.modChurn (fun c => { c with fills := dropFirst (fun x => x == f) c.fills })
      let s := (s.celDone (.line f.vidx f.gen f.line)).issueAllFills
      if ok then s.fillLands f
      else f.streams.foldl (fun s i => (s.modStream i (fun x => { x with waitFill := none })).stopFault i 2) s.schedule)

/-- Ways of a mask. -/
def waysOf (m : BitVec 16) : Nat := (List.range 16).countP (fun i => bit m.toNat i)

/-- The highest-numbered way of a mask. -/
def topWay (m : BitVec 16) : Option Nat := ((List.range 16).reverse).find? (fun i => bit m.toNat i)

/-- Whether partition p has a lower miss density than q. -/
def Churn.lessDense (c : Churn) (p q : Nat) : Bool :=
  decide (c.misses.getD p 0 * waysOf (c.masks.getD q 0) < c.misses.getD q 0 * waysOf (c.masks.getD p 0))

/-- The first partition that no other of a list exceeds by an order. -/
def firstBest (less : Nat → Nat → Bool) (l : List Nat) : Option Nat := l.find? (fun p => l.all (fun q => !less p q))

/-- The move that R261 makes: from Q's highest way to P. -/
def Churn.retuneMove (c : Churn) : Option (Nat × Nat × Nat) :=
  let used := (List.range 16).filter (fun p => c.map.contains p)
  match firstBest (fun p q => c.lessDense p q) used,
      firstBest (fun p q => c.lessDense q p) (used.filter (fun p => decide (2 ≤ waysOf (c.masks.getD p 0)))) with
  | some p, some q =>
    if p ≠ q ∧ 2 * (c.misses.getD q 0 * waysOf (c.masks.getD p 0)) ≤ c.misses.getD p 0 * waysOf (c.masks.getD q 0) then
      (topWay (c.masks.getD q 0)).map (fun w => (p, q, w))
    else none
  | _, _ => none

/-- PARTITION_RETUNE, every 10 ms of AON time: a new epoch of misses begins. -/
def execPartitionRetune (t : Time) (s : State) : Result1 :=
  let s := s.at t
  .next (if !s.duty 3 then s
    else s.modChurn (fun c =>
      let zero := List.replicate 16 0
      if c.lock then { c with misses := zero }
      else match c.retuneMove with
        | some (p, q, w) =>
          let m := 1#16 <<< w
          { c with masks := lmod p (· ||| m) (lmod q (· &&& ~~~m) c.masks), moves := c.moves + 1, misses := zero }
        | none => { c with misses := zero }))

end Sys2Proof.Machine
end

