-- ==== Sys2Proof/Machine/Build.lean ====
section
/-! DEFINITION. A slot's next manifest entry (R166 to R169, R196, R198, R207, R208, R308, R310, R335) and the DECISION that
carries it (R147, R153). -/

namespace Sys2Proof.Machine

/-! ### Rennet: what a key's masks need (R196, R197) -/

/-- Cellar address of what a read brings, and its length: a key record, a map or a chunk. -/
def readAddr (g : Grammar) (k : FillKind) : Nat :=
  let at_ := fun i off => g.addr.toNat + g.secs.getD i 0 + off
  match k with
  | .state s c => (match g.states[s]? with | some e => at_ 3 (64 * (e.keyBase + c - e.klo)) | none => at_ 3 0)
  | .map m => at_ 6 (512 * m)
  | .chunk n => at_ 7 (512 * n)
def readLen (k : FillKind) : Nat := match k with | .state _ _ => 64 | _ => 512

/-- Ask the cellar for an item that no cache holds; one asked for at class 2 rises to class 1, which a command that has been
issued no longer feels (R16, R197). -/
def State.askItem (s : State) (g : Grammar) (cls : Nat) (k : FillKind) : State :=
  let i := gidxOf g.handle
  let v := gverOf g.handle
  let same := fun (r : RennetRead) => r.gidx == i && r.gver == v && r.kind == k && !r.dead
  if s.ren.has i v k then s
  else if s.ren.reads.any same then
    (s.modRen (fun n => { n with reads := lmodIf same (fun r => { r with cls := min r.cls cls }) n.reads })).modPorts
      (fun p => p.celRaise (.item i v k) cls)
  else
    (s.modRen (fun n => { n with reads := n.reads ++ [{ gidx := i, gver := v, kind := k, cls := cls }] })).celAccess
      (.item i v k) cls false (readAddr g k) (readLen k)

/-- Ask for several items of a grammar. -/
def State.askItems (s : State) (g : Grammar) (cls : Nat) (ks : List FillKind) : State := ks.foldl (fun s k => s.askItem g cls k) s

/-- A use of the items of a key, for the order of replacement. A prefetched key that a commit uses is no longer counted
unused (R202). -/
def Rennet.touch (n : Rennet) (gidx gver : Nat) (items : List FillKind) : Rennet :=
  let u := n.uses + 1
  let f := fun (c : CacheItem) => if c.gidx == gidx && c.gver == gver && items.contains c.kind then { c with used := u, prefetched := none } else c
  { n with uses := u, states := n.states.map f, chunks := n.chunks.map f }

/-- Pin the keys of a slot's rows for a step (R196). -/
def State.pinKeys (s : State) (f : Shape) (slot step : Nat) (g : Grammar) (sts : List GState) : State :=
  let keys := sts.map (fun q => (gidxOf g.handle, q.state, clsOf g q.stack))
  let s := s.releasePins slot step
  let s := s.modRen (fun n => { n with pinnedFor := n.pinnedFor ++
    [{ slot := slot, step := step, keys := keys, gver := gverOf g.handle, base := f.shardBase, len := f.shardLen }] })
  keys.foldl (fun s k =>
    let items := keyItems g f.shardBase f.shardLen k.2.1 k.2.2
    s.modRen (fun n => (n.touch (gidxOf g.handle) (gverOf g.handle) items).pin true (gidxOf g.handle) (gverOf g.handle) items)) s

/-! ### Drafts (R166 to R169, R208) -/

/-- The lowest depth of the stack while a token's bytes are walked. -/
def walkLow (g : Grammar) : List Byte → Nat → List Nat → Nat → Nat
  | [], _, _, low => low
  | b :: bs, s, st, low =>
    match gramStep g s b.toNat (st.headD 0) with
    | none => low
    | some t =>
      let st1 := if t.pop then st.tail else st
      let st2 := if t.push ≠ 0 then t.push :: st1 else st1
      walkLow g bs t.next st2 (min low st1.length)

/-- What the walk of R208 over candidates gives: the drafts, the state after each, and items to read for a later build. -/
structure DraftWalk where
  drafts : List TokenId := []
  path : List GState := []
  need : List FillKind := []
deriving DecidableEq, Repr

/-- The items that check 1 of R208 asks for: the key's entry, its map, and the chunk that covers the candidate. -/
def draftItems (g : Grammar) (st : GState) (t : TokenId) : List FillKind :=
  let c := clsOf g st.stack
  match keyMap g st.state c with
  | none => [.state st.state c]
  | some m =>
    let e := mapEntry g m (t.toNat / 4096)
    [.state st.state c, .map m] ++ (if e = 0xFFFE ∨ e = 0xFFFF then [] else [.chunk e])

/-- R208 over the candidates in order; `floor` is the depth below which the path may not fall. -/
def walkDrafts (g : Grammar) (str : TokenId → List Byte) (held : FillKind → Bool) (floor : Nat) : GState → List TokenId → DraftWalk
  | _, [] => {}
  | st, t :: ts =>
    let miss := (draftItems g st t).filter (fun k => !held k)
    if miss ≠ [] then { need := miss }
    else if !maskBit g st.state (clsOf g st.stack) t then {}
    else match walkToken g str 0 st t with
      | .ok st' =>
        if walkLow g (if g.ends.contains t then [] else str t) st.state st.stack st.stack.length < floor then {}
        else
          let r := walkDrafts g str held floor st' ts
          { r with drafts := t :: r.drafts, path := st' :: r.path }
      | _ => {}

/-- The sequence of a request: its prompt and its committed output. -/
def Request.seq (r : Request) : List TokenId := r.prompt ++ r.outToks

/-- The largest number of drafts of an entry (R169 step 1). -/
def Request.draftLimit (r : Request) (f : Shape) : Nat :=
  if r.spec.src = 0 ∨ r.spec.dmax = 0 then 0
  else
    let a := min (min r.dcur (f.feedWidth - 1)) (r.allowance - r.outToks.length - 1)
    if r.spec.src = 3 then min a f.draftRows else a

/-- Candidates of an entry (R166, R167), and whether a posted set is stale. -/
def Request.candidates (r : Request) (limit : Nat) : List TokenId × Bool :=
  if r.spec.src = 1 then (lookupDrafts r.seq r.spec.lookupN limit, false)
  else match r.posted with
    | none => ([], false)
    | some (pos0, toks) => match postedDrafts r.seq r.pos pos0 toks limit with
      | some l => (l, false)
      | none => ([], true)

/-- The drafts of a request's next entry with the grammar states after them. -/
def State.chooseDrafts (s : State) (f : Shape) (r : Request) : State × DraftWalk :=
  if r.spec.src = 0 ∨ r.spec.dmax = 0 then (s, {})
  else
    let limit := r.draftLimit f
    let (cands, stale) := r.candidates limit
    let s := if stale then s.modReq r.handle (fun r => { r with posted := none, tele := { r.tele with staleSets := r.tele.staleSets + 1 } }) else s
    match r.grammar.bind s.grammarOf, r.gstate with
    | some g, some st =>
      let w := walkDrafts g (strOf (s.reqVocab r)) (fun k => s.ren.has (gidxOf g.handle) (gverOf g.handle) k) (st.stack.length - 8) st cands
      (s.askItems g 1 w.need, w)
    | _, _ => (s, { drafts := cands })

/-- A build begins: it chooses the drafts now and reads the posted set this once (R169). -/
def State.newBuild (s : State) (f : Shape) (step : Nat) (decodes : Bool) (r : Request) : State × NextBuild :=
  let c := if decodes then s.chooseDrafts f r else (s, {})
  let b : NextBuild := { step := step, drafts := c.2.drafts, path := c.2.path }
  (c.1.modReq r.handle (fun r => { r with building := some b }), b)

/-- The build of a request's next entry: the one begun for the step, or a new one (R169). -/
def State.beginBuild (s : State) (f : Shape) (step : Nat) (decodes : Bool) (r : Request) : State × NextBuild :=
  match r.building with
  | some b => if b.step = step then (s, b) else s.newBuild f step decodes r
  | none => s.newBuild f step decodes r

/-! ### Entries -/

/-- What a slot's next entry is to be. -/
inductive Plan where
  | idle
  | hold                                           -- not written yet: no verdict, a turn due, masks or adapter not there
  | dry (cause : Nat)
  | live (e : Entry) (r : TokRecord) (path : List GState) (keys : List GState)
deriving DecidableEq, Repr

/-- An IDLE entry. -/
def idleEntry (step : Nat) : Entry := { step := step }

/-- A DRY entry that firmware writes for a request. -/
def dryEntry (r : Request) (cause step : Nat) : Entry :=
  { kind := .dry, dryCause := cause, req := r.handle, pos := r.pos, step := step, pass := r.pass }

/-- Adapter fields of a request's LIVE entry for a step: its residency slot where the version was resident by the cutoff
(R335). -/
def State.adapterSlot (s : State) (step : Nat) (r : Request) : Option (Option Nat) :=
  if r.adapter = 0 then some none
  else match s.stw.versions.find? (fun v => v.handle == r.adapter) with
    | some v => if v.resident && v.lateFor != some step then v.rslot.map some else none
    | none => none

/-- A LIVE entry feeding some tokens at the request's position. -/
def liveEntry (r : Request) (step : Nat) (ad : Option Nat) (prefill : Bool) (toks : List TokenId) : Entry × TokRecord :=
  ({ kind := .live, spec := !prefill && decide (1 < toks.length), prefill := prefill, first := !r.firstIssued, feed := toks.length,
     adslot := ad.getD 0, noAdapter := ad.isNone, req := r.handle, pos := r.pos, tok0 := toks.headD tokNone, step := step, pass := r.pass },
   { toks := slice8 toks.tail, req := r.handle, step := step })
where
  slice8 (l : List TokenId) : List TokenId := l.take 8 ++ List.replicate (8 - l.length) tokNone

/-- What a SLOTTED request feeds next: prompt tokens, or the token committed last with its drafts (R308, R310); none when
it has nothing to feed. -/
inductive Feed where
  | nothing
  | prompt (toks : List TokenId)
  | decode (tok : TokenId)
deriving DecidableEq, Repr

/-- The feed of a request. -/
def Request.feed (r : Request) (f : Shape) : Feed :=
  match r.last with
  | some t => .decode t
  | none => if r.unfed = 0 then .nothing else .prompt ((r.prompt.drop r.fed).take (min f.feedWidth r.unfed))

/-- Whether a customer may be served: HARD ones only in ration (R320). -/
def State.servable (s : State) (cust : Nat) : Bool :=
  match s.customer cust with | some c => !c.hard || decide (0 ≤ c.levelAt s.now) | none => false

/-- The leader of a partner (R316), or the request itself. -/
def State.leaderOf (s : State) (r : Request) : Request := if r.sampling.follow then (s.findReq r.sampling.partner).getD r else r

/-- Whether a request may be taken out of its slot: EVICTABLE, and its partner's too, since a pair leaves together (R323). -/
def State.mayLeave (s : State) (r : Request) : Bool :=
  r.evictable && match r.other.bind s.findReq with | some o => o.evictable | none => true

/-- Whether a request's slot opens at the next build: it has held it for TURN steps of its pool since it was last picked,
counted for the leader of a pair (R323). -/
def State.turnDue (s : State) (r : Request) : Bool :=
  let l := s.leaderOf r
  match s.customer l.customer with
  | none => false
  | some c =>
    let turn := (s.rat.pools.getD c.pool {}).turn
    s.mayLeave r && turn != 0 && decide (turn ≤ l.turnSteps)

/-- The ready test of R198 over the states that mask the entry's rows: misses are read at class 1. A test that the cutoff finds
not passed comes too late. -/
def State.readyTest (s : State) (f : Shape) (r : Request) (b : NextBuild) (keys : List GState) : State × Bool :=
  if keys.isEmpty then (s, true)
  else match r.grammar.bind s.grammarOf with
    | none => (s, r.grammar.isNone)
    | some g =>
      let miss := (keys.flatMap (fun q => s.keyMisses g f.shardBase f.shardLen q.state (clsOf g q.stack))).eraseDups
      let pass := miss.isEmpty && (b.ready || !s.shell.cutoff)
      ((s.askItems g 1 miss).modReq r.handle (fun r => { r with building := some { b with ready := b.ready || pass } }), pass)

/-- Whether a request's pail has spilled under HOLD and the read that decides its pause is out (R295). No entry is made until
the read ends (DESIGN CHOICE, notes/assumptions/148.md). -/
def Request.spilling (r : Request) : Bool := !r.out.drop && !r.pail.spill.isEmpty && r.pail.reading

/-- The plan of a request's next entry under a shape, for a step. -/
def State.plan (s : State) (f : Shape) (step : Nat) (r : Request) : State × Plan :=
  if !r.verdict || r.unwritten == some step || r.spilling || s.turnDue r then (s, .hold)
  else if r.st ≠ .slotted ∨ r.moving ∨ !s.servable r.customer then (s, .idle)
  else match r.feed f with
    | .nothing => (s, .idle)
    | feed =>
      let prefill := match feed with | .prompt _ => true | _ => false
      let (s, b) := s.beginBuild f step (!prefill) r
      let toks := match feed with | .decode t => t :: b.drafts | .prompt l => l | .nothing => []
      let rows := if prefill then decide (r.streamEnded && r.fed + toks.length == r.prompt.length) else true
      let keys := if rows then (match r.gstate with | some q => q :: b.path | none => []) else []
      let t := s.readyTest f r b keys
      match s.adapterSlot step r, t.2 with
      | some ad, true => let e := liveEntry r step ad prefill toks; (t.1, .live e.1 e.2 b.path keys)
      | _, false => (t.1, if s.shell.cutoff then .dry dryMaskLate else .hold)
      | none, true => (t.1, if s.shell.cutoff then .dry dryAdapterLate else .hold)

/-- Leader and partner are issued LIVE together or not at all (R123). -/
def Plan.withPartner (a b : Plan) : Plan :=
  match a, b with
  | .live e r p k, .live _ _ _ _ => .live e r p k
  | .live _ _ _ _, b => b
  | .idle, _ => .idle
  | .dry c, .hold => .dry c
  | a, _ => a

/-! ### Decisions (R147, R153) -/

/-- The grammar state record of a request (R187). -/
def Request.gramRecord (r : Request) : Nat := Machine.gramRecord (match r.grammar, r.gstate with | some h, some q => some (h, q) | _, _ => none)

/-- Send the DECISION of a slot's next entry: spread from the root, or to the ROOT window. -/
def State.sendDecision (s : State) (slot : Nat) (e : Entry) (rec_ : TokRecord) : State :=
  match s.rounds, s.shapeNow with
  | some c, some f =>
    let q := s.reqOfSlot slot
    let d : Decision :=
      { entry := e, record := rec_, toks := match q with | some r => r.untold | none => [],
        gram := match q with | some r => r.gramRecord | none => 0,
        sampling := match q with | some r => r.sampling | none => {}, penalty := (tget slot s.drw.penalty).getD [] }
    let h : MsgHeader := { kind := kDecision, src := c.die, step := s.shell.step, slot := slot, req := (s.entry slot).req }
    let s := if c.parent = 0xFFFF then s.spreadOn c f h 0 d.cells else s.post 1 c.rootAddr (listBase f c.nb s.shell.step slot 0 11) h d.cells
    match q with | some r => s.modReq r.handle (fun r => { r with untold := [] }) | none => s
  | _, _ => match s.reqOfSlot slot with | some r => s.modReq r.handle (fun r => { r with untold := [] }) | none => s

/-! ### Writing an entry -/

/-- Whether the build buffer of a step holds an IDLE entry that firmware wrote for a slot. -/
def State.hasIdle (s : State) (slot step : Nat) : Bool :=
  match s.shell.building with
  | some b => b.step == step && b.cells.any (fun c => c.1 == slot && c.2.1.kind == .idle)
  | none => false

/-- Write a slot's entry and send its DECISION. -/
def State.putPlan (s : State) (slot step : Nat) (r : Option Request) (p : Plan) : State :=
  match p, r with
  | .hold, _ => s
  | .dry c, some r =>
    let e := dryEntry r c step
    (s.writeEntry slot e { req := r.handle, step := step }).sendDecision slot e { req := r.handle, step := step }
  | .live e q path keys, some r =>
    let s := ((s.writeEntry slot e q).modReq r.handle (fun r => { r with pathStates := path })).useHot r.handle
    let s := match r.grammar.bind s.grammarOf, s.shell.building with
      | some g, some b => if keys ≠ [] ∧ step = b.step then s.pinKeys b.shape slot step g keys else s
      | _, _ => s
    let s := if e.noAdapter then s else s.modStw (fun w => { w with named := tput e.adslot step w.named })
    s.sendDecision slot e q
  | _, _ =>
    if s.hasIdle slot step then s
    else (s.writeEntry slot (idleEntry step) { step := step }).sendDecision slot (idleEntry step) { step := step }

/-- The step that entries are built for. -/
def State.nextStep (s : State) : Nat := s.shell.step + 1

/-- Whether a slot's entry for the next step stands in the build buffer or waits for it, other than IDLE. -/
def State.written (s : State) (slot : Nat) : Bool :=
  (match s.shell.building with
    | some b => b.step == s.nextStep && b.cells.any (fun c => c.1 == slot && c.2.1.kind != .idle)
    | none => false)
  || s.shell.held.any (fun w => w.1 == slot && (match entryOf w.2.1.toNat with | some e => e.kind != .idle && e.step == s.nextStep | none => false))

/-- Apply a SET_GRAMMAR that waits: the old state is replaced at the first entry built after it (R192). -/
def State.switchGrammar (s : State) (r : Request) : State :=
  match r.switchTo with
  | none => s
  | some g => s.modReq r.handle (fun r =>
      { r with switchTo := none, startKey := g.isSome, grammar := g.map (fun x => x.1),
               gstate := g.map (fun x => ({ state := x.2 } : GState)), pathStates := [], building := none })

/-- An image fault of the key that a state leads to, where the state has none (R227). -/
def State.logDeadKey (s : State) (g : Grammar) (q : GState) : State :=
  match keyFault g q.state (clsOf g q.stack) with
  | some 4 => s.logReadFault g (4, q.state)
  | _ => s

/-- The state of a request whose start key has DEAD set ends it (R420): the reason, 0 for none. -/
def State.startDead (s : State) (r : Request) : Nat :=
  match r.grammar.bind s.grammarOf, r.gstate with
  | some g, some q => if r.startKey && stateDead g q then (if stateAccepts g q then endGrammarComplete else endNoValidToken) else 0
  | _, _ => 0

/-- Whether a request's version is faulted (R336). -/
def State.adapterFaulted (s : State) (r : Request) : Bool := s.stw.versions.any (fun v => v.handle == r.adapter && v.faulted)

/-- End a request whose start key is dead (R420): a start state without a key is logged (R227). -/
def State.endStartDead (s : State) (r : Request) : State :=
  let reason := s.startDead r
  if reason = 0 then s
  else
    let s := match r.grammar.bind s.grammarOf, r.gstate with | some g, some q => s.logDeadKey g q | _, _ => s
    s.endOutput r.handle reason true

/-- Ends that a build finds for a request in a slot: a dead start key or a faulted adapter version. -/
def State.buildEnds (s : State) (h : Handle) : State :=
  match s.findReq h with
  | none => s
  | some r =>
    let s := s.switchGrammar r
    let r := (s.findReq h).getD r
    if s.startDead r ≠ 0 then s.endStartDead r
    else if s.adapterFaulted r then s.endOutput h endAdapterFault true
    else s

/-- Build the next entry of the request in a slot, if it can be built now: a step duty of CC2 (R340). -/
def State.buildSlot (s : State) (slot : Nat) : State :=
  if !s.duty 2 then s
  else match s.reqOfSlot slot, s.shell.building with
  | some r, some b =>
    let s := s.buildEnds r.handle
    match s.reqOfSlot slot with
    | none => s
    | some r =>
      let s := s.sweepPins slot s.shell.step
      let (s, p) := s.plan b.shape s.nextStep r
      match r.other.bind s.findReq with
      | none => s.putPlan slot s.nextStep (some r) p
      | some o => match o.slot with
        | none => s.putPlan slot s.nextStep (some r) .idle
        | some i =>
          let (s, q) := s.plan b.shape s.nextStep o
          let s := s.putPlan slot s.nextStep (some r) (p.withPartner q)
          if s.written i then s else s.putPlan i s.nextStep (some o) (q.withPartner p)
  | _, _ => s

/-- Try again a slot whose entry can be written and is not. -/
def State.retryBuild (s : State) (slot : Nat) : State :=
  if !s.shell.frozen && (s.reqOfSlot slot).isSome && s.outcomeKnown slot && !s.written slot && !s.hasIdle slot s.nextStep then s.buildSlot slot
  else s

/-- Try again every homed slot. -/
def State.retryBuilds (s : State) : State := (List.range s.reqs.home.2).foldl (fun s i => s.retryBuild (s.reqs.home.1 + i)) s

end Sys2Proof.Machine
end

