-- ==== Sys2Proof/Machine/Commit.lean ====
section
/-! DEFINITION. COMMIT: the tokens of a slot's step, or its dry result (R15, R18, R122, R176 to R179, R206, R207,
R309 to R316). -/

namespace Sys2Proof.Machine

/-! ### Marks of committed tokens (R76, R77) -/

/-- NAN and NANWIN of each committed token: token i comes from main row i. -/
def State.nanMarks (s : State) (slot : Nat) (h : Handle) (posn : Nat) (d : Decided) : List (TokenId × Bool × Bool) :=
  d.toks.zipIdx.map (fun p =>
    let row := (s.mergedSel slot h (fun x => x.posn == (if d.verify.isSome then p.2 else posn))).map (fun x => x.2)
    (p.1, match row with | some m => statBit m.res.selstat 1 | none => false, d.nans.getD p.2 false))

/-! ### Counting a commit -/

/-- Times and counts of a commit (Table 13-9, R178). -/
def Telemetry.commit (t : Telemetry) (now n : Nat) (d : Decided) (nanwin noDraft : Bool) : Telemetry :=
  let t := if n = 0 then t else
    { t with tFirstToken := if t.tFirstToken = 0 then now else t.tFirstToken,
             maxGap := if t.tLastCommit = 0 then t.maxGap else max t.maxGap (now - t.tLastCommit), tLastCommit := now }
  let t := { t with rechecks := t.rechecks + d.rechecks, settles := t.settles + d.settles, nanWin := t.nanWin + b2n nanwin,
                    wastedRows := t.wastedRows + d.wasted, noDraftSteps := t.noDraftSteps + b2n noDraft }
  match d.verify with
  | none => t
  | some v => { t with specSteps := t.specSteps + 1, draftsFed := t.draftsFed + v.fed, draftsAccepted := t.draftsAccepted + v.accepted,
                       draftsWasted := t.draftsWasted + (v.fed - v.accepted) }

/-- The draft length after a step (R179). -/
def Request.adapt (r : Request) (d : Decided) : Request :=
  match d.verify with
  | some v => if v.fed = 0 ∨ v.ending = 2 then r else
      let a := adaptLength r.spec r.dcur r.window v.fed v.accepted
      { r with dcur := a.1, window := a.2 }
  | none => r

/-- What a commit does to a request: prompt tokens fed, tokens committed, position, step count, grammar state
(R129, R207, R310). -/
def Request.commit (r : Request) (now fed : Nat) (d : Decided) (nanwin : Bool) : Request :=
  let n := d.toks.length
  let decodes := r.last.isSome
  let r := { r with fed := r.fed + fed, pos := r.pos + (if decodes then n else fed), outToks := r.outToks ++ d.toks,
                    last := match d.toks.getLast? with | some t => some t | none => r.last, untold := d.toks,
                    rstep := if n = 0 then r.rstep else r.rstep + 1,
                    gstate := if n = 0 then r.gstate else match d.state with | some q => some q | none => r.gstate,
                    startKey := r.startKey && n == 0,
                    tele := r.tele.commit now n d nanwin (decodes && d.verify.isNone && r.spec.src != 0 && r.spec.dmax != 0) }
  r.adapt d

/-- Whether a cancellation ends a request at its slot's commit or dry result: its own, or the other's of its pair (R313,
R316). -/
def State.cancelled (s : State) (r : Request) : Bool :=
  r.cancel || match r.other.bind s.findReq with | some o => o.cancel | none => false

/-- The end reason of a commit, the lowest of those that hold (R206, R312, R313); 0 for none. -/
def State.commitEnd (s : State) (r : Request) (d : Decided) : Nat :=
  let tok := match d.toks.getLast? with | some t => s.tokenEnd r t r.gstate r.outToks.length | none => 0
  minNonZero [tok, d.reason, if r.cancel then endCancelled else 0]

/-- Hand a commit to the skimmer. -/
def State.handSkim (s : State) (h : Handle) (toks : List (TokenId × Bool × Bool)) (fin : Option Nat) : State :=
  s.modSkim (fun k => { k with work := k.work ++ [{ req := h, toks := toks, finish := fin }] })

/-- Count a commit for its grammar's image, and whether its next key passed the ready test at once (R202). -/
def State.countGrammar (s : State) (h : Handle) : State :=
  match s.findReq h with
  | none => s
  | some r => match r.grammar.bind s.grammarOf, r.gstate, s.shell.building with
    | some g, some q, some b =>
      let hit := (s.keyMisses g b.shape.shardBase b.shape.shardLen q.state (clsOf g q.stack)).isEmpty
      s.modRen (fun n =>
        let u := (tget (gidxOf g.handle) n.tune).getD {}
        let steps := if u.lastStep == some s.shell.step then u.steps else u.steps + 1
        let u := { u with commits := u.commits + 1, hits := u.hits + b2n hit, steps := steps, lastStep := some s.shell.step }
        { n with tune := tput (gidxOf g.handle) u n.tune })
    | _, _, _ => s

/-- A commit has led a request to a state without a key: an image fault (R227). -/
def State.logDeadEnd (s : State) (h : Handle) : State :=
  match s.findReq h with
  | none => s
  | some r => match r.grammar.bind s.grammarOf, r.gstate with | some g, some q => s.logDeadKey g q | _, _ => s

/-- Commit tokens for one request in its slot. A partner's are served and not charged (R316, R319, R324). -/
def State.commitOne (s : State) (r : Request) (slot fed : Nat) (d : Decided) (marks : List (TokenId × Bool × Bool)) : State :=
  let n := d.toks.length
  let nanwin := marks.any (fun m => m.2.2)
  let s := (s.modReq r.handle (fun r => r.commit s.now fed d nanwin)).useHot r.handle
  let s := s.modDrw (fun w => { w with penalty := tput slot (d.toks.foldl penaltyCommit ((tget slot w.penalty).getD [])) w.penalty })
  let s := if fed = 0 then s else s.serve1 r.customer (fun iw => iw * fed)
  let s := if n = 0 ∨ r.sampling.follow then s else s.chargeReq r (fun _ => 256 * n) 0
  if n = 0 then s else ((s.serve1 r.customer (fun _ => 256 * n)).countGrammar r.handle).logDeadEnd r.handle

/-- Mark a slot's outcome as known: its decision is used up, and its selections are no longer drawn from. -/
def State.settleSlot (s : State) (slot : Nat) : State :=
  let s := s.modReqs (fun q => { q with settled := if q.settled.contains slot then q.settled else slot :: q.settled,
                                        decided := q.decided.filter (fun d => d.slot != slot) })
  s.modColl (fun c => { c with sels := lmodIf (fun x => x.slot == slot) (fun x =>
    { x with taken := true, merged := none, root := if x.merged.isSome then none else x.root }) c.sels })

/-! ### The next entry after a commit -/

/-- What follows a commit of a request in a slot: its end, the wait for the skimmer's verdict (R282), or its next
entry. -/
def State.afterCommit (s : State) (h : Handle) (slot : Nat) (reason : Nat) : State :=
  match s.findReq h with
  | none => s
  | some r =>
    if reason ≠ 0 then s.endOutput h reason false
    else if r.verdict then s.buildSlot slot
    else s

/-- A request with a stop set waits for the skimmer's verdict on a commit of tokens. -/
def State.awaitVerdict (s : State) (r : Request) (n reason : Nat) : State :=
  if n ≠ 0 ∧ r.out.stop.isSome ∧ reason = 0 then s.modReq r.handle (fun r => { r with verdict := false }) else s

/-- Commit what has been decided for a slot, for its request and its partner (R18, R316). -/
def State.commitDecided (s : State) (r : Request) (slot fed posn : Nat) (d : Decided) : State :=
  let marks := s.nanMarks slot r.handle posn d
  let s := s.commitOne r slot fed d marks
  let part := (r.other.bind s.findReq).bind (fun o => o.slot.map (fun i => (o, i)))
  let dp : Decided := { slot := 0, toks := d.toks }
  let s := match part with | some (o, i) => (s.commitOne o i (if o.last.isNone then fed else 0) dp marks).settleSlot i | none => s
  let s := s.settleSlot slot
  let now := (s.findReq r.handle).getD r
  let pend := match part with | some (o, _) => (match s.findReq o.handle with | some q => s.commitEnd q dp | none => 0) | none => 0
  let reason := minNonZero [s.commitEnd now d, pend]
  let fin := if reason = 0 then none else some reason
  let s := s.handSkim r.handle marks fin
  let s := match part with | some (o, _) => (s.handSkim o.handle marks fin).awaitVerdict o d.toks.length reason | none => s
  (s.awaitVerdict r d.toks.length reason).afterCommit r.handle slot reason

/-- A prefill step that stores no row, not dry: the request moves on by FEED (R309). -/
def State.commitPrefill (s : State) (r : Request) (slot : Nat) : State :=
  let e := s.entry slot
  let move := fun (s : State) (q : Request) (n : Nat) =>
    (s.modReq q.handle (fun q => { q with fed := q.fed + n, pos := q.pos + n })).serve1 q.customer (fun iw => iw * n)
  let s := (move s r e.feed).settleSlot slot
  let s := match (r.other.bind s.findReq) with
    | some o => match o.slot with
      | some i => if s.rowless i then (move s o (s.entry i).feed).settleSlot i else s
      | none => s
    | none => s
  if s.cancelled r then s.endOutput r.handle endCancelled true else s.buildSlot slot

/-- Rows of a dry slot: their work is lost, but for a row between slab looks (R113). -/
def State.dropDryRows (s : State) (slot : Nat) : State :=
  let keep := fun (r : Row) => r.slot != slot || (match r.slab with | some b => b.figures.isSome | none => false)
    || ((s.roundsAt r.step).isSome && (match s.sel r.step r.slot r.posn with | some x => x.own.isNone | none => true))
  s.dropRows (fun r => !keep r)

/-- The dry result of a slot (R15, R178, R313): nothing is committed and the next entry is built afresh. -/
def State.commitDry (s : State) (r : Request) (slot : Nat) : State :=
  let e := s.entry slot
  let lost := if e.spec && e.req == r.handle then e.feed - 1 else 0
  let s := (s.modReq r.handle (fun r => { r with tele := { r.tele with draftsLostDry := r.tele.draftsLostDry + lost } })).settleSlot slot
  let s := s.dropDryRows slot
  let s := match (r.other.bind s.findReq).bind (fun o => o.slot) with | some i => (s.settleSlot i).dropDryRows i | none => s
  if s.cancelled r then s.endOutput r.handle endCancelled true else s.buildSlot slot

/-! ### COMMIT -/

/-- A pair runs dry together, with the cause of the slot that is dry (R123). -/
def State.dryTogether (s : State) (slot : Nat) (partner : Option Nat) : State :=
  match partner with
  | none => s
  | some i => match s.dryOf slot, s.dryOf i with
    | some c, none => s.markDry i c
    | none, some c => s.markDry slot c
    | _, _ => s

/-- What there is to commit for a request's slot. -/
def State.commitSlot (s : State) (r : Request) (slot : Nat) : State :=
  let live := (s.entry slot).kind == .live && (s.entry slot).req == r.handle
  if live && (s.dryOf slot).isSome then s.commitDry r slot
  else match s.mergedSel slot r.handle (fun _ => true) with
    | none => s
    | some (x, p) =>
      if p.dryCause ≠ 0 then s.commitDry r slot
      else match s.reqs.decided.find? (fun d => d.slot == slot) with
        | some d => s.commitDecided r slot (if r.last.isNone then x.posn + 1 else 0) x.posn d
        | none => if s.rowless slot && x.step == s.shell.step then s.commitPrefill r slot else s

/-- COMMIT, by CC1: the commit of a partner's slot is its leader's. -/
def execCommit (t : Time) (slot : BitVec 12) (s : State) : Result1 :=
  let s := s.at t
  .next (if !s.duty 1 then s
    else match s.reqOfSlot slot.toNat with
      | none => s
      | some q =>
        let r := s.leaderOf q
        match r.slot with
        | none => s
        | some i =>
          if s.reqs.settled.contains i then s
          else (s.dryTogether i ((r.other.bind s.findReq).bind (fun o => o.slot))).commitSlot r i)

end Sys2Proof.Machine
end

