-- ==== Sys2Proof/Machine/Fill.lean ====
section
/-! DEFINITION. MANIFEST_BUILD and MASK_CUTOFF: slots that open, the arbiters that fill them, residency slots and the
entries of the next step (R198, R301 to R303, R306, R308, R314, R320 to R323, R332 to R335). -/

namespace Sys2Proof.Machine

/-! ### Slots taken and left -/

/-- A request takes a slot: the penalty list it kept goes with it, and its next LIVE entry carries FIRST. -/
def State.takeSlot (s : State) (h : Handle) (slot : Nat) : State :=
  match s.findReq h with
  | none => s
  | some r =>
    let s := (s.modDrw (fun w => { w with penalty := tput slot r.penalty w.penalty })).tick
    s.modReq h (fun r => { r.goTo s.now .slotted with slot := some slot, firstIssued := false, turnSteps := 0, penalty := [],
                                                       lastUse := s.reqs.order })

/-- A request leaves its slot for a state, keeping its penalty list (R122). -/
def State.leaveSlot (s : State) (h : Handle) (st : ReqState) : State :=
  match s.findReq h with
  | none => s
  | some r => match r.slot with
    | none => s
    | some i =>
      let pen := (tget i s.drw.penalty).getD []
      let s := (s.modDrw (fun w => { w with penalty := tdel i w.penalty })).modReq h (fun r => { r with slot := none, penalty := pen })
      let s := s.useHot h
      if st = .waiting then s.makeWaiting h else s.modReq h (fun r => if r.st = st then r else r.goTo s.now st)

/-- The state that a request leaves its slot for: PAUSED stays PAUSED, one whose prefill has run short goes back to
ENCODING (R308), any other waits. -/
def Request.leavesFor (r : Request) : ReqState :=
  if r.st = .paused then .paused
  else if r.last.isNone ∧ r.unfed = 0 ∧ ¬ r.streamEnded then .encoding
  else .waiting

/-- A request and its partner leave their slots. -/
def State.leavePair (s : State) (r : Request) : State :=
  let s := s.leaveSlot r.handle r.leavesFor
  match r.other.bind s.findReq with | some o => s.leaveSlot o.handle o.leavesFor | none => s

/-- Whether a request in a slot has nothing to do there: PAUSED (R314), of a HARD customer that is borrowing (R320), or
with a prefill that has run short (R308). -/
def State.stalled (s : State) (r : Request) : Bool :=
  r.st == .paused || !s.servable r.customer || (r.last.isNone && r.unfed == 0 && !r.streamEnded)

/-- Whether a request is SLOTTED, cancelled, and has no entry that could still be met by a commit or a dry result
(R313). -/
def State.cancelDue (s : State) (r : Request) (slot : Nat) : Bool := r.cancel && s.outcomeKnown slot && !s.written slot

/-- What the build does with the occupant of a homed slot before any slot is filled. -/
def State.vacate (s : State) (slot : Nat) : State :=
  match s.reqOfSlot slot with
  | none => s
  | some r =>
    if !s.outcomeKnown slot || s.written slot then s
    else
      let s := s.buildEnds r.handle
      match s.reqOfSlot slot with
      | none => s
      | some r =>
        if s.cancelDue r slot then s.endOutput r.handle endCancelled true
        else if s.stalled r && s.mayLeave r then s.leavePair r
        else s

/-! ### Opened slots (R323) -/

/-- Leaders and single requests whose slots open at this build: they compete as requests that have waited since it. -/
def State.openings (s : State) (slots : List Nat) : List Handle :=
  slots.filterMap (fun i => match s.reqOfSlot i with
    | some r =>
      let free := fun (q : Request) => match q.slot with | some j => s.outcomeKnown j && !s.written j | none => false
      let both := free r && match r.other.bind s.findReq with | some o => free o | none => true
      if !r.sampling.follow && r.st == .slotted && both && s.turnDue r then some r.handle else none
    | none => none)

/-- Give the occupants of opened slots their place in the order of waiting. -/
def State.queueOpened (s : State) (hs : List Handle) : State :=
  hs.foldl (fun s h => let s := s.tick; s.modReq h (fun r => { r with eligible := s.reqs.order })) s

/-! ### The arbiters (R320 to R322) -/

/-- Whether a request waits for a slot or competes again for its own. -/
def State.competes (s : State) (opened : List Handle) (r : Request) : Bool :=
  !r.moving && !r.sampling.follow && (r.st == .waiting || opened.contains r.handle)
    && (!r.sampling.hasPartner || match s.findReq r.sampling.partner with
      | some o => !o.moving && (o.st == .waiting || opened.contains r.handle)
      | none => false)

/-- Free slots of one batch group, lowest first, where two are left. -/
def pairSlots (g : Nat) (free : List Nat) : Option (Nat × Nat) :=
  (free.filterMap (fun i => ((free.filter (fun j => decide (i < j) && j / g == i / g)).head?).map (fun j => (i, j)))).head?

/-- Requests that may be picked now: a leader only while two slots of one group are free. -/
def State.pickable (s : State) (g : Nat) (free : List Nat) (opened : List Handle) : List Request :=
  (s.reqs.table.map (fun p => p.2)).filter (fun r => s.competes opened r
    && (!r.sampling.hasPartner || opened.contains r.handle || (pairSlots g free).isSome))

/-- Down the hierarchy: the pool with the smallest pass, its customer with the smallest pass, and that customer's request
that has waited longest. -/
def State.descend (s : State) (rs : List Request) : Option Request :=
  let pools := (List.range 16).filter (fun p => rs.any (fun r => match s.customer r.customer with | some c => c.pool == p | none => false))
  match leastBy (fun p => (s.rat.pools.getD p {}).pass) pools with
  | none => none
  | some p =>
    let custs := s.rat.customers.filter (fun c => c.2.pool == p && rs.any (fun r => r.customer == c.1))
    match leastBy (fun (c : Nat × Customer) => c.2.pass) custs with
    | none => none
    | some c => leastBy (fun (r : Request) => r.eligible) (rs.filter (fun r => r.customer == c.1))

/-- Whether a customer is in ration (R320). -/
def State.inRation (s : State) (cust : Nat) : Bool := match s.customer cust with | some c => decide (0 ≤ c.levelAt s.now) | none => false

/-- The pick for a free slot, in two tiers. -/
def State.pick (s : State) (g : Nat) (free : List Nat) (opened : List Handle) : Option Request :=
  let rs := s.pickable g free opened
  let soft := fun (r : Request) => match s.customer r.customer with | some c => !c.hard | none => false
  match s.descend (rs.filter (fun r => s.inRation r.customer)) with
  | some r => some r
  | none => s.descend (rs.filter (fun r => !s.inRation r.customer && soft r))

/-! ### Filling the slots (R322, R323) -/

/-- A pick that takes no slot: a leader or a partner whose record is cold. -/
def State.coldPick (s : State) (r : Request) : Bool :=
  !r.hot || match r.other.bind s.findReq with | some o => !o.hot | none => false

/-- The occupant of an opened slot that another takes leaves it. -/
def State.ousted (s : State) (slot : Nat) : State := match s.reqOfSlot slot with | some r => s.leavePair r | none => s

/-- Slots that a request and its partner hold. -/
def State.ownSlots (s : State) (r : Request) : List Nat :=
  r.slot.toList ++ (match r.other.bind s.findReq with | some o => o.slot.toList | none => [])

/-- Fill the free slots, in ascending order; the count bounds the picks. -/
def State.fillSlots (g : Nat) : Nat → List Nat → List Handle → State → State
  | 0, _, _, s => s
  | n + 1, free, opened, s => match free with
    | [] => s
    | i :: rest => match s.pick g free opened with
      | none => s
      | some r =>
        let restart := fun (q : Request) => { q with turnSteps := 0 }
        if s.coldPick r then
          let s := s.bringHot r.handle
          State.fillSlots g n free opened (match r.other with | some o => s.bringHot o | none => s)
        else if opened.contains r.handle then
          let s := s.modReq r.handle restart
          let s := match r.other with | some o => s.modReq o restart | none => s
          State.fillSlots g n (free.filter (fun j => !(s.ownSlots r).contains j)) (opened.filter (fun h => h != r.handle)) s
        else
          let here := fun (s : State) (j : Nat) (h : Handle) => (s.ousted j).takeSlot h j
          let gone := fun (j : Nat) => opened.filter (fun h => match s.reqOfSlot j with | some q => h != q.handle && some h != q.other | none => true)
          match r.other, pairSlots g free with
          | some o, some (a, b) =>
            let left := (gone a).filter (fun h => (gone b).contains h)
            State.fillSlots g n (free.filter (fun j => j != a && j != b)) left (here (here s a r.handle) b o)
          | some _, none => s
          | none, _ => State.fillSlots g n rest (gone i) (here s i r.handle)

/-! ### Backlogs (R321, R324) -/

/-- Whether a customer holds a SLOTTED or eligible WAITING request. -/
def State.busyCustomer (s : State) (cust : Nat) : Bool :=
  s.reqs.table.any (fun p => p.2.customer == cust && (p.2.st == .slotted || (p.2.st == .waiting && s.servable cust)))

/-- The pass of a child that becomes backlogged: the larger of its own and the smallest among its backlogged siblings. -/
def joinPass (own : Nat) (siblings : List Nat) : Nat := match siblings.min? with | some m => max own m | none => own

/-- Customers and pools that have become backlogged take their pass, and the epoch's count of builds moves on. -/
def State.joinBacklogs (s : State) : State :=
  let old := s.rat.customers
  let busy := fun (c : Nat) => s.busyCustomer c
  let custs := old.map (fun p =>
    let b := busy p.1
    let sib := (old.filter (fun q => q.1 != p.1 && q.2.pool == p.2.pool && q.2.backlogged && busy q.1)).map (fun q => q.2.pass)
    let pass := if b && !p.2.backlogged then joinPass p.2.pass sib else p.2.pass
    (p.1, { p.2 with backlogged := b, pass := pass, inQ := p.2.inQ && b && s.inRation p.1 }))
  let poolBusy := fun (n : Nat) => old.any (fun p => p.2.pool == n && busy p.1)
  let pools := s.rat.pools.zipIdx.map (fun p =>
    let b := poolBusy p.2
    let sib := (s.rat.pools.zipIdx.filter (fun q => q.2 != p.2 && q.1.backlogged && poolBusy q.2)).map (fun q => q.1.pass)
    let pass := if b && !p.1.backlogged then joinPass p.1.pass sib else p.1.pass
    { p.1 with backlogged := b, pass := pass })
  s.modRat (fun q => { q with customers := custs, pools := pools, builds := q.builds + 1 })

/-! ### Residency slots (R332 to R334) -/

/-- A gather descriptor of 64 B (Table 13-11). -/
def gatherBytes (seq rslot : Nat) (v : Version) : List Byte :=
  let x := pack [(32, seq), (12, rslot), (20, 0), (32, v.handle.toNat), (32, v.bytes), (64, v.addr.toNat), (192, 0)]
  leBytes 56 x ++ leBytes 4 0 ++ leBytes 4 (crcOf 56 x)

/-- Write the descriptor that fills a residency slot for a version. -/
def State.writeGather (s : State) (p : AdapterPool) (rslot : Nat) (v : Version) : State :=
  let q := s.stw.seq
  let s := s.hostWrite (p.gring + BitVec.ofNat 64 (64 * (q % 2 ^ p.log2g))) (gatherBytes q rslot v)
  s.modStw (fun w => { w with seq := (q + 1) % 2 ^ 32, gathers := w.gathers ++ [⟨q, rslot, v.handle⟩] })

/-- Whether R334 allows a residency slot to be given: the manifests of this step and the next do not name it. -/
def Steward.freeToGive (w : Steward) (step rslot : Nat) : Bool :=
  (match tget rslot w.named with | some n => decide (n < step) | none => true) && !w.gathers.any (fun g => g.rslot == rslot)

/-- The residency slot for a version: a free one, or, when none is free, the one named longest ago (R332). -/
def Steward.slotFor (w : Steward) (p : AdapterPool) (step : Nat) (steal : Bool) : Option Nat :=
  let held := fun i => w.versions.any (fun v => v.rslot == some i)
  let allowed := (List.range p.rslots).filter (fun i => w.freeToGive step i)
  match allowed.find? (fun i => !held i) with
  | some i => some i
  | none => if steal && (List.range p.rslots).all held then leastBy (fun i => match tget i w.named with | some n => n + 1 | none => 0) allowed else none

/-- Give a version a residency slot where it has none. -/
def State.giveResidency (s : State) (h : Handle) (steal : Bool) : State :=
  match s.stw.pool, s.stw.versions.find? (fun v => v.handle == h) with
  | some p, some v =>
    if v.rslot.isSome ∨ v.faulted ∨ 2 ^ p.log2g ≤ s.stw.gathers.length then s
    else match s.stw.slotFor p s.shell.step steal with
      | none => s
      | some i =>
        let s := s.modStw (fun w => { w with versions := w.versions.map (fun x =>
          if x.handle = h then { x with rslot := some i, resident := false, fails := 0 }
          else if x.rslot = some i then { x with rslot := none, resident := false } else x) })
        s.writeGather p i v
  | _, _ => s

/-- The request at the head of a customer's queue. -/
def State.headOf (s : State) (cust : Nat) : Option Request :=
  leastBy (fun (r : Request) => r.eligible) ((s.reqs.table.map (fun p => p.2)).filter (fun r => r.customer == cust && r.st == .waiting))

/-- Residency for the requests that hold slots, and, from free slots, for the heads of the customers' queues. -/
def State.giveResidencies (s : State) : State :=
  let s := s.reqs.table.foldl (fun s p => if p.2.st = .slotted ∧ p.2.adapter ≠ 0 then s.giveResidency p.2.adapter true else s) s
  s.rat.customers.foldl (fun s c => match s.headOf c.1 with
    | some r => if r.adapter = 0 then s else s.giveResidency r.adapter false
    | none => s) s

/-! ### MANIFEST_BUILD and MASK_CUTOFF -/

/-- The homed slots within the build buffer's shape. -/
def State.homedSlots (s : State) : List Nat :=
  match s.shell.building with
  | some b => ((List.range s.reqs.home.2).map (fun i => s.reqs.home.1 + i)).filter (fun i => decide (i < b.shape.slots))
  | none => []

/-- Batch group size of the build buffer's shape. -/
def State.buildGroup (s : State) : Nat := match s.shell.building with | some b => b.shape.groupSize | none => 1

/-- Write the entries that can be written: IDLE where no request holds the slot. -/
def State.buildEntries (s : State) (slots : List Nat) : State :=
  slots.foldl (fun s i => match s.reqOfSlot i with
    | none => s.putPlan i s.nextStep none .idle
    | some _ => if s.outcomeKnown i && !s.written i then s.buildSlot i else s) s

/-- What takes effect at a build: fields that SET_CUSTOMER and SET_POOL changed since the last one (R317), and new factors
(R325). -/
def Rations.applyNext (q : Rations) : Rations :=
  let cust := fun (c : Customer) =>
    let c := { c with k := c.nextK.getD c.k, nextK := none }
    match c.next with
    | some (p, w, h) => { c with pool := p, weight := w, hard := h, next := none }
    | none => c
  let pool := fun (p : Pool) => match p.next with | some (w, t) => { p with weight := w, turn := t, next := none } | none => p
  { q with customers := q.customers.map (fun c => (c.1, cust c.2)), pools := q.pools.map pool }

/-- Requests that hold no slot and whose start key is dead end at the first build (R420). -/
def State.endDead (s : State) : State :=
  (s.reqs.table.map (fun p => p.2)).foldl (fun s r => if r.slot.isNone && r.st != .ending then s.endStartDead r else s) s

/-- CC2's build of the next manifest. -/
def State.buildManifest (s : State) : State :=
  let s := s.modReqs (fun q => { q with home := q.nextHome.getD q.home, nextHome := none })
  let s := (s.modRat Rations.applyNext).endDead.joinBacklogs
  let slots := s.homedSlots
  let s := slots.foldl (fun s i => s.vacate i) s
  let opened := s.openings slots
  let s := s.queueOpened opened
  let own := opened.flatMap (fun h => match s.findReq h with | some r => s.ownSlots r | none => [])
  let free := slots.filter (fun i => (s.reqOfSlot i).isNone || own.contains i)
  let s := State.fillSlots s.buildGroup (free.length + s.reqs.table.length) free opened s
  s.giveResidencies.buildEntries slots

/-- Whether CC2 serves and a build buffer is open. -/
def State.builds (s : State) : Bool := s.duty 2 && s.shell.building.isSome

/-- MANIFEST_BUILD. Once the step's manifest has frozen the next build is the next step's. -/
def execManifestBuild (t : Time) (s : State) : Result1 :=
  let s := s.at t
  .next (if s.builds && !s.shell.frozen then s.buildManifest else s)

/-- MASK_CUTOFF: cycle Dm - 1,024 of the step. What is still not ready is written DRY; a slot without a verdict is left
unwritten (R198, R282, R335). -/
def execMaskCutoff (t : Time) (s : State) : Result1 :=
  let s := s.at t
  .next (match s.shapeNow with
    | none => s
    | some f =>
      if !s.shell.frozen && !s.shell.cutoff && decide (f.manDeadline ≤ s.clk.fab + 1024) then
        (s.modShell (fun h => { h with cutoff := true })).retryBuilds
      else s)

end Sys2Proof.Machine
end

