-- ==== Sys2Proof/Machine/RationOps.lean ====
section
/-! DEFINITION. RECORD_MOVE_DONE, EPOCH_CORRECTION, DONE_WORD_POLL and DONE_WORD_READ_DONE
(R301, R302, R312, R324, R325, R333, R336). -/

namespace Sys2Proof.Machine

/-! ### Records (R301, R302) -/

/-- A record has moved whole: hot if it was cold, cold if it was hot. -/
def Request.moved (order : Nat) (r : Request) : Request :=
  { r with hot := !r.hot, moving := false, lastUse := if r.hot then r.lastUse else order }

/-- RECORD_MOVE_DONE: an uncorrectable error in the record ends its request (Table 13-5). -/
def execRecordMoveDone (t : Time) (index : BitVec 16) (ecc : Ecc) (s : State) : Result1 :=
  let s := s.at t
  .next (match tget index.toNat s.reqs.table with
    | none => s.celDone (.record index.toNat)
    | some r =>
      if !r.moving then s.celDone (.record index.toNat)
      else if !r.hot && s.hotFull then s
      else
        let s := s.celDone (.record index.toNat)
        let s := s.tick
        let s := s.modReq r.handle (fun r => r.moved s.reqs.order)
        if eccFatal ecc then s.endOutput r.handle endRecordFault true else s)

/-! ### The epoch correction (R324, R325) -/

/-- The correction factor after an epoch. -/
def correctFactor (k s d : Nat) : Nat :=
  if d = 0 then min (k * 2) 4096
  else if (max s d - min s d) * 64 < s then k
  else
    let r := s * 65536 / d
    min (max ((k * ((r + 65536) / 2)) >>> 16) 16) 4096

/-- Customers of the epoch's set Q. -/
def Rations.inQ (q : Rations) : List (Nat × Customer) := q.customers.filter (fun c => c.2.inQ)

/-- The target share of a customer of Q: configured weights over the pools of Q and the customers of Q in its pool. -/
def Rations.target (q : Rations) (c : Customer) : Nat :=
  let w := fun (p : Nat) => (q.pools.getD p {}).weight
  let pools := (List.range 16).filter (fun p => q.inQ.any (fun x => x.2.pool == p))
  let custs := q.inQ.filter (fun x => x.2.pool == c.pool)
  65536 * w c.pool * c.weight / (sumNat (pools.map w) * sumNat (custs.map (fun x => x.2.weight)))

/-- The epoch's figure: the largest relative deviation over Q (R325). -/
def Rations.deviation (l : List (Nat × Nat)) : Nat :=
  ((l.filter (fun p => p.1 != 0)).map (fun p => (max p.1 p.2 - min p.1 p.2) * 65536 / p.1)).foldl max 0

/-- One epoch's correction, of the newest factors; what it gives applies from the next build (R325). Without service over Q no factor changes. Shares that the rules do not define are free values:
those of a customer outside Q, and d_c where nothing was served. -/
def Rations.correct (q : Rations) (free : Nat) : Rations :=
  let total := sumNat (q.inQ.map (fun c => c.2.service))
  let share := fun (c : Customer) => c.service * 65536 / total
  let one := fun (p : (Nat × Customer) × Nat) =>
    let c := p.1.2
    let u := Config.freeValue (free + 2 * p.2) % 2 ^ 32
    let v := Config.freeValue (free + 2 * p.2 + 1) % 2 ^ 32
    let k := c.nextK.getD c.k
    let c : Customer :=
      if !c.inQ then { c with s := u, d := v, nextK := if total = 0 then c.nextK else some ((k + 256) / 2) }
      else
        let s := q.target c
        if total = 0 then { c with s := s, d := v } else { c with s := s, d := share c, nextK := some (correctFactor k s (share c)) }
    (p.1.1, { c with service := 0, inQ := true })
  { q with customers := q.customers.zipIdx.map one, builds := 0,
           maxDev := if total = 0 then 0 else Rations.deviation (q.inQ.map (fun c => (q.target c.2, share c.2))) }

/-- EPOCH_CORRECTION, by CC2 every 10 ms of AON time. -/
def execEpochCorrection (t : Time) (s : State) : Result1 :=
  let s := s.at t
  .next (if !s.duty 2 then s
    else
      let n := s.free
      (s.modRat (fun q => q.correct n)).skipFree (2 * s.rat.customers.length))

/-! ### The gather engine's done word (R333, R336) -/

/-- DONE_WORD_POLL, every 2 µs of AON time while descriptors are unfinished, with one read outstanding. -/
def execDoneWordPoll (t : Time) (s : State) : Result1 :=
  let s := s.at t
  .next (match s.stw.pool with
    | none => s
    | some p =>
      if !s.duty 3 || s.stw.gathers.isEmpty || s.stw.reading then s
      else (s.askHost p.doneAddr).modStw (fun w => { w with reading := true }))

/-- Whether a descriptor is among those that DONE counts, modulo 2^32. -/
def Gather.finished (done : Nat) (g : Gather) : Bool := decide (0 < (done + 2 ^ 32 - g.seq) % 2 ^ 32) && decide ((done + 2 ^ 32 - g.seq) % 2 ^ 32 ≤ 2 ^ 31)

/-- The address of a descriptor's STATUS byte. -/
def AdapterPool.statusAddr (p : AdapterPool) (g : Gather) : BitVec 64 := p.gring + BitVec.ofNat 64 (64 * (g.seq % 2 ^ p.log2g) + 56)

/-- Change the version that a gather fills, where it still waits for that slot. -/
def Steward.modFilled (w : Steward) (g : Gather) (f : Version → Version) : Steward :=
  { w with versions := lmodIf (fun v => v.handle == g.version && v.rslot == some g.rslot) f w.versions }

/-- A failed descriptor leaves its slot empty: it is reissued once, and a second failure marks the version faulted (R336). -/
def State.gatherFailed (s : State) (p : AdapterPool) (g : Gather) : State :=
  let s := s.logErr errGatherFailed none g.rslot g.version.toNat g.seq
  match s.stw.versions.find? (fun v => v.handle == g.version && v.rslot == some g.rslot) with
  | none => s
  | some v =>
    if v.fails = 0 then (s.modStw (fun w => w.modFilled g (fun v => { v with fails := 1 }))).writeGather p g.rslot v
    else s.modStw (fun w => w.modFilled g (fun v => { v with fails := v.fails + 1, faulted := true, rslot := none, resident := false }))

/-- A finished descriptor: its version is resident, too late for the entries of this build once the cutoff has passed (R335),
or it failed. -/
def State.gatherDone (s : State) (p : AdapterPool) (failed : Bool) (g : Gather) : State :=
  let s := s.modStw (fun w => { w with gathers := w.gathers.filter (fun x => x.seq != g.seq) })
  if failed then s.gatherFailed p g else
    let late := if s.shell.cutoff then some s.nextStep else none
    s.modStw (fun w => w.modFilled g (fun v => { v with resident := true, fails := 0, lateFor := late }))

/-- What a done word tells: when FAILS has risen, the STATUS byte of every descriptor that has finished is read. -/
def State.doneWord (s : State) (p : AdapterPool) (value : BitVec 64) (failed : List Word) : State :=
  let done := value.toNat % 2 ^ 32
  let fails := value.toNat / 2 ^ 32
  let fin := s.stw.gathers.filter (fun g => g.finished done)
  let risen := fails != s.stw.fails
  let s := if risen then fin.foldl (fun s g => s.askHost (p.statusAddr g)) s else s
  let s := s.modStw (fun w => { w with done := done, fails := fails })
  let s := fin.foldl (fun s g => s.gatherDone p (risen && failed.any (fun w => w.toNat == g.seq)) g) s
  s.giveResidencies.retryBuilds

/-- DONE_WORD_READ_DONE: `failed` are the descriptors whose STATUS byte reads 2. A read that fails tells nothing,
nor does one that returns while CC3's role is being taken over: the word is read again (R340). -/
def execDoneWordReadDone (t : Time) (value : Option (BitVec 64)) (failed : List Word) (s : State) : Result1 :=
  let s := s.at t
  .next (match s.stw.pool with
    | none => s
    | some p =>
      if !s.stw.reading then s
      else
        let s := s.modStw (fun w => { w with reading := false })
        match value with | some v => if s.duty 3 then s.doneWord p v failed else s | none => s)

end Sys2Proof.Machine
end

