-- ==== Sys2Proof/Machine/Admit.lean ====
section
/-! DEFINITION. The requests' own commands of Table 14-11: ADMIT_REQUEST, CANCEL_REQUEST, READ_REQUEST, SET_GRAMMAR and
POST_DRAFTS (R116, R165, R167, R191, R192, R234, R287, R299 to R316, R327 to R336, R419). -/

namespace Sys2Proof.Machine

/-! ### Records of an admission -/

/-- A service record (Table 13-2). -/
structure Service where
  customer : Nat
  evictable : Bool
  adapter : Handle
  maxOut : Nat
  maxPos : Nat
  telemAddr : BitVec 64
deriving DecidableEq, Repr

/-- The service record that a number holds. -/
def serviceOf (x : Nat) : Service :=
  { customer := bits x 0 14, evictable := bit x 14, adapter := BitVec.ofNat 32 (bits x 32 32), maxOut := bits x 64 32, maxPos := bits x 96 32,
    telemAddr := BitVec.ofNat 64 (bits x 128 64) }

/-- Check 1 of Table 13-3. -/
def serviceFields (x : Nat) : Bool :=
  bits x 15 17 == 0 && bits x 192 64 == 0 && decide (1 ≤ bits x 64 32) && decide (2 ≤ bits x 96 32) && bits x 128 64 % 8 == 0

/-- A stream options record (Table 11-1). -/
def optionsOf (x : Nat) : EncOptions :=
  { vidx := bits x 0 6, invalid := bits x 6 2, specials := bit x 8, bytes := bit x 9, destHost := bit x 10, lang := bits x 16 8,
    dest := BitVec.ofNat 64 (bits x 64 64), dcap := bits x 128 32 }

/-- The checks of ST_ENC_OPTIONS (R234). -/
def optionsFields (x : Nat) : Bool :=
  bits x 11 5 == 0 && bits x 24 40 == 0 && bits x 160 96 == 0 && bits x 6 2 != 3 && bits x 64 64 % 4 == 0 && decide (1 ≤ bits x 128 32)
    && decide (bits x 128 32 ≤ 0xFFFFFFFE)

/-- An output record (Table 12-3). -/
def outRecordOf (x : Nat) : OutRecord :=
  { base := BitVec.ofNat 64 (bits x 0 64), log2n := bits x 64 5, text := bit x 69, tokens := bit x 70, drop := bit x 71, replace := bit x 72,
    nospecial := bit x 73, nopidx := bit x 74, notify := bit x 75, ctx := bits x 76 8, every := bits x 84 16,
    stop := if bit x 100 then some (bits x 101 12) else none, pidxAddr := BitVec.ofNat 64 (bits x 128 64),
    cidxAddr := BitVec.ofNat 64 (bits x 192 64) }

/-- The checks of ST_PAIL_PARAM (R287). -/
def outRecordFields (x : Nat) : Bool :=
  let o := outRecordOf x
  decide (6 ≤ o.log2n) && decide (o.log2n ≤ 16) && (o.text || o.tokens) && o.base.toNat % min (32 * 2 ^ o.log2n) 4096 == 0
    && (o.nopidx || o.pidxAddr.toNat % 8 == 0) && o.cidxAddr.toNat % 8 == 0 && bits x 113 15 == 0

/-! ### Checks (Table 13-3) -/

/-- Check 3: the sampling record (R116). -/
def State.samplingOk (s : State) (x : Nat) : Bool :=
  let sp := Machine.samplingOf x
  samplingFields x && match tget sp.prog s.drw.programs with
    | none => false
    | some p => p.ops.all (operandsOk (fun n => (tget n s.drw.bias).isSome) (some sp.param)) && (!p.mixes || sp.hasPartner)

/-- Check 4: the partner binding (R316). -/
def State.pairOk (s : State) (sp : Sampling) (customer vidx : Nat) : Bool :=
  !sp.hasPartner || match s.findReq sp.partner with
    | some o => o.sampling.follow && o.sampling.partner == 0#32 && o.customer == customer && o.opts.vidx == vidx
    | none => false

/-- Check 5: the speculation record (R165). -/
def specStatus (x : Nat) (sp : Sampling) : Nat :=
  let r := specOf x
  if !specFields x ∨ (r.src ≠ 0 ∧ (sp.hasPartner ∨ sp.follow)) then stSpecParam
  else if r.src ≠ 0 ∧ !sp.greedy ∧ (sp.topk = 0 ∨ 256 < sp.topk) then stSpecTopk
  else stOk

/-- A vocabulary that is loaded and not loading. -/
def State.boundVocab (s : State) (vidx : Nat) : Option Vocab := if s.churn.loading.contains vidx then none else tget vidx s.churn.vocabs

/-- Check 6: the options record (R234). -/
def State.optionsStatus (s : State) (x : Nat) : Nat :=
  if !optionsFields x then stEncOptions else if (s.boundVocab (bits x 0 6)).isNone then stVocabIndex else stOk

/-- Check 7: the grammar binding (R191, R228); `v` is the vocabulary bound. -/
def State.grammarStatus (s : State) (handle start : Word) (v : Option Vocab) (follow : Bool) : Nat :=
  if handle = 0 then stOk
  else if s.ren.loading.contains (handle.toNat % 65536) then stGramHandle
  else match s.grammarOf handle with
    | none => stGramHandle
    | some g =>
      if (match v with | some v => v.vocabId != g.vocabId | none => true) then stGramVocab
      else if start ≠ 0xFFFFFFFF ∧ g.states.length ≤ start.toNat then stGramStart
      else if follow then stGramFollow
      else stOk

/-- The start state that a binding names. -/
def State.startState (s : State) (handle start : Word) : Nat :=
  if start = 0xFFFFFFFF then (match s.grammarOf handle with | some g => g.start | none => 0) else start.toNat

/-- Check 8: the output record (R287). -/
def State.outStatus (s : State) (x : Nat) : Nat :=
  if !outRecordFields x then stPailParam
  else match (outRecordOf x).stop with
    | some i => if (tget i s.skim.sets).isNone then stStopIndex else stOk
    | none => stOk

/-- Check 9: the adapter binding, from the library entry that was read: the status, or the version to bind (R329 to R331,
R336). -/
def State.adapterBind (s : State) (adapter : Handle) (customer : Nat) (src : Option (List Byte)) : Except Nat (Option Version) :=
  if adapter = 0 then .ok none
  else match s.stw.pool with
    | none => .error stAdapterPool
    | some p =>
      let id := adapter.toNat % 65536
      let b := src.getD []
      let x := leNat (slice b 0 32)
      let ver := bits x 16 16
      if src = none ∨ bits x 224 32 ≠ crcOf 28 x ∨ bits x 0 16 ≠ id ∨ ver = 0 ∨ bits x 47 17 ≠ 0 ∨ bits x 160 64 ≠ 0 ∨ bits x 64 32 = 0
          ∨ p.slotBytes < bits x 64 32 then .error stAdapterEntry
      else if adapter.toNat / 65536 ≠ 0 ∧ adapter.toNat / 65536 ≠ ver then .error stAdapterVersion
      else if !bit x 46 ∧ bits x 32 14 ≠ customer then .error stAdapterOwner
      else
        let h : Handle := BitVec.ofNat 32 (ver * 65536 + id)
        match s.stw.versions.find? (fun v => v.handle == h) with
        | some v => if v.faulted then .error stAdapterFault else .ok (some v)
        | none =>
          if Config.versions ≤ s.stw.versions.length then .error stAdapterFull
          else .ok (some { handle := h, owner := bits x 32 14, shared := bit x 46, bytes := bits x 64 32, addr := BitVec.ofNat 64 (bits x 96 64) })

/-- The lowest index that a table has no entry for, from n on. -/
def lowestFree {α : Type} : List (Nat × α) → Nat → Nat
  | [], n => n
  | (j, _) :: r, n => if j = n then lowestFree r (n + 1) else n

/-- The status of the first failing check of an admission; 0 for none, with the version to bind. -/
def State.admitCheck (s : State) (service sampling speculation options output : Nat) (grammar start : Word) (src : Option (List Byte)) :
    Except Nat (Option Version) :=
  let sv := serviceOf service
  let sp := Machine.samplingOf sampling
  let v := s.boundVocab (bits options 0 6)
  if !serviceFields service then .error stReqParam
  else if (s.customer sv.customer).isNone then .error stCustUnknown
  else if !s.samplingOk sampling then .error stSamplingParam
  else if !s.pairOk sp sv.customer (bits options 0 6) then .error stPair
  else if specStatus speculation sp ≠ stOk then .error (specStatus speculation sp)
  else if s.optionsStatus options ≠ stOk then .error (s.optionsStatus options)
  else if s.grammarStatus grammar start v sp.follow ≠ stOk then .error (s.grammarStatus grammar start v sp.follow)
  else if s.outStatus output ≠ stOk then .error (s.outStatus output)
  else match s.adapterBind sv.adapter sv.customer src with
    | .error e => .error e
    | .ok a => if Config.requestIndices ≤ lowestFree s.reqs.table 0 then .error stReqFull else .ok a

/-! ### ADMIT_REQUEST -/

/-- The generation that an index carries next: 1 to 65,535 (R299). -/
def nextGen (last : Nat) : Nat := if last = 65535 then 1 else last + 1

/-- A version gains a request: it enters the table with its first. -/
def Steward.bind (w : Steward) (v : Version) : Steward :=
  if w.versions.any (fun x => x.handle == v.handle) then
    { w with versions := lmodIf (fun x => x.handle == v.handle) (fun x => { x with refs := x.refs + 1 }) w.versions }
  else { w with versions := w.versions ++ [{ v with refs := 1 }] }

/-- The first draft length (Table 8-1). -/
def firstDrafts (r : SpecRecord) : Nat := if r.src = 0 then 0 else if r.dinit = 0 ∧ 1 ≤ r.dmax then 1 else r.dinit

/-- Admit a request whose checks have passed: it starts in ENCODING. -/
def State.track (s : State) (b : Sender) (service sampling speculation options output pass : Nat) (grammar start : Word) (ad : Option Version) :
    State :=
  let sv := serviceOf service
  let sp := Machine.samplingOf sampling
  let i := lowestFree s.reqs.table 0
  let gen := nextGen ((tget i s.reqs.gens).getD 0)
  let h : Handle := BitVec.ofNat 32 (gen * 65536 + i)
  let s := s.tick
  let r : Request :=
    { handle := h, customer := sv.customer, evictable := sv.evictable, maxOut := sv.maxOut, maxPos := sv.maxPos, telemAddr := sv.telemAddr,
      sampling := sp, spec := specOf speculation, opts := optionsOf options, out := outRecordOf output,
      pass := (List.range 8).map (fun i => BitVec.ofNat 32 (bits pass (32 * i) 32)),
      grammar := if grammar = 0 then none else some grammar,
      gstate := if grammar = 0 then none else some { state := s.startState grammar start },
      startKey := grammar != 0, dcur := firstDrafts (specOf speculation), hot := decide (s.hotCount < Config.hotRecords), lastUse := s.reqs.order,
      adapter := match ad with | some v => v.handle | none => 0, since := s.now, tele := { tAdmit := s.now } }
  let s := s.modReqs (fun q => { q with table := tput i r q.table, gens := tput i gen q.gens })
  let s := match ad with | some v => s.modStw (fun w => w.bind v) | none => s
  let s := if sp.hasPartner then
      (s.modReq sp.partner (fun o => { o with sampling := { o.sampling with partner := h } })).tryWaiting sp.partner
    else s
  s.answer b opAdmitRequest stOk (leBytes 4 h.toNat)

/-- The read of the library entry that an adapter names (R328, R329). -/
def State.readLibrary (s : State) (b : Sender) (adapter : Handle) : State :=
  match s.stw.pool with
  | some p => if adapter = 0 then s else s.imageRead b (p.library.toNat + 32 * (adapter.toNat % 65536)) 32
  | none => s

/-- ADMIT_REQUEST (R305): refused whole at the first failing check. -/
def cmdAdmit (b : Sender) (service sampling speculation options output pass : Nat) (grammar start : Word) (src : Option (List Byte))
    (s : State) : State :=
  match s.admitCheck service sampling speculation options output grammar start src with
  | .error e => s.refuse b opAdmitRequest e
  | .ok a => (s.readLibrary b (serviceOf service).adapter).track b service sampling speculation options output pass grammar start a

def execAdmitRequest (t : Time) (by_ : Sender) (service : BitVec 256) (sampling : BitVec 512) (speculation : BitVec 128)
    (grammar start : Word) (options output : BitVec 256) (pass : BitVec 256) (src : Option (List Byte)) (s : State) : Result1 :=
  .next ((s.at t).serve by_ opAdmitRequest
    (cmdAdmit by_ service.toNat sampling.toNat speculation.toNat options.toNat output.toNat pass.toNat grammar start src))

/-! ### Commands on a tracked request (R300, R302) -/

/-- A record read or written in the cellar at once, before the response of the command that needs it. -/
def State.recordNow (s : State) (h : Handle) (wr : Bool) : State :=
  (s.recordAccess (h.toNat % 65536) wr).celDone (.record (h.toNat % 65536))

/-- A command's use of a request's record: a cold one comes hot before the response, a victim moving out where the table is
full; with none to move out, or while the one that moves out for it has not left, it is read and written in place (R300,
R302). -/
def State.useRecord (s : State) (h : Handle) : State :=
  match s.findReq h with
  | none => s
  | some r =>
    let hot := fun (s : State) => (s.modReq h (fun r => { r with hot := true, moving := false })).useHot h
    if r.hot then s.useHot h
    else if r.moving && !s.hotFull then hot (s.celDone (.record (h.toNat % 65536)))
    else if !r.moving && decide (s.hotCount < Config.hotRecords) then hot (s.recordNow h false)
    else match s.victim, r.moving with
      | some v, false => hot (((s.recordNow v.handle true).modReq v.handle (fun v => { v with hot := false })).recordNow h false)
      | _, _ => ((s.recordNow h false).recordNow h true).useHot h

/-- Run a command on the request that a handle names. -/
def State.onRequest (s : State) (b : Sender) (op : Nat) (h : Handle) (f : State → Request → State) : State :=
  match s.findReq h with
  | none => s.refuse b op stReqHandle
  | some r => f (s.useRecord h) r

/-- CANCEL_REQUEST (R313). -/
def cmdCancel (b : Sender) (h : Handle) (s : State) : State :=
  s.onRequest b opCancelRequest h (fun s r => match r.st with
    | .ending => s.refuse b opCancelRequest stReqEnding
    | .slotted => (s.modReq h (fun r => { r with cancel := true })).answer b opCancelRequest stOk []
    | _ => (s.endOutput h endCancelled true).answer b opCancelRequest stOk [])

def execCancelRequest (t : Time) (by_ : Sender) (req : Handle) (s : State) : Result1 :=
  .next ((s.at t).serve by_ opCancelRequest (cmdCancel by_ req))

/-- READ_REQUEST (R327). -/
def cmdReadRequest (b : Sender) (h : Handle) (dest : BitVec 64) (s : State) : State :=
  s.onRequest b opReadRequest h (fun s r =>
    if dest.toNat % 8 ≠ 0 then s.refuse b opReadRequest stReqParam
    else (s.hostWrite dest (s.telemetry r r.st.code)).answer b opReadRequest stOk [BitVec.ofNat 8 r.st.code, 0, 0, 0])

def execReadRequest (t : Time) (by_ : Sender) (req : Handle) (dest : BitVec 64) (s : State) : Result1 :=
  .next ((s.at t).serve by_ opReadRequest (cmdReadRequest by_ req dest))

/-- SET_GRAMMAR (R192): the switch waits for the next entry built. -/
def cmdSetGrammar (b : Sender) (h : Handle) (handle start : Word) (s : State) : State :=
  s.onRequest b opSetGrammar h (fun s r =>
    let st := s.grammarStatus handle start (s.reqVocab r) r.sampling.follow
    if r.st = .ending then s.refuse b opSetGrammar stReqEnding
    else if st ≠ stOk then s.refuse b opSetGrammar st
    else
      let g := if handle = 0 then none else some (handle, s.startState handle start)
      (s.modReq h (fun r => { r with switchTo := some g })).answer b opSetGrammar stOk [])

def execSetGrammar (t : Time) (by_ : Sender) (req : Handle) (handle start : Word) (s : State) : Result1 :=
  .next ((s.at t).serve by_ opSetGrammar (cmdSetGrammar by_ req handle start))

/-- Whether a posted token may stand in a set (Table 8-2). -/
def draftOk (len : Nat) (w : Word) : Bool := decide (w.toNat % 2 ^ 24 < min len 0x100000)

/-- Whether the bits of POST_DRAFTS's token words that Table 14-11 marks 0 are 0: [31:24] of each, and all of a word at or
beyond COUNT. -/
def draftWordsClear (count : Nat) (tokens : List Word) : Bool :=
  tokens.all (fun w => bits w.toNat 24 8 == 0) && (tokens.drop count).all (fun w => w == 0#32)

/-- POST_DRAFTS, checked in the order of R419; a new set replaces the old (R167). -/
def cmdPostDrafts (b : Sender) (h : Handle) (pos0 : Word) (count : Nat) (tokens : List Word) (s : State) : State :=
  if !draftWordsClear count tokens then s.refuse b opPostDrafts stCmdReserved
  else s.onRequest b opPostDrafts h (fun s r =>
    let ws := tokens.take count
    let len := match s.reqVocab r with | some v => vocabLen v | none => 0
    if r.st = .ending then s.refuse b opPostDrafts stReqEnding
    else if r.spec.src ≠ 2 ∧ r.spec.src ≠ 3 then s.refuse b opPostDrafts stDraftReq
    else if count = 0 ∨ 8 < count ∨ ws.length < count ∨ !ws.all (draftOk len) then s.refuse b opPostDrafts stDraftFormat
    else
      let set := ws.map (fun w => BitVec.ofNat 24 w.toNat)
      (s.modReq h (fun r => { r with posted := some (pos0.toNat, set) })).answer b opPostDrafts stOk [])

def execPostDrafts (t : Time) (by_ : Sender) (req : Handle) (pos0 : Word) (count : Nat) (tokens : List Word) (s : State) : Result1 :=
  .next ((s.at t).serve by_ opPostDrafts (cmdPostDrafts by_ req pos0 count tokens))

end Sys2Proof.Machine
end

