-- ==== Sys2Proof/Machine/Power.lean ====
section
/-! DEFINITION. Power of vat banks and strainers (R58 to R60, R377 to R379, R394 to R398). A unit is numbered as
ACK_TIMEOUT numbers it: bank b as b, strainer i as 64 + i. -/

namespace Sys2Proof.Machine

/-- The unit with a number. -/
def State.unit (s : State) (u : Nat) : PowerUnit := if u < 64 then s.vat.banks.getD u {} else s.str.units.getD (u - 64) {}

/-- Keep the state that a unit had at the start of a CTL cycle, when the cycle changes it (R379). -/
def PowerUnit.marked (ctl : Nat) (old new : PowerUnit) : PowerUnit :=
  if new.st = old.st then new
  else match old.changed with
    | some x => if x.1 = ctl then new else { new with changed := some (ctl, old.st) }
    | none => { new with changed := some (ctl, old.st) }

/-- The state that a register read shows: the one at the start of the CTL cycle (R379). -/
def PowerUnit.shown (ctl : Nat) (p : PowerUnit) : Power :=
  match p.changed with | some x => if x.1 = ctl then x.2 else p.st | none => p.st

/-- Change a unit. -/
def State.modUnit (u : Nat) (f : PowerUnit → PowerUnit) (s : State) : State :=
  let f := fun p => p.marked s.clk.ctl (f p)
  if u < 64 then s.modVat (fun v => { v with banks := lmod u f v.banks })
  else s.modStr (fun x => { x with units := lmod (u - 64) f x.units })

/-- A bank treated as wholly mapped out, or a strainer absent from UNITS_OK: requests of it are ignored (R377). -/
def State.unitAbsent (s : State) (u : Nat) : Bool :=
  if u < 64 then s.vat.dead.contains u else !bit s.str.usable.toNat (u - 64)

/-- A power-up asked of a unit (R58, R394). One asked of an OFF unit whose acknowledge never fell waits for it (R398);
one asked of a GOING_OFF unit waits for OFF; one asked of an ON strainer that waits for its release keeps it ON. -/
def PowerUnit.up (now : Nat) (p : PowerUnit) : PowerUnit :=
  match p.st with
  | .off => if p.stuck then { p with want := true, later := some true }
            else { p with want := true, later := none, st := .goingOn, req := true, since := now }
  | .goingOn => { p with want := true, later := none }
  | .on => { p with want := true, later := none, release := false }
  | .goingOff => { p with want := true, later := some true }

/-- A power-down asked of a unit (R58, R394): an ON bank begins to drain; an ON strainer waits for its release
(R110). -/
def PowerUnit.down (bank : Bool) (p : PowerUnit) : PowerUnit :=
  match p.st with
  | .off => { p with want := false, later := none }
  | .goingOn => { p with want := false, later := some false }
  | .on => if bank then { p with want := false, st := .goingOff } else { p with want := false, release := true }
  | .goingOff => { p with want := false, later := none }

/-- A bank's rows written with zeros and tags 0 (R58). -/
def Vat.zeroBank (v : Vat) (b : Nat) : Vat :=
  { v with mem := Memory.clearRange (b * 2048 * 128) (2048 * 128) v.mem, tags := Memory.clearRange (b * 2048) 2048 v.tags,
           checks := Memory.clearRange (b * 2048 * 16) (2048 * 16) v.checks, parity := Memory.clearRange (b * 2048) 2048 v.parity,
           writeBacks := v.writeBacks.filter (fun w => w.pra / 2048 != b) }

/-! ### SET_POWER's answer (R397) -/

/-- The units a request asks: number and state asked, units that ignore requests left out. -/
def State.asked (s : State) (banks : BitVec 64) (strainers : BitVec 16) : List (Nat × Bool) :=
  ((List.range 64).map (fun i => (i, bit banks.toNat i)) ++ (List.range 16).map (fun i => (64 + i, bit strainers.toNat i))).filter
    (fun p => !s.unitAbsent p.1)

/-- Whether a unit has reached the state asked of it, or no longer has it asked: its request was dropped at a timeout
(R398) or another followed. -/
def State.unitReached (s : State) (p : Nat × Bool) : Bool :=
  let x := s.unit p.1
  x.want != p.2 || (if p.2 then x.st == .on else x.st == .off)

/-- The states of all units as SET_POWER answers them. -/
def State.powerBody (s : State) : List Byte :=
  leBytes 16 (pack ((s.vat.banks.map (fun x => (1, b2n (x.st == .on)))) ++ (s.str.units.map (fun x => (1, b2n (x.st == .on)))) ++ [(48, 0)]))

/-- Answer every SET_POWER whose units have reached their states. -/
def State.powerAnswers (s : State) : State :=
  s.mbox.power.foldl (fun s w =>
    if (s.asked w.banks w.strainers).all s.unitReached then
      (s.modMbox (fun m => { m with power := m.power.filter (fun x => x != w) })).answer w.by_ opSetPower stOk s.powerBody
    else s) s

/-! ### The power arbiter (R59, R379, R396) -/

/-- Apply an accepted request: a power-up for each field that goes from 0 to 1, a power-down for each that goes from 1
to 0 (R377). -/
def State.applyPower (s : State) (ask : List (Nat × Bool)) : State :=
  ask.foldl (fun s p =>
    let u := s.unit p.1
    if u.want == p.2 then s
    else s.modUnit p.1 (fun x => if p.2 then x.up s.now else x.down (decide (p.1 < 64)))) s

/-- Whether a power-down of a bank is refused (R59). -/
def Vat.bankBusy (v : Vat) (b : Nat) : Bool :=
  v.plan.any (fun a => decide (a.firstBank ≤ b) && decide (b < a.firstBank + a.nbanks))
    || v.windows.any (fun w => w.st == .opened && w.banks.contains b)

/-- The first refused unit of a request and its status: a power-down refused under R59, or one that would leave no
strainer ON or GOING_ON while a step shape is in force (R396): those it powers up, and those whose release it takes back,
count. Units are judged by the state last asked of them. -/
def State.powerRefusal (s : State) (ask : List (Nat × Bool)) : Option (Nat × Nat) :=
  let downs := ask.filter (fun p => !p.2 && (s.unit p.1).want)
  match downs.find? (fun p => decide (p.1 < 64) && s.vat.bankBusy p.1) with
  | some p => some (p.1, stVatBankBusy)
  | none =>
    let strDowns := downs.filter (fun p => decide (64 ≤ p.1))
    let left := (s.applyPower ask).str.units.any (fun u => u.want && (u.st == .on || u.st == .goingOn))
    match strDowns with
    | [] => none
    | p :: _ => if s.shapeInForce.isSome && !left then some (p.1, stStrLast) else none

/-- What a register power write can change, as it stands. -/
def State.powerSnap (s : State) : PowerSnap := ⟨s.vat.banks, s.str.units, s.regs, s.log⟩

/-- The state before the register power writes of a CTL cycle, but for what has changed since. -/
def State.powerRestore (s : State) (x : PowerCycle) : State :=
  let s := s.modClk (fun c => { c with power := none })
  let s := s.modVat (fun v => { v with banks := if v.banks = x.after.banks then putBack x.before.banks v.banks else v.banks })
  let s := s.modStr (fun v => { v with units := if v.units = x.after.units then putBack x.before.units v.units else v.units })
  let s := s.modRegs (fun r => if r = x.after.regs then x.before.regs else r)
  s.modLog (fun l => if l = x.after.log then x.before.log else l)

/-- The register power writes of a CTL cycle with one more, which takes the state from `p` to `q`. -/
def PowerCycle.add (c : Option PowerCycle) (ctl : Nat) (a : List (Nat × Bool) × Nat) (p q : PowerSnap) : PowerCycle :=
  match c with
  | some x => if x.ctl = ctl ∧ x.after = p then { x with acts := x.acts ++ [a], after := q } else ⟨ctl, [a], p, q⟩
  | none => ⟨ctl, [a], p, q⟩

/-- A register power write (R377, R378), as the arbiter applies it. -/
def State.regPowerOnce (s : State) (ask : List (Nat × Bool)) (offset : Nat) : State :=
  if s.boot.stage ≠ 8 ∨ s.boot.halt then s.dropAccess offset true
  else
    let ask := ask.filter (fun p => !s.unitAbsent p.1)
    match s.powerRefusal ask with
    | some r => (s.modRegs (fun g => { g with pwrStatus := r.2 })).logErr errPowerRefused none r.1 r.2 0
    | none => ((s.modRegs (fun g => { g with pwrStatus := 0 })).applyPower ask).powerAnswers

/-- A register power write, kept for its CTL cycle: a ladle of the same cycle may still come before it (R379). -/
def State.regPower (s : State) (ask : List (Nat × Bool)) (offset : Nat) : State :=
  (s.regPowerOnce ask offset).modClk
    (fun c => { c with power := some (PowerCycle.add s.clk.power s.clk.ctl (ask, offset) s.powerSnap (s.regPowerOnce ask offset).powerSnap) })

/-- Run a ladle before the register power writes of its own CTL cycle (R379). Two ladles of one cycle apply in the order of the
queue (DESIGN CHOICE, notes/assumptions/150.md). -/
def State.withPower (f : State → State) (s : State) : State :=
  match s.clk.power with
  | some x => if x.ctl = s.clk.ctl then x.acts.foldl (fun s a => s.regPower a.1 a.2) (f (s.powerRestore x)) else f s
  | none => f s

/-- SET_POWER, as the arbiter applies it. -/
def setPower (b : Sender) (banks : BitVec 64) (strainers : BitVec 16) (s : State) : State :=
  let ask := s.asked banks strainers
  match s.powerRefusal ask with
  | some r => s.refuse b opSetPower r.2
  | none =>
    let s := s.applyPower ask
    (s.modMbox (fun m => { m with power := m.power ++ [⟨b, banks, strainers⟩] })).powerAnswers

/-- SET_POWER. -/
def cmdSetPower (b : Sender) (banks : BitVec 64) (strainers : BitVec 16) (s : State) : State := s.withPower (setPower b banks strainers)

def execSetPower (t : Time) (by_ : Sender) (banks : BitVec 64) (strainers : BitVec 16) (s : State) : Result1 :=
  .next ((s.at t).serve by_ opSetPower (cmdSetPower by_ banks strainers))

/-- The units of a VAT_PWR write (R366, Table 15-15). -/
def vatPwrAsk (half : PwrHalf) (value : BitVec 64) : List (Nat × Bool) :=
  match half with
  | .lo => (List.range 32).map (fun i => (i, bit value.toNat i))
  | .hi => (List.range 32).map (fun i => (32 + i, bit value.toNat i))
  | .both => (List.range 64).map (fun i => (i, bit value.toNat i))

def vatPwrOffset (half : PwrHalf) : Nat := match half with | .hi => 0x044 | _ => 0x040

/-- VAT_PWR. Before HLK leaves reset the port answers nothing (R368); with CTL or ENG in reset the write is dropped. -/
def execVatPwr (t : Time) (half : PwrHalf) (value : BitVec 64) (s : State) : Result1 :=
  .next ((s.at t).hostAct ⟨true, vatPwrOffset half, if half = .both then 8 else 4, value⟩
    (fun s => s.regPower (vatPwrAsk half value) (vatPwrOffset half)))

def strPwrAsk (value : Word) : List (Nat × Bool) := (List.range 16).map (fun i => (64 + i, bit value.toNat i))

def execStrPwr (t : Time) (value : Word) (s : State) : Result1 :=
  .next ((s.at t).hostAct ⟨true, 0x048, 4, value.setWidth 64⟩ (fun s => s.regPower (strPwrAsk value) 0x048))

/-! ### Acknowledges -/

/-- An acknowledge rises; a GOING_ON unit that asked for it begins to zero its rows or buffers. -/
def State.ackRise (s : State) (u : Nat) : State := s.modUnit u (fun p => { p with ack := true })

/-- A GOING_ON unit has zeroed its rows or buffers and enters ON; a power-down asked meanwhile takes effect. -/
def State.initDone (s : State) (u : Nat) : State :=
  let p := s.unit u
  if p.st = .goingOn ∧ p.ack then
    let s := if u < 64 then s.modVat (fun v => v.zeroBank u) else s
    (s.modUnit u (fun p =>
      let q := { p with st := .on, later := none, release := false }
      if p.later = some false then q.down (decide (u < 64)) else q)).powerAnswers
  else s

/-- A unit enters OFF. -/
def PowerUnit.toOff (now : Nat) (p : PowerUnit) : PowerUnit :=
  let q := { p with st := .off, req := false, later := none, stuck := false, release := false }
  if p.later = some true then q.up now else q

/-- The rows in progress of a strainer poisoned, those retained from earlier steps too: they run dry with cause ROW_ECC and
end (R398). -/
def State.poisonStrainer (s : State) (i : Nat) : State :=
  (s.str.rows.filter (fun r => r.team.contains i)).foldl (fun s r => s.failRow r dryRowEcc) s

/-- An acknowledge that falls while its unit is ON (R398): the unit enters OFF at once, and firmware asks for it
again. -/
def State.ackFell (s : State) (u : Nat) : State :=
  let s := s.logErr errAckFell none u 0 0
  let s := if 64 ≤ u then s.poisonStrainer (u - 64) else s
  s.modUnit u (fun p =>
    let q := { p with st := .off, req := false, later := none, stuck := false, release := false }
    if s.fw && p.want then q.up s.now else q)

/-- An acknowledge falls. -/
def State.ackFall (s : State) (u : Nat) : State :=
  let p := s.unit u
  let s := s.modUnit u (fun p => { p with ack := false })
  if !p.ack then s
  else match p.st with
    | .on => s.ackFell u |>.powerAnswers
    | .goingOff => if p.req then s else (s.modUnit u (fun p => p.toOff s.now)).powerAnswers
    | .off => if p.stuck then (s.modUnit u (fun p => p.toOff s.now)).powerAnswers else s
    | .goingOn => s.modUnit u (fun p => { p with since := s.now })

def execBankAckRise (t : Time) (bank : BitVec 6) (s : State) : Result1 := .next ((s.at t).ackRise bank.toNat)

def execBankInitDone (t : Time) (bank : BitVec 6) (s : State) : Result1 := .next ((s.at t).initDone bank.toNat)

/-- A GOING_OFF bank has completed its granted accesses: it drops its request (R58). -/
def execBankDrainDone (t : Time) (bank : BitVec 6) (s : State) : Result1 :=
  let s := s.at t
  .next (if (s.unit bank.toNat).st = .goingOff then s.modUnit bank.toNat (fun p => if p.req then { p with req := false, since := s.now } else p) else s)

def execBankAckFall (t : Time) (bank : BitVec 6) (s : State) : Result1 := .next ((s.at t).ackFall bank.toNat)

def execStrainerAckRise (t : Time) (strainer : BitVec 4) (s : State) : Result1 := .next ((s.at t).ackRise (64 + strainer.toNat))

def execStrainerInitDone (t : Time) (strainer : BitVec 4) (s : State) : Result1 := .next ((s.at t).initDone (64 + strainer.toNat))

/-- Whether a strainer still holds a row in progress or a retained row of a team it belongs to (R110). -/
def State.strainerHolds (s : State) (i : Nat) : Bool := s.str.rows.any (fun r => r.team.contains i)

/-- A strainer asked down and released under R110 enters GOING_OFF and drops its request (R394). -/
def execStrainerReleased (t : Time) (strainer : BitVec 4) (s : State) : Result1 :=
  let s := s.at t
  let u := 64 + strainer.toNat
  .next (if (s.unit u).st = .on ∧ (s.unit u).release ∧ !s.strainerHolds strainer.toNat then
      s.modUnit u (fun p => { p with st := .goingOff, req := false, release := false, since := s.now })
    else s)

def execStrainerAckFall (t : Time) (strainer : BitVec 4) (s : State) : Result1 := .next ((s.at t).ackFall (64 + strainer.toNat))

/-- ACK_TIMEOUT (R398): 20 µs of AON time without the acknowledge's change. -/
def State.ackTimeout (s : State) (u : Nat) : State :=
  let p := s.unit u
  if s.now < p.since + 2000 then s
  else if p.st = .goingOn ∧ p.req ∧ !p.ack then
    ((s.modUnit u (fun p => { p with st := .off, req := false, want := false, later := none })).logErr errAckTimeout none u 1 0).powerAnswers
  else if p.st = .goingOff ∧ !p.req ∧ p.ack then
    ((s.modUnit u (fun p => { p with st := .off, stuck := true })).logErr errAckTimeout none u 2 0).powerAnswers
  else s

def execAckTimeout (t : Time) (unit : Nat) (s : State) : Result1 :=
  let s := s.at t
  .next (if unit < 80 then s.ackTimeout unit else s)

end Sys2Proof.Machine
end

