-- ==== Sys2Proof/Machine/BootOps.lean ====
section
/-! DEFINITION. Reset, boot and skim mode (14_control_cores_boot_and_commands.md, R389 to R393): the reset sequence, the
boot stages, the image checks of Table 14-4, the boot registers with behaviour of their own, and power loss. -/

namespace Sys2Proof.Machine

/-! ### Boot-failure causes (Table 14-5) -/

def causeSelftest : Nat := 0x01
def causeSramInit : Nat := 0x02
def causeImageLength : Nat := 0x03
def causeImageCrc : Nat := 0x04
def causeImageFormat : Nat := 0x05
def causeKeyUnknown : Nat := 0x06
def causeKeyRevoked : Nat := 0x07
def causeRollback : Nat := 0x08
def causeSignature : Nat := 0x09
def causeFwTrap : Nat := 0x0A
def causeFwTimeout : Nat := 0x0B
def causeResetDuringBoot : Nat := 0x0C

/-- Record a boot failure (R343, R347): the counter rises where no GO has counted this boot, BIP is cleared, the record
is kept among the last three, and the failure is logged. -/
def State.bootFail (s : State) (raise : Bool) (cause stage d0 d1 : Nat) (fw : Word) : State :=
  let s := s.modBoot (fun b =>
    { b with fcount := if raise then min 3 (b.fcount + 1) else b.fcount, bip := false,
             fails := (⟨s.now, cause, stage, fw, BitVec.ofNat 32 d0, BitVec.ofNat 32 d1⟩ :: b.fails).take 3 })
  s.logErr errBootFail none cause d0 stage

/-- Enter skim mode (R348): only the ROM runs. -/
def State.enterSkim (s : State) : State := s.modBoot (fun b => { b with stage := 9, running := false, bip := false })

/-- Restart the boot at stage 1 with every core held in reset and nothing else reset (R344). -/
def State.bootRestart (s : State) : State :=
  s.modBoot (fun b => { b with stage := 1, running := false, roles := List.replicate 5 none, progress := 0, failedRole := none })

/-! ### Reset -/

/-- BIP and FCOUNT as a reset leaves them: a GO that came with the reset is lost (R372). -/
def State.bootKept (s : State) : Bool × Nat :=
  match s.boot.goUndo with
  | some (c, a, bip, n) => if c = s.clk.ctl ∧ a = s.now then (bip, n) else (s.boot.bip, s.boot.fcount)
  | none => (s.boot.bip, s.boot.fcount)

/-- A power unit under reset: its request is dropped, its acknowledge is the outside's. -/
def PowerUnit.underReset (p : PowerUnit) : PowerUnit := { ack := p.ack }

/-- The ports under reset: what was put out stays so, and commands and reads outstanding are forgotten (R390). -/
def Ports.underReset (p : Ports) : Ports := { p with rxResp := 0, reads := [], cel := [], celPassed := 0 }

/-- The state from the assertion of a reset: what Table 16-5 keeps, and everything else lost. Port histories are kept,
since what was put out was put out. -/
def State.underReset (s : State) (cold : Bool) : State :=
  { clk := { s.clk with fab := 0, tsLatch := 0, alive := 0, inReset := 0x3F, fchg := false, lost := [], rstDone := false, seq := 0, power := none, host := none,
                        coldLow := cold || s.clk.coldLow, warmLow := !cold || s.clk.warmLow, cold := cold }
    vat := { banks := s.vat.banks.map PowerUnit.underReset }
    str := { units := s.str.units.map PowerUnit.underReset }
    fuses := s.fuses
    boot := { bip := s.bootKept.1, fcount := s.bootKept.2, fails := s.boot.fails, resetKind := if cold then 2 else 1, resetAon := s.now,
              reached := if s.bootKept.1 && decide (5 ≤ s.boot.stage) && decide (s.boot.stage ≤ 7) then s.boot.stage else s.boot.reached }
    mbox := { ctxs := s.mbox.ctxs.map (fun _ => {}) }
    log := { entries := s.log.entries, next := s.log.next }
    wrap := s.wrap
    ports := s.ports.underReset
    free := s.free
    pending := s.pending }

/-- COLD_RESET. -/
def execColdReset (t : Time) (s : State) : Result1 := .next ((s.at t).underReset true)

/-- WARM_RESET: ignored during a cold sequence (R389). -/
def execWarmReset (t : Time) (s : State) : Result1 :=
  let s := s.at t
  .next (if s.clk.cold && !s.clk.rstDone then s else s.underReset false)

/-! ### The fuses' map-outs (R66, R67, R370) -/

/-- Distinct numbers in ascending order. -/
def distinct (l : List Nat) : List Nat := (sortBy (fun a b => decide (a ≤ b)) l).foldr (fun x r => if r.head? = some x then r else x :: r) []

/-- Rows out of a bank. -/
def rowsOut (rows : List Nat) (b : Nat) : Nat := (rows.filter (fun p => p / 2048 == b)).length

/-- Banks with more than 64 distinct rows out (R67). -/
def deadBanks (rows : List Nat) : List Nat := (List.range 64).filter (fun b => decide (64 < rowsOut rows b))

/-- BANKS_OK for a list of dead banks. -/
def banksOkOf (dead : List Nat) : BitVec 64 := BitVec.ofNat 64 (pack ((List.range 64).map (fun b => (1, b2n (!dead.contains b)))))

/-- Vat rows mapped out, every row of a wholly mapped-out bank counted (Table 15-6). -/
def mapoutCount (rows dead : List Nat) : Nat := (rows.filter (fun p => !dead.contains (p / 2048))).length + 2048 * dead.length

/-- Put map-outs in force: the rows, the banks treated as wholly mapped out, and the registers of R370. -/
def State.setMapOut (s : State) (rows dead : List Nat) : State :=
  (s.modVat (fun v => { v with mapOut := rows, dead := dead })).modRegs
    (fun g => { g with banksOk := banksOkOf dead, mapoutRows := mapoutCount rows dead })

/-- A fuse write finishes (R417). -/
def Fuses.finish (f : Fuses) : Fuses :=
  match f.writing with
  | none => f
  | some (0, v) => { f with minSvn := max f.minSvn v, writing := none }
  | some (_, v) => { f with revoked := f.revoked ||| BitVec.ofNat 4 v, writing := none }

/-- Step 1 of Table 16-4: the release is sampled. A memory test that has run makes the sequence cold (R416). -/
def State.releaseReset (s : State) : State :=
  let cold := s.clk.cold || s.wrap.spoiled || s.wrap.running
  let s := s.modClk (fun c => { c with alive := 0x3F, coldLow := false, warmLow := false, cold := cold })
  let s := s.modWrap (fun w => { w with running := false, spoiled := false })
  s.modBoot (fun b => { b with resetKind := if cold then 2 else b.resetKind })

/-- Step 2: the fuses are read into their shadows. -/
def State.readFuses (s : State) : State :=
  let s := s.modFuses Fuses.finish
  let f := s.fuses
  let s := s.modStr (fun x => { x with usable := f.strainers })
  let s := s.modChurn (fun x => { x with lanes := f.lanes })
  let rows := distinct (f.rows.map (fun r => r.toNat))
  s.setMapOut rows (deadBanks rows)

/-- A domain leaves reset: its IN_RESET bit clears. -/
def State.leaveReset (s : State) (d : Nat) : State := s.modClk (fun c => { c with inReset := c.inReset &&& ~~~BitVec.ofNat 6 (2 ^ d) })

/-- One step of Table 16-4. IN_RESET of AON, which the register port never shows set, clears with HLK's. -/
def State.sequenceStep (s : State) (k : Nat) : State :=
  match k with
  | 1 => s.releaseReset
  | 2 => s.readFuses
  | 3 => s.modBoot (fun b => { b with stuckAcks := (List.range 80).filter (fun u => (s.unit u).ack) })
  | 4 => (s.leaveReset 5).leaveReset 4
  | 5 => s.leaveReset 2
  | 6 => s.leaveReset 3
  | 7 => s.leaveReset 1
  | 8 => s.leaveReset 0
  | 9 => (s.modClk (fun c => { c with rstDone := true })).modBoot (fun b => { b with stage := 1 })
  | _ => s

/-- The reset sequence of Table 16-4 goes on to a step. -/
def State.resetSequence (s : State) (upTo : Nat) : State :=
  (List.range 9).foldl (fun s i =>
    if s.clk.seq < i + 1 ∧ i < upTo then (s.sequenceStep (i + 1)).modClk (fun c => { c with seq := i + 1 }) else s) s

/-- RESET_RELEASE: both resets are high, and the sequence has run to a step of Table 16-4 by the command's time; 9 is
rst_done. -/
def execResetRelease (t : Release) (s : State) : Result1 := .next ((s.at t.time).resetSequence t.upTo)

/-! ### Stages 1 to 4 -/

/-- The cores that pass, in ascending order (R337). -/
def passing (m : BitVec 5) : List Nat := (List.range 5).filter (fun i => bit m.toNat i)

/-- Stage 2: a boot that a reset cut short is recorded, and at a count of 3 or more the ROM enters skim mode (R342,
R343). -/
def State.countStage (s : State) : State :=
  let s := s.modBoot (fun b => { b with stage := 2 })
  let s := if s.boot.bip then s.bootFail false causeResetDuringBoot 2 s.boot.reached 0 0 else s
  if 3 ≤ s.boot.fcount then s.enterSkim else s.modBoot (fun b => { b with stage := 3 })

/-- Stage 1 ends (R337, R344). -/
def State.selftest (s : State) (m : BitVec 5) : State :=
  let ok := passing m
  let give := fun (n : Nat) (b : Boot) => { b with passed := m, roles := (List.range 5).map (fun i => if i < n then ok[i]? else none) }
  if 4 ≤ ok.length then (s.modBoot (give 5)).countStage
  else
    let s := s.bootFail true causeSelftest 1 (31 - m.toNat) 0 0
    if ok = [] then s.modBoot (fun b => { b with halt := true, passed := m })
    else
      let s := s.modBoot (give 1)
      if 3 ≤ s.boot.fcount then s.countStage else s.modBoot (fun b => { b with stage := 1 })

/-- SELFTEST_DONE. -/
def execSelftestDone (t : Time) (passed : BitVec 5) (s : State) : Result1 :=
  let s := s.at t
  .next (if s.boot.stage = 1 ∧ !s.boot.halt then s.selftest passed else s)

/-- Rewrite bad entries as LOG_VOID under their own SEQ (R405). -/
def Log.void (l : Log) (now : Nat) (bad : List Nat) : Log :=
  { l with entries := l.entries.map (fun e => if bad.contains e.seq then ⟨e.seq, { time := now, code := errLogVoid }⟩ else e) }

/-- Enter AWAIT_IMAGE with an empty repair intake (R373). -/
def State.awaitImage (s : State) : State := s.modBoot (fun b => { b with stage := 4, repair := [], repairOvf := false })

/-- The core of CC0's role runs the ROM, up to stage 6 (R342): no takeover of the role is in progress. -/
def State.romRuns (s : State) : Bool := !s.boot.halt && s.roleUp 0

/-- Stage 3 ends: the shared control SRAM is written, the mailbox-context region, core code and firmware data in it (an
unwritten byte reads 0: notes/assumptions/149.md); the log is kept on a warm boot with its bad entries made void, and cleared on a cold one; a restarted
boot keeps it (R344, R392, R405). -/
def State.sramInit (s : State) (ue : Option Word) (badLog : List Nat) : State :=
  match ue with
  | some a => (s.bootFail true causeSramInit 3 a.toNat 3 0).bootRestart
  | none =>
    let s := if s.clk.cold then (s.modLog (fun l => { l with entries := [], next := 0 })).modClk (fun c => { c with cold := false })
      else
        let held := s.log.entries.filter (fun e => badLog.contains e.seq)
        (s.modLog (fun l => l.void s.now badLog)).modBoot (fun b => { b with voided := held.length })
    ((s.modMbox (fun m => { m with windows := [] })).modBoot (fun b => { b with core := [], data := [] })).awaitImage

/-- SRAM_INIT_DONE. In FW_INIT firmware initialises engine SRAM; an uncorrectable error there is a failure of that stage
(Table 14-1). -/
def execSramInitDone (t : Time) (ue : Option Word) (badLog : List Nat) (s : State) : Result1 :=
  let s := s.at t
  .next (if s.boot.stage = 3 ∧ s.romRuns then s.sramInit ue badLog
    else if s.boot.stage = 7 ∧ s.fw then
      match ue with
      | some a => (s.bootFail false causeSramInit 7 a.toNat 7 s.boot.fwVersion).bootRestart
      | none => s
    else s)

/-! ### The intake, the staging window and GO (R371 to R374) -/

/-- REPAIR_DATA (R373): a write beyond the 1,024th entry is dropped with OVF, one outside AWAIT_IMAGE is dropped and
counted. -/
def State.repairData (s : State) (entry : Word) : State :=
  if s.inRst 2 then s.dropAccess 0x020 true
  else if s.boot.stage = 4 then
    if s.boot.repair.length < 1024 then s.modBoot (fun b => { b with repair := b.repair ++ [entry] })
    else (s.modBoot (fun b => { b with repairOvf := true })).dropAccess 0x020 true
  else (s.modRegs (fun g => { g with stageDrops := sat 0xFFFF (g.stageDrops + 1) })).dropAccess 0x020 true

def execRepairData (t : Time) (entry : Word) (s : State) : Result1 :=
  .next ((s.at t).hostAct ⟨true, 0x020, 4, entry.setWidth 64⟩ (fun s => s.repairData entry))

/-- STAGING_WINDOW_WRITE; `offset` counts from 0x0020_0000. -/
def State.stagingWrite (s : State) (offset : Nat) (data : List Byte) : State :=
  if s.inRst 4 then s
  else if offset % 4 ≠ 0 ∨ data.length % 4 ≠ 0 ∨ 2 ^ 20 < offset + data.length then s.dropAccess (0x00200000 + offset) true
  else if s.boot.stage = 4 then s.modMbox (fun m => { m with windows := Memory.writeRun offset data m.windows })
  else (s.modRegs (fun g => { g with stageDrops := sat 0xFFFF (g.stageDrops + 1) })).dropStaging (0x00200000 + offset)

def execStagingWindowWrite (t : Time) (offset : Nat) (data : List Byte) (s : State) : Result1 := .next ((s.at t).stagingWrite offset data)

/-- Place of the first repair entry that breaks R68. -/
def badRepair (l : List Word) : Option Nat := l.findIdx? (fun e => !bit e.toNat 31 || decide (bits e.toNat 17 14 ≠ 0))

/-- GO in AWAIT_IMAGE (R343, R372, R373): the repair list is taken and checked under R68, the counter rises and BIP is
set. -/
def State.go (s : State) : State :=
  let bad := if s.boot.repairOvf then some 1024 else badRepair s.boot.repair
  let s := s.modBoot (fun b =>
    { b with stage := 5, fcount := min 3 (b.fcount + 1), bip := true, goLen := b.imageLen, taken := b.repair, takenOvf := b.repairOvf,
             repairN := b.repair.length, repairSt := b2n bad.isSome, goUndo := some (s.clk.ctl, s.now, b.bip, b.fcount) })
  match bad with
  | some i => s.logErr errRepairRejected none s.boot.repairN i 0
  | none => s

/-- A write to BOOT_CTL (R371): clears first, then takes GO. -/
def State.bootCtl (s : State) (value : Word) : State :=
  let v := value.toNat
  if s.inRst 4 then s
  else if s.inRst 2 ∨ bits v 16 16 ≠ 0xA5C3 ∨ bits v 2 14 ≠ 0 then s.dropAccess 0x014 true
  else
    let s := if bit v 1 then s.modBoot (fun b => { b with fcount := 0 }) else s
    if bit v 0 then (if s.boot.stage = 4 ∧ !s.boot.halt then s.go else s.dropAccess 0x014 true) else s

/-- GO. -/
def execGo (t : Time) (value : Word) (s : State) : Result1 :=
  .next ((s.at t).hostAct ⟨true, 0x014, 4, value.setWidth 64⟩ (fun s => s.bootCtl value))

/-- CLEAR. -/
def execClear (t : Time) (value : Word) (s : State) : Result1 :=
  .next ((s.at t).hostAct ⟨true, 0x014, 4, value.setWidth 64⟩ (fun s => s.bootCtl value))

/-! ### Stage 5: the image checks (Tables 14-2 to 14-4) -/

/-- A segment entry (Table 14-3). -/
structure Segment where
  off : Nat
  len : Nat
  target : Nat
  load : Nat
deriving DecidableEq, Repr

def segmentAt (h : List Byte) (i : Nat) : Segment :=
  let o := 0x020 + 16 * i
  ⟨leAt h o 4, leAt h (o + 4) 4, leAt h (o + 8) 4, leAt h (o + 12) 4⟩

/-- Bytes of a target region (Table 14-3). -/
def targetSize (t : Nat) : Nat := if t = 0 then 196608 else 4980736

/-- Header offsets of the fields of segment i that are out of range. -/
def segmentBad (len : Nat) (i : Nat) (g : Segment) : List Nat :=
  let o := 0x020 + 16 * i
  (if g.off < 0x200 ∨ g.off % 16 ≠ 0 then [o] else []) ++ (if g.len = 0 ∨ len < g.off + g.len then [o + 4] else [])
    ++ (if 1 < g.target then [o + 8] else []) ++ (if g.target ≤ 1 ∧ targetSize g.target < g.load + g.len then [o + 12] else [])

/-- Whether two segments' targets overlap. -/
def Segment.overlaps (a b : Segment) : Bool := a.target == b.target && decide (a.load < b.load + b.len) && decide (b.load < a.load + a.len)

/-- Whether a run of header bytes is 0. -/
def zeroRun (h : List Byte) (off n : Nat) : Bool := (slice h off n).all (fun b => b == 0)

/-- Header offsets of the fields that fail check 3. -/
def formatBad (h : List Byte) (len : Nat) : List Nat :=
  let n := leAt h 0x015 1
  let segs := (List.range (min n 8)).map (fun i => segmentAt h i)
  (if leAt h 0x004 2 ≠ 1 then [0x004] else []) ++ (if leAt h 0x006 2 ≠ 0 then [0x006] else [])
    ++ (if n = 0 ∨ 8 < n then [0x015] else []) ++ (if zeroRun h 0x016 2 then [] else [0x016])
    ++ (if leAt h 0x018 4 < 196608 then [] else [0x018]) ++ (if zeroRun h 0x01C 4 then [] else [0x01C])
    ++ (List.range 8).flatMap (fun i =>
        if i < n then
          segmentBad len i (segmentAt h i)
            ++ (if (segs.take i).any (fun g => g.overlaps (segmentAt h i)) then [0x020 + 16 * i + 12] else [])
        else if zeroRun h (0x020 + 16 * i) 16 then [] else [0x020 + 16 * i])
    ++ (if zeroRun h 0x101 127 then [] else [0x101]) ++ (if zeroRun h 0x1E0 24 then [] else [0x1E0])

/-- The first check of Table 14-4 that an image fails, as cause and details; `none` when it passes. -/
def bootImageFault (f : Fuses) (go : Nat) (img : List Byte) : Option (Nat × Nat × Nat) :=
  let h := img.take 512
  let len := leAt h 0x008 4
  if go < 1024 ∨ 1048576 < go ∨ go % 512 ≠ 0 ∨ go ≠ len then some (causeImageLength, go, len)
  else
    let hc := crc32c (h.take 0x1FC)
    let ic := crc32c ((img.drop 0x200).take (len - 0x200))
    if leAt h 0 4 ≠ 0x4D464B53 ∨ hc ≠ leAt h 0x1FC 4 then some (causeImageCrc, hc, leAt h 0x1FC 4)
    else if ic ≠ leAt h 0x1F8 4 then some (causeImageCrc, ic, leAt h 0x1F8 4)
    else match (formatBad h len).min? with
      | some o => some (causeImageFormat, o, 0)
      | none =>
        let slot := leAt h 0x014 1
        let key := slice h 0x0A0 97
        let svn := leAt h 0x010 4
        if 4 ≤ slot ∨ sha384 key ≠ f.digests.getD slot [] then some (causeKeyUnknown, slot, 0)
        else if bit f.revoked.toNat slot then some (causeKeyRevoked, slot, 0)
        else if svn < f.minSvn then some (causeRollback, svn, f.minSvn)
        else
          let digest := sha384 (slice h 0 0x180 ++ (img.drop 0x200).take (len - 0x200))
          let q := (beNat (slice key 1 48), beNat (slice key 49 48))
          if leAt key 0 1 = 4 ∧ ecdsaOk digest q (beNat (slice h 0x180 48)) (beNat (slice h 0x1B0 48)) then none
          else some (causeSignature, 0, 0)

/-- The bytes of the staged image that a GO length covers; at least the header is read. -/
def State.imageBytes (s : State) : List Byte := Memory.readRun 0 (max 512 (min s.boot.goLen.toNat (2 ^ 20))) s.mbox.windows

/-- AUTH_DONE (R344, R346): the GO was taken, whatever comes after it. -/
def State.auth (s : State) : State :=
  let img := s.imageBytes
  let s := s.modBoot (fun b => { b with goUndo := none })
  match bootImageFault s.fuses s.boot.goLen.toNat img with
  | none => s.modBoot (fun b => { b with stage := 6 })
  | some (c, d0, d1) =>
    let s := s.bootFail false c 5 d0 d1 (BitVec.ofNat 32 (leAt img 0x00C 4))
    if 3 ≤ s.boot.fcount then s.enterSkim else s.awaitImage

def execAuthDone (t : Time) (s : State) : Result1 :=
  let s := s.at t
  .next (if s.boot.stage = 5 ∧ s.romRuns then s.auth else s)

/-! ### Stages 6 to 8 -/

/-- Copy the segments of one target. -/
def copySegments (img : List Byte) (target : Nat) : Memory :=
  let h := img.take 512
  ((List.range (leAt h 0x015 1)).map (fun i => segmentAt h i)).foldl (fun m g =>
    if g.target = target then Memory.writeRun g.load (slice img g.off g.len) m else m) []

/-- LOAD_DONE: segments copied, every core with the core code, cores started at ENTRY. -/
def State.load (s : State) : State :=
  let img := s.imageBytes
  s.modBoot (fun b => { b with stage := 7, running := true, core := copySegments img 0, data := copySegments img 1,
                               fwVersion := BitVec.ofNat 32 (leAt img 0x00C 4), entry := BitVec.ofNat 32 (leAt img 0x018 4) })

def execLoadDone (t : Time) (s : State) : Result1 :=
  let s := s.at t
  .next (if s.boot.stage = 6 ∧ s.romRuns then s.load else s)

/-- Rows that the fuses and an accepted repair list map out (R66 to R68). -/
def State.bootRows (s : State) : List Nat :=
  distinct (s.fuses.rows.map (fun r => r.toNat) ++ (if s.boot.repairSt = 0 then s.boot.taken.map (fun e => bits e.toNat 0 17) else []))

/-- READY: map-outs in force with their log entries, the RESET entry (R393), the counter and BIP cleared, every context
DETACHED (R343, R350, R370, R376, R391). -/
def State.ready (s : State) : State :=
  let rows := s.bootRows
  let full := deadBanks rows
  let stuck := s.boot.stuckAcks
  let s := s.setMapOut rows (distinct (full ++ stuck.filter (fun u => decide (u < 64))))
  let s := s.modStr (fun x => { x with usable := BitVec.ofNat 16 (pack ((List.range 16).map (fun i =>
    (1, b2n (bit x.usable.toNat i && !stuck.contains (64 + i)))))) })
  let s := full.foldl (fun s b => s.logErr errBankOut none b (rowsOut rows b) 0) s
  let s := stuck.foldl (fun s u => s.logErr errBankOut none u 0xFFFFFFFF 0) s
  let s := s.logAt s.boot.resetAon errReset none s.boot.resetKind s.boot.voided 0
  (s.modBoot (fun b => { b with stage := 8, fcount := 0, bip := false })).modMbox (fun m => { ctxs := m.ctxs.map (fun _ => {}), windows := m.windows })

def execReady (t : Time) (s : State) : Result1 :=
  let s := s.at t
  .next (if s.boot.stage = 7 ∧ s.fw then s.ready else s)

/-- FW_INIT_TIMEOUT (R344). -/
def execFwInitTimeout (t : Time) (s : State) : Result1 :=
  let s := s.at t
  .next (if s.boot.stage = 7 ∧ !s.boot.halt then (s.bootFail false causeFwTimeout 7 s.progress.toNat 0 s.boot.fwVersion).bootRestart else s)

/-- POWER_LOSS: nothing but the fuses is kept (Table 16-5); the block waits under cold reset for its power-up (R389). -/
def execPowerLoss (t : Time) (s : State) : Result1 :=
  let s := s.at t
  .next { vat := { banks := s.vat.banks.map (fun _ => {}) }
          str := { units := s.str.units.map (fun _ => {}) }
          fuses := { s.fuses with writing := none }
          mbox := { ctxs := s.mbox.ctxs.map (fun _ => {}) }
          ports := s.ports.underReset
          free := s.free
          pending := s.pending }

end Sys2Proof.Machine
end

