-- ==== Sys2Proof/Machine/Collect.lean ====
section
/-! DEFINITION. The collective engine's commands: COLLECTIVE_TICK, MESSAGE_SEND and ROUND_TIMEOUT
(07_rubewa_collective.md, and R188, R193, R199). -/

namespace Sys2Proof.Machine

/-! ### Logs of the collective engine -/

/-- Log a link loop once per step (R138). -/
def State.linkLoop (s : State) (h : MsgHeader) : State :=
  if s.coll.loopLogged == some s.shell.step then s
  else (s.logErr errLinkLoop none h.src h.hops s.shell.step).modColl (fun c => { c with loopLogged := some s.shell.step })

/-- A message after its timer: counted, and logged once per sending die per step (R160). -/
def State.lateMessage (s : State) (h : MsgHeader) : State :=
  let n := s.shell.step
  let s := s.modColl (fun c => { c with lateCount := c.lateCount + 1 })
  if s.coll.lateLogged.contains (h.src, n) then s
  else (s.logErr errMessageLate none h.src h.kind n).modColl (fun c =>
    { c with lateLogged := (h.src, n) :: c.lateLogged.filter (fun x => x.2 == n) })

/-- A die missing from a gather of this step, counted over consecutive steps: each run of 8 raises LOST_PEER, and the die is
lost until a new configuration is in force (R161, R363). -/
def State.countMissing (s : State) (die : Nat) : State :=
  let n := s.shell.step
  let old := (tget die s.coll.missing).getD (0, n)
  if old.1 ≠ 0 ∧ old.2 = n then s
  else
    let count := if old.2 + 1 = n then old.1 + 1 else 1
    let s := s.modColl (fun c => { c with missing := tput die (count % 8, n) c.missing })
    if count < 8 then s
    else
      let first := match s.coll.config with | some c => c.firstStep | none => 0
      ((s.modColl (fun c => { c with lost := if c.lost.contains die then c.lost else c.lost ++ [die] })).logErr errLostPeer none die n 0).broadcast
        (fun x => x.wantLost) evLostPeer (leBytes 12 (pack [(16, die), (16, 0), (32, n), (32, first)]))

/-- The lowest-numbered die of a list. -/
def lowest (l : List Nat) : Nat := l.min?.getD 0xFFFF

/-- Dies that a timer gave up on: the lowest is logged, once per step (R159), and all of a gather's are counted (R161). -/
def State.peersMissing (s : State) (dies : List Nat) (round : Nat) : State :=
  let n := s.shell.step
  let die := lowest dies
  let s := if s.coll.missLogged.contains (die, n) then s
    else (s.logErr errPeerMissing none die n round).modColl (fun c => { c with missLogged := (die, n) :: c.missLogged.filter (fun x => x.2 == n) })
  if round = 0 then dies.foldl (fun s d => s.countMissing d) s else s

/-! ### Marked buffers (R144, R160) -/

/-- PRAs of `n` rows of a window from row `first`. -/
def Vat.bufferPras (v : Vat) (w : Window) (first n : Nat) : List Nat := (List.range n).filterMap (fun i => v.windowPra w (first + i))

/-- Writes that a buffer row has taken since it was last released, modulo 256. -/
def Vat.rowWrites (v : Vat) (w : Window) (row pra : Nat) : Nat := ((v.tag pra) - Memory.read row w.released).toNat

/-- Release a buffer: its rows' tags are recorded and its mark is gone. -/
def Vat.release (v : Vat) (n first rows : Nat) : Vat :=
  let w := v.window n
  let rel := (v.bufferPras w first rows).zipIdx.foldl (fun m p => Memory.write (first + p.2) (v.tag p.1) m) w.released
  { v with windows := lmod n (fun w => { w with released := rel, marked := w.marked.filter (fun b => b != first) }) v.windows }

/-- What the engine finds in a marked buffer. -/
inductive Found where
  | waiting                                        -- not complete yet
  | overrun
  | poisoned
  | message (h : MsgHeader) (body : List Nat)
deriving DecidableEq, Repr

/-- What the reads of a control tick find in the array, by PRA. -/
abbrev Checks := List (BitVec 17 × Ecc)

/-- Whether a row reads with POISON: an uncorrectable error, a tag with bad parity, or a bank that is not ON (R52, R398). -/
def Vat.poison (v : Vat) (found : Checks) (pra : Nat) : Bool :=
  !v.bankOn (pra / 2048) || found.any (fun x => x.1.toNat == pra && (x.2 == .uncorrectable || x.2 == .tagParity))

/-- Read a marked buffer of `rows` rows. -/
def Vat.readBuffer (v : Vat) (w : Window) (first rows : Nat) (found : Checks) : Found :=
  let pras := v.bufferPras w first rows
  let writes := pras.zipIdx.map (fun p => v.rowWrites w (first + p.2) p.1)
  let cell := fun (i : Nat) => leNat (v.readRow (pras.getD (i / 2) 0) (i % 2 * 64) 64)
  let h := msgHeaderOf (cell 0)
  let used := ceilDiv h.cells 2
  if writes.any (fun n => decide (2 < n)) then .overrun
  else if !crc64Ok (cell 0) || h.cells == 0 || decide (rows < used) || (writes.take used).any (fun n => n != 2) then .waiting
  else if (pras.take used).any (v.poison found) then .poisoned
  else .message h ((List.range (h.cells - 1)).map (fun i => cell (i + 1)))

/-! ### Taking messages -/

/-- The part that a PARTIAL or a MERGED carries. -/
def messagePart (h : MsgHeader) (body : List Nat) : Part :=
  { list := listOfCells h.res.count body, res := h.res, dryCause := h.dryCause, missing := h.missing, hops := h.hops, req := h.req, src := h.src }

/-- The request handle that this die holds for a slot in a step: its manifest entry's in the step in flight, its own part's
in an earlier one. -/
def State.heldReq (s : State) (step slot posn : Nat) : Option Handle :=
  if step = s.shell.step then some (s.entry slot).req
  else match s.sel step slot posn with
    | some x => match x.own with | some p => some p.req | none => some 0
    | none => none

/-- Whether a message's REQ agrees with the receiver's (R146). -/
def reqAgrees (mine : Handle) (h : MsgHeader) : Bool := mine == h.req || mine == 0#32 || (h.dryCause != 0 && h.req == 0#32)

/-- Whether a message's HOPS or SRC is out of bounds: 1 a link loop, 2 a mismatch, 0 neither (R138, R146). -/
def headerFault (c : CollConfig) (w : Window) (h : MsgHeader) : Nat :=
  let spread := h.kind == kDecision || h.kind == kWalk
  if h.hops = 0xFFFF ∨ (if spread then c.ds else c.d) < h.hops then 1
  else if w.role ≠ 4 ∧ h.src ≠ w.peer then 2
  else 0

/-- A message discarded as a mismatch: the slot runs dry with PEER_DRY here (R146). -/
def State.mismatch (s : State) (n : Nat) (h : MsgHeader) : State :=
  let s := s.logErr errMessageMismatch (some h.slot) n h.src h.req.toNat
  let s := if h.step = s.shell.step then s.engDry h.slot dryPeerDry else s
  match s.sel h.step h.slot h.posn with
  | some x => match x.own with
    | some p => if p.dryCause = 0 ∧ !x.sent then s.modSel h.step h.slot h.posn (fun x => { x with own := some (dryPart dryPeerDry p.req) }) else s
    | none => s
  | none => s

/-- Whether a kind may stand in a window of a role (Table 7-5). -/
def kindFits (role : Nat) (k : Nat) : Bool :=
  match role with
  | 1 => k == kPartial || k == kHist
  | 2 => k == kDecision || k == kWalk
  | 3 => k == kMerged
  | 4 => k == kDecision || k == kFound || k == kReject
  | _ => false

/-- One more part, in place of an earlier one of the same child. -/
def addPart (p : Part) (l : List Part) : List Part := l.filter (fun q => q.src != p.src) ++ [p]

/-- The block round after the one in progress (R156). -/
def Sel.nextBlk (x : Sel) : Nat := match x.blk with | some b => b + 1 | none => 0

/-- Take a PARTIAL: one part of each child for a gather or a block round. One for the round to come may arrive before this
die has its WALK; any other BLOCK is a mismatch (R148, R151, R156). -/
def State.takePartial (s : State) (n : Nat) (h : MsgHeader) (body : List Nat) : State :=
  let p := messagePart h body
  let (sent, now, next) := match s.sel h.step h.slot h.posn with
    | some x => (x.sent, x.blk.getD 0, x.nextBlk)
    | none => (false, 0, 0)
  if !sent ∧ h.res.block = now then s.modSel h.step h.slot h.posn (fun x => { x with parts := addPart p x.parts })
  else if sent ∧ h.res.block = next then s.modSel h.step h.slot h.posn (fun x => { x with early := addPart p x.early })
  else s.mismatch n h

/-- Take a MERGED (R152). A list of a retained selection that no pass round has led to is the block of a block round. -/
def State.takeMergedMsg (s : State) (h : MsgHeader) (body : List Nat) : State :=
  let block := h.round == 0 && h.res.count != 0 && (match s.sel h.step h.slot h.posn with | some x => x.own.isSome && retainedK x.k | none => false)
  s.takeMerged h.step h.slot h.posn block (messagePart h body)

/-- Bodies of a participant's rows that a decision of their slot ends: what it still holds of them goes. -/
def State.endSelections (s : State) (slot step : Nat) : State :=
  let s := (s.str.rows.filter (fun r => r.slot == slot && decide (r.step ≤ step) && r.stage == .retained && r.slab.isNone)).foldl
    (fun s r => s.endRow r) s
  s.modColl (fun c => { c with sels := lmodIf (fun x => x.slot == slot && decide (x.step ≤ step)) (fun x => { x with taken := true, root := none }) c.sels })

/-- The states whose keys mask the rows of a decided entry, with the grammar; none where they cannot be formed (R188, R193).
Only the drafts of a speculative entry are walked: prompt tokens never are (R191). -/
def State.decisionKeys (s : State) (d : Decision) : Option (Option (Grammar × List GState)) :=
  match gramSummaryOf d.gram with
  | none => some none
  | some w => match s.grammarOf w.handle with
    | none => none
    | some g =>
      let (st, extra) := summaryState w
      (statesAlong g (strOf (s.gramVocab g)) extra st (d.record.toks.take (if d.entry.spec then d.entry.feed - 1 else 0))).map (fun l => some (g, l))

/-- The ready test of a participant at a DECISION (R199): misses are read at class 1 and the keys are pinned; images that
differ are logged (R188). -/
def State.decisionMasks (s : State) (f : Shape) (slot step : Nat) (d : Decision) : State :=
  match s.decisionKeys d with
  | some none => s
  | none => s.logErr errGrammarMismatch (some slot) (match gramSummaryOf d.gram with | some w => w.handle.toNat | none => 0) step 0
  | some (some (g, l)) =>
    if d.entry.kind ≠ .live then s
    else
      let miss := (l.flatMap (fun q => s.keyMisses g f.shardBase f.shardLen q.state (clsOf g q.stack))).eraseDups
      (s.askItems g 1 miss).pinKeys f slot d.entry.step g l

/-- RSTEP of the request in a slot of another home, counted from its decisions (R129): a request that enters with an empty
penalty list has committed nothing; one that has committed before brings a count that no message carries, a free value. -/
def decisionRstep (d : Decision) (old slot : Nat) : Nat :=
  if d.entry.first then (if d.penalty.isEmpty then 0 else Config.rootRstep d.entry.req.toNat slot) else if d.toks.isEmpty then old else old + 1

/-- What a participant does with the decision of a slot (R26, R122, R147, R153). CC2 writes the entry: nothing does while its
role has no core or the SK9 halts (R340, R341). -/
def State.applyDecision (s : State) (f : Shape) (step slot : Nat) (d : Decision) : State :=
  let s := s.endSelections slot step
  let s := if s.duty 2 then s.writeEntry slot d.entry d.record else s
  let s := s.modColl (fun c => { c with gsum := tput slot d.gram c.gsum, rsteps := tput slot (decisionRstep d ((tget slot c.rsteps).getD 0) slot) c.rsteps,
                                        sampling := if d.entry.first then tput slot d.sampling c.sampling else c.sampling })
  let s := s.modDrw (fun w =>
    { w with penalty := tput slot (if d.entry.first then d.penalty else d.toks.foldl penaltyCommit ((tget slot w.penalty).getD [])) w.penalty })
  (s.sweepPins slot s.shell.step).decisionMasks f slot step d

/-- Take a DECISION: written on, and applied by every die but the slot's home (R153). -/
def State.takeDecision (s : State) (c : CollConfig) (f : Shape) (role : Nat) (h : MsgHeader) (body : List Nat) : State :=
  match decisionOf body with
  | none => s
  | some d =>
    let s := if role = 4 then s.modColl (fun k => { k with homeOf := tput h.slot h.src k.homeOf }) else s
    let s := s.spreadOn c f { h with hops := h.hops + 1 } 0 body
    if s.homed h.slot then s else s.applyDecision f h.step h.slot d

/-- The list entry that an order value names. -/
def entryOfOrder (v : Nat) : ListEntry := ⟨BitVec.ofNat 32 (v / 2 ^ 24), BitVec.ofNat 24 (0xFFFFFF - v % 2 ^ 24)⟩

/-- A block asked for by a WALK of WKIND 5 (R156). -/
def State.walkBlock (s : State) (h : MsgHeader) (w : WalkMsg) : State :=
  let cur := if w.hi = hiTop then none else some (entryOfOrder w.hi)
  let n := h.res.block
  let s := s.beginBlock h.step h.slot h.posn n cur
  match s.row h.slot h.posn with
  | some r => if r.slab.isSome then s else s.askWork h.slot h.posn (.block n)
  | none => s

/-- The die that a resolve names walks its tied entries and answers the root with FOUND (R155); one whose row is in slabs may
need another look first (R113). -/
def State.answerResolve (s : State) (c : CollConfig) (f : Shape) (x : Sel) (h : MsgHeader) (w : WalkMsg) : State :=
  match s.row h.slot h.posn with
  | none => s
  | some r => match s.resolveRow r w with
    | .ok none => s
    | .ok (some (e, acc, wt)) =>
      (s.post 2 c.rootAddr (listBase f c.nb h.step h.slot 0 11)
        { kind := kFound, posn := h.posn, src := c.die, step := h.step, slot := h.slot, round := h.round, req := h.req } [foundCell e acc wt]).modSel
        h.step h.slot h.posn (fun x => { x with walk := none })
    | .error q => (s.askPass r q).lookDry c f x

/-- A WALK of a round that has ended here already: a row in slabs takes its pass for the next look (R113). -/
def State.walkEnded (s : State) (x : Sel) (w : WalkMsg) : State :=
  match s.row x.slot x.posn with
  | some r => if s.lookNeeded x w then s.askPass r w.pass else s
  | none => s

/-- Take a WALK: written on, and run on this die's own row (R154 to R156). -/
def State.takeWalk (s : State) (c : CollConfig) (f : Shape) (h : MsgHeader) (body : List Nat) : State :=
  let w := walkMsgOf (body.headD 0)
  let s := s.spreadOn c f { h with hops := h.hops + 1 } h.posn body
  if w.wkind = 5 then s.walkBlock h w
  else match s.sel h.step h.slot h.posn with
    | none => s
    | some x =>
      if x.endRound == some h.round then s.walkEnded x w
      else
        let s := s.beginWalk x w h.round
        let x := (s.sel h.step h.slot h.posn).getD x
        if w.wkind = 4 then (if w.owner = c.die then s.answerResolve c f x h w else s)
        else if s.lookNeeded x w then ((match s.row x.slot x.posn with | some r => s.askPass r w.pass | none => s)).lookDry c f x
        else s.histStep c f h.step h.slot h.posn

/-- Take a HIST: one histogram of each child for a pass round (R154). One of a newer round than the last WALK begins that
round; one of an older round, or of one that a timer has ended, is late (R160); one of a round that ended dry here adds
nothing. -/
def State.takeHist (s : State) (c : CollConfig) (f : Shape) (h : MsgHeader) (body : List Nat) : State :=
  match s.sel h.step h.slot h.posn with
  | none => s
  | some x =>
    if h.round < x.round ∨ x.lateRound = some h.round then s.lateMessage h
    else if x.endRound = some h.round then s
    else
      let fresh := decide (x.round < h.round)
      let hops := max (h.hops + 1) (if fresh then 0 else x.histHops)
      let s := s.modSel h.step h.slot h.posn (fun x =>
        { x with round := h.round, walk := if fresh then none else x.walk, hist := if fresh then none else x.hist,
                 hists := tput h.src (histOf body) (if fresh then [] else x.hists), histHops := hops })
      if h.dryCause ≠ 0 then
        match s.sel h.step h.slot h.posn with | some x => s.dryRound c f x h.dryCause h.missing | none => s
      else s.histStep c f h.step h.slot h.posn

/-- Take a FOUND at the root (R155); one that no resolve awaits any more is late (R160). -/
def State.takeFound (s : State) (c : CollConfig) (f : Shape) (h : MsgHeader) (body : List Nat) : State :=
  match s.sel h.step h.slot h.posn with
  | some x => match x.root, x.walk with
    | some r, some w =>
      if h.round ≠ x.round ∨ w.wkind ≠ 4 then s.lateMessage h
      else (s.rootFound x r w (foundOf (body.headD 0))).rootGo c f h.step h.slot h.posn 64
    | _, _ => s.lateMessage h
  | none => s.lateMessage h

/-- Whether a message's timer has expired: the gather's for a PARTIAL, the home's for a MERGED (R160). -/
def Sel.tooLate (x : Sel) (k : Nat) : Bool :=
  if k = kPartial then x.late else if k = kMerged then x.taken || (match x.merged with | some p => p.dryCause != 0 | none => false) else false

/-- One message taken from window n, or discarded (R138, R146, R160). A DECISION that comes after the freeze is taken all
the same: R26 drops its entry (R153). -/
def State.takeMessage (s : State) (n role : Nat) (c : CollConfig) (f : Shape) (h : MsgHeader) (body : List Nat) : State :=
  let bad := headerFault c (s.vat.window n) h
  if bad = 1 then s.linkLoop h
  else if bad = 2 ∨ !kindFits role h.kind then s.mismatch n h
  else match s.heldReq h.step h.slot h.posn with
    | none => if h.kind = kDecision then s.takeDecision c f role h body else s.lateMessage h
    | some mine =>
      if !reqAgrees mine h then s.mismatch n h
      else if h.kind = kDecision then s.takeDecision c f role h body
      else if (match s.sel h.step h.slot h.posn with | some x => x.tooLate h.kind | none => false) then s.lateMessage h
      else if h.kind = kPartial then s.takePartial n h body
      else if h.kind = kMerged then s.takeMergedMsg h body
      else if h.kind = kWalk then s.takeWalk c f h body
      else if h.kind = kHist then s.takeHist c f h body
      else if h.kind = kFound then s.takeFound c f h body
      else s.rejectAt c f h.step h.slot h.posn (foundOf (body.headD 0)).1

/-- What the reads of a buffer find, counted, logged and named (R62, R63, R65). -/
def State.bufferReads (s : State) (w : Window) (first rows : Nat) (found : Checks) : State :=
  let pras := s.vat.bufferPras w first rows
  (found.filter (fun x => pras.contains x.1.toNat && s.vat.bankOn (x.1.toNat / 2048))).foldl (fun s x => s.rowRead x.1.toNat x.2) s

/-- One marked buffer sampled (R144, R160): a message of a step that has not begun here stays in its buffer. -/
def State.sampleBuffer (s : State) (found : Checks) (n first : Nat) : State :=
  let w := s.vat.window n
  match s.coll.configOf n, s.shapeNow with
  | some c, some f => match bufferOf c f w.role first with
    | none => s
    | some (_, rows) =>
      let free := fun (s : State) => s.modVat (fun v => v.release n first rows)
      let got := s.vat.readBuffer w first rows found
      let s := s.bufferReads w first rows found
      match got with
      | .waiting => s
      | .overrun => free (s.logErr errBufferOverrun none n first s.shell.step)
      | .poisoned => free s
      | .message h body => if s.shell.step < h.step then s else (free s).takeMessage n w.role ((s.roundsAt h.step).getD c) f h body
  | _, _ => s

/-- Every marked buffer sampled, windows in ascending order (R157). -/
def State.sampleAll (s : State) (found : Checks) : State :=
  (s.vat.windows.zipIdx.flatMap (fun p => p.1.marked.map (fun b => (p.2, b)))).foldl (fun s p => s.sampleBuffer found p.1 p.2) s

/-! ### Merging (R148 to R152, R156) -/

/-- The smallest k that a merge keeps: every entry of a retained selection's empty lists, a block's own length, and a full
list where this die gives no list of its own. -/
def Sel.mergeLen (x : Sel) (own : Part) : Nat :=
  match x.blk with
  | some b => blockLen x.k b
  | none => if own.dryCause ≠ 0 then 256 else if retainedK x.k then 0 else x.k

/-- The root sets out to walk a retained selection, with what it learnt in an earlier look of a row in slabs (R113, R154). -/
def State.rootStart (s : State) (x : Sel) (req : Handle) (res : Result) : RootWalk :=
  match s.coll.sels.findSome? (fun y => if y.slot == x.slot && y.posn == x.posn && decide (y.step < x.step) && y.reqOf == req then y.saved else none) with
  | some r => if r.res.figures = res.figures then { r with res := res } else { res := res }
  | none => { res := res }

/-- A block of the whole row at the root (R156): it goes home, its last entry is the next cursor, and the next block asked
for begins. -/
def State.giveWhole (s : State) (c : CollConfig) (f : Shape) (x : Sel) (m : Part) : State :=
  let cur := (m.list.take m.res.count).getLast?
  ((s.giveMerged c f x.step x.slot x.posn 0 true m).modSel x.step x.slot x.posn
    (fun y => { y with cursor := match cur with | some e => some e | none => y.cursor })).blockRound c x.slot x.posn

/-- Merge a selection's parts and send the result up; the root gives it to the home or walks the row (R152, R154). -/
def State.mergeUp (s : State) (c : CollConfig) (f : Shape) (x : Sel) (own : Part) (parts : List Part) (timed : Option Nat) : State :=
  let own := match (if x.step = s.shell.step then s.dryOf x.slot else none) with
    | some d => if own.dryCause = 0 then dryPart d own.req else own
    | none => own
  let m := mergeParts (own :: parts) (x.mergeLen own) (x.blk.getD 0)
  let m := { m with req := own.req, src := c.die, hops := if parts.isEmpty then 0 else 1 + parts.foldl (fun a p => max a p.hops) 0,
                    dryCause := if timed.isSome then dryRoundTimeout else m.dryCause, missing := timed.getD m.missing }
  let s := s.modSel x.step x.slot x.posn (fun y =>
    { y with own := some (if timed.isSome ∧ own.dryCause = 0 then { own with dryCause := dryRoundTimeout } else own), late := timed.isSome, sent := true })
  if c.parent ≠ 0xFFFF then s.sendPartial c f x.step x.slot x.posn m
  else if x.blk.isSome then s.giveWhole c f x m
  else if m.dryCause = 0 ∧ retainedK x.k then
    (s.modSel x.step x.slot x.posn (fun y => { y with root := some (s.rootStart x m.req m.res) })).rootGo c f x.step x.slot x.posn 64
  else s.giveMerged c f x.step x.slot x.posn 0 false m

/-- Children that a selection still awaits. -/
def Sel.awaited (x : Sel) (c : CollConfig) : List Nat :=
  (c.children.filter (fun k => !x.parts.any (fun p => p.src == k.1))).map (fun k => k.1)

/-- Merge a selection whose parts are all there. -/
def State.gatherStep (s : State) (x : Sel) : State :=
  match s.roundsAt x.step, s.shapeNow, x.own with
  | some c, some f, some own => if x.sent || !(x.awaited c).isEmpty then s else s.mergeUp c f x own x.parts none
  | _, _, _ => s

/-- Merge every selection that is ready. -/
def State.gatherAll (s : State) : State := s.coll.sels.foldl (fun s x => s.gatherStep x) s

/-- Row positions of a LIVE slot as messages name them: one for a slot that stores no row. -/
def State.messagePositions (s : State) (f : Shape) (slot : Nat) : List Nat :=
  match s.slotPositions f slot with
  | [] => [0]
  | l => l.map (fun p => if p.1 then f.feedWidth + p.2 else p.2)

/-- The dry parts that a slot gives in the step in flight: one for each row position of a LIVE slot that is dry and has no
row in work here, and one at position 0 of a slot issued DRY (R148). -/
def State.dryParts (s : State) (f : Shape) (slot : Nat) : State :=
  let n := s.shell.step
  let e := s.entry slot
  let give := fun (s : State) (posn cause : Nat) =>
    if (match s.sel n slot posn with | some x => x.own.isSome | none => false) || (s.row slot posn).any (fun r => r.step == n) then s
    else s.modSel n slot posn (fun x => { x with own := some (dryPart cause e.req), tG := if x.tG = 0 then s.clk.eng else x.tG })
  match e.kind with
  | .idle => s
  | .dry => give s 0 e.dryCause
  | .live => match s.dryOf slot with
    | some d => (s.messagePositions f slot).foldl (fun s j => give s j d) s
    | none => s

/-- Selections that waited for their pass buffer try again (R143). -/
def State.retryWaits (s : State) (f : Shape) : State :=
  (sortBy (fun a b => !b.before a) (s.coll.sels.filter (fun x => x.waits))).foldl (fun s x =>
    match s.roundsAt x.step with
    | some c => (s.modSel x.step x.slot x.posn (fun y => { y with waits := false })).rootGo c f x.step x.slot x.posn 64
    | none => s) s

/-- The work of a control tick before its timers: messages first; what they complete is merged and sent on (R157). -/
def State.collTick (s : State) (f : Shape) (found : Checks) : State :=
  let s := s.sampleAll found
  let s := if s.rounds.isSome then (List.range f.slots).foldl (fun s i => s.dryParts f i) s else s
  (s.retryWaits f).gatherAll

/-- COLLECTIVE_TICK. `found` is what the tick's reads of the array find. -/
def execCollectiveTick (t : Time) (found : Checks) (s : State) : Result1 :=
  let s := s.at t
  .next (if s.inRst 1 then s
    else match s.shapeNow with
      | none => s
      | some f => s.collTick f found)

/-! ### MESSAGE_SEND -/

/-- Whether a message goes before another: class, then (STEP, SLOT, POSN). -/
def OutMsg.before (a b : OutMsg) : Bool :=
  let key := fun (m : OutMsg) => (((m.cls * 2 ^ 32 + m.step) * 4096 + m.slot) * 256) + m.posn
  decide (key a < key b)

/-- The message that the port takes next: the first in the queue among equals. -/
def Collective.nextOut (c : Collective) : Option OutMsg :=
  c.outbox.foldl (fun a m => match a with | none => some m | some x => if m.before x then some m else some x) none

/-- The bus address of a cell of a message (R54). -/
def OutMsg.addr (m : OutMsg) (cell : Nat) : BitVec 64 := BitVec.ofNat 64 (m.stamp * 2 ^ 38 + m.window * 2 ^ 32 + (m.base + 64 * cell))

/-- MESSAGE_SEND: the message of the highest class goes out, its header last (R144). -/
def execMessageSend (t : Time) (s : State) : Result1 :=
  let s := s.at t
  .next (if s.inRst 1 then s
    else match s.coll.nextOut with
      | none => s
      | some m =>
        let s := s.modColl (fun c => { c with outbox := c.outbox.erase m })
        s.modPorts (fun p => { p with tx := p.tx ++ m.cells.map (fun x => (m.addr x.1, x.2)) }))

/-! ### ROUND_TIMEOUT (R158, R159, R199) -/

/-- T_loc,max in ticks of 1/18 ns. -/
def locTicks (f : Shape) : Nat := tLocMax (keyWidth f.format) f.shardLen * 10

/-- The per-hop slack s and the hop time, together, in ticks (R158). -/
def hopTicks (c : CollConfig) (f : Shape) : Nat :=
  c.hopNs * 18
    + (c.selBudget * 18 - tMin c.rowset c.d c.ds c.fmax c.hopNs c.rechecks c.bMax (keyWidth f.format) f.shardLen) / (c.d + c.ds + 2)

/-- t_m and t_hm in ticks (Table 7-10, R158). -/
def mergeTicks (c : CollConfig) (pass : Bool) : Nat := (if pass then 32 + c.fmax * 385 + 128 else tMerge c.fmax) * 10

/-- When a die's timer for its children runs out, and the home's for MERGED, in ticks. -/
def childrenDue (c : CollConfig) (f : Shape) (x : Sel) (pass : Bool) : Nat :=
  x.tG * 10 + (if pass then 0 else locTicks f) + c.height * hopTicks c f + (c.height - 1) * mergeTicks c pass
def mergedDue (c : CollConfig) (f : Shape) (x : Sel) : Nat :=
  let pass := x.round != 0
  x.tG * 10 + (if pass then 0 else locTicks f) + (c.d + 1) * hopTicks c f + c.d * mergeTicks c pass

/-- Whether t_G stands: the die's own last tile of the slot has landed, or its part is there. -/
def State.timed (s : State) (x : Sel) : Bool :=
  x.tG != 0 && (x.own.isSome || (s.row x.slot x.posn).any (fun r => r.step == x.step && s.rowLanded r))

/-- Whether a participant's row still waits for its masks (R199). -/
def State.masksLate (s : State) (x : Sel) : Bool :=
  x.own.isNone && (s.reqOfSlot x.slot).isNone && (s.row x.slot x.posn).any (fun r => r.step == x.step
    && !s.masksReady x.slot r.drafts r.shape.shardBase r.shape.shardLen)

/-- A row whose masks never came: its part is dry with MASK_LATE (R199). -/
def State.giveMaskLate (s : State) (x : Sel) : State :=
  match s.row x.slot x.posn with
  | none => s
  | some r =>
    let h := match gramSummaryOf ((tget x.slot s.coll.gsum).getD 0) with | some w => w.handle.toNat | none => 0
    (((s.logErr errMaskLatePeer (some x.slot) h x.step 0).engDry x.slot dryMaskLate).endRow r).modSel x.step x.slot x.posn
      (fun y => { y with own := some (dryPart dryMaskLate r.req) })

/-- The gather timer expires: what has arrived is merged and goes on dry (R159). -/
def State.gatherTimeout (s : State) (c : CollConfig) (f : Shape) (x : Sel) : State :=
  let s := if s.masksLate x then s.giveMaskLate x else s
  match s.sel x.step x.slot x.posn with
  | none => s
  | some x =>
    let own := x.own.getD (dryPart dryRoundTimeout (if x.step = s.shell.step then (s.entry x.slot).req else 0))
    match x.awaited c with
    | [] => s.gatherStep x
    | l => (s.peersMissing l 0).mergeUp c f x own x.parts (some (lowest l))

/-- The home's timer expires: the slot runs dry, and the root is logged as missing (R159). -/
def State.mergedTimeout (s : State) (c : CollConfig) (x : Sel) : State :=
  let s := s.peersMissing [(s.vat.window c.ownHome).peer] x.round
  let s := if x.step = s.shell.step then s.engDry x.slot dryRoundTimeout else s
  s.modSel x.step x.slot x.posn (fun y => { y with merged := some (dryPart dryRoundTimeout y.reqOf) })

/-- Dies whose answer a pass round awaits: children without a histogram, or at the root the die that resolves. -/
def Sel.passAwaited (x : Sel) (c : CollConfig) : List Nat :=
  match x.walk with
  | some w => if w.wkind = 4 then (if c.parent = 0xFFFF then [w.owner] else [])
    else if x.hist.isNone then [] else (c.children.filter (fun k => (tget k.1 x.hists).isNone)).map (fun k => k.1)
  | none => []

/-- A pass round times out: the selection ends dry for the step (R159). -/
def State.passTimeout (s : State) (c : CollConfig) (f : Shape) (x : Sel) : State :=
  let own := fun (p : Part) => if p.dryCause = 0 then { p with dryCause := dryRoundTimeout } else p
  ((s.peersMissing (x.passAwaited c) x.round).modSel x.step x.slot x.posn (fun y => { y with own := y.own.map own, lateRound := some x.round })).dryRound
    c f x dryRoundTimeout (lowest (x.passAwaited c))

/-- Whether a timer of a selection runs and has expired. -/
def State.expired (s : State) (f : Shape) (timer : RoundTimer) (x : Sel) : Bool :=
  match s.roundsAt x.step with
  | none => false
  | some c =>
    let now := s.clk.eng * 10
    s.timed x && match timer with
      | .gather => !x.sent && decide (childrenDue c f x false ≤ now)
          && (s.masksLate x || (decide (1 ≤ c.height) && !(x.awaited c).isEmpty))
      | .merged => s.homed x.slot && c.parent != 0xFFFF && !x.taken && x.merged.isNone && decide (mergedDue c f x ≤ now)
      | .pass => !(x.passAwaited c).isEmpty && decide (childrenDue c f x true ≤ now)

/-- ROUND_TIMEOUT: a timer of a slot's row position expires, once the messages of its control tick are taken (R157). -/
def execRoundTimeout (t : Time) (slot : BitVec 12) (posn : Nat) (timer : Expiry) (s : State) : Result1 :=
  let s := s.at t
  .next (if s.inRst 1 then s
    else match s.shapeNow with
      | none => s
      | some f =>
        let s := s.collTick f timer.found
        match s.coll.sels.find? (fun x => x.slot == slot.toNat && x.posn == posn && s.expired f timer.timer x) with
        | none => s
        | some x => match s.roundsAt x.step, timer.timer with
          | none, _ => s
          | some c, .gather => s.gatherTimeout c f x
          | some c, .merged => s.mergedTimeout c x
          | some c, .pass => s.passTimeout c f x)

end Sys2Proof.Machine
end

