-- ==== Sys2Proof/Machine/Cores.lean ====
section
/-! DEFINITION. Control-core failure, halt and takeover (R338 to R341), the trouble log's writer (R401 to R405), cellar
errors and the loss of a clock (R385). -/

namespace Sys2Proof.Machine

/-- CORE_FAILOVER to every ATTACHED context that asked for it (R357, R363). -/
def State.failoverEvent (s : State) (role core new cause : Nat) : State :=
  s.broadcast (fun x => x.wantFailover) evCoreFailover (leBytes 4 (pack [(8, role), (8, core), (8, new), (8, cause)]))

/-- Halt (R341): every control core held in reset and HALT set. The event goes out only if CC0's core survives. -/
def State.haltRole (s : State) (role core cause : Nat) : State :=
  let alive := role != 0 && (s.boot.roles.getD 0 none).isSome
  let s := s.logErr errHalt none role 0 0
  let s := if alive then s.failoverEvent role core 0xFF cause else s
  s.modBoot (fun b => { b with halt := true, failedRole := none, progress := s.progress })

/-- A core that takes part fails (R338 to R341): logged, and its role waits for the spare or the SK9 halts. Before the roles
are given out every core takes part in the self-test and has none. In skim mode only the ROM's core runs, and there is no
spare (R348). -/
def State.coreFails (s : State) (core cause : Nat) : State :=
  match s.boot.roles.findIdx? (fun r => r == some core) with
  | none => if s.boot.stage = 1 then s.logErr errCoreFailed none core cause 0xFF else s
  | some i =>
    if s.skimMode && i != 0 then s else
    let s := s.logErr errCoreFailed none core cause (if i = 4 then 0xFF else i)
    let s := s.modBoot (fun b => { b with roles := lmod i (fun _ => none) b.roles })
    match s.boot.failedRole with
    | some f => s.haltRole f.1 f.2.1 f.2.2
    | none =>
      if i = 4 then s
      else if (s.boot.roles.getD 4 none).isSome && !s.skimMode then s.modBoot (fun b => { b with failedRole := some (i, core, cause) })
      else s.haltRole i core cause

/-- Whether cores run, the ROM or firmware on them: from stage 1 on, until a halt (R338, R342). -/
def State.coresRun (s : State) : Bool := decide (1 ≤ s.boot.stage) && !s.boot.halt

/-- WATCHDOG_EXPIRY: part of the clock loss, and no core failure, while CTL is stopped (R385). -/
def execWatchdogExpiry (t : Time) (core : Nat) (s : State) : Result1 :=
  let s := s.at t
  .next (if s.coresRun && bit s.clk.alive.toNat 2 then s.coreFails core 1 else s)

/-- UNHANDLED_TRAP: in FW_INIT a boot failure, after which the boot restarts (R344). -/
def execUnhandledTrap (t : Time) (core : Nat) (addr : Word) (code : Byte) (s : State) : Result1 :=
  let s := s.at t
  .next (if s.fw && s.boot.stage == 7 then
      let role := (s.boot.roles.findIdx? (fun r => r == some core)).getD 4
      let s := s.logErr errCoreFailed none core 2 (if role = 4 then 0xFF else role)
      (s.bootFail false causeFwTrap 7 addr.toNat (code.toNat + 256 * core) s.boot.fwVersion).bootRestart
    else if s.coresRun then s.coreFails core 2 else s)

/-- PRIVATE_SRAM_ERROR. -/
def execPrivateSramError (t : Time) (core : Nat) (s : State) : Result1 :=
  let s := s.at t
  .next (if s.coresRun then s.coreFails core 3 else s)

/-- The new core of CC0 takes the doorbells that came during the takeover (R376). -/
def State.takeRung (s : State) : State :=
  (List.range 256).foldl (fun s c =>
    (s.ctx c).rung.foldl (fun s v => s.takeDoorbell c v) (s.modCtx c (fun x => if x.rung.isEmpty then x else { x with rung := [] }))) s

/-- CORE_FAILOVER: the spare takes the failed role (R340). -/
def State.failover (s : State) : State :=
  match s.boot.failedRole, s.boot.roles.getD 4 none with
  | some (r, core, cause), some q =>
    let s := s.modBoot (fun b => { b with roles := lmod 4 (fun _ => none) (lmod r (fun _ => some q) b.roles), failedRole := none })
    let s := if r = 0 then s.takeRung else s
    s.failoverEvent r core q cause
  | _, _ => s

def execCoreFailover (t : Time) (s : State) : Result1 :=
  let s := s.at t
  .next (if s.boot.halt then s else s.failover)

/-! ### The log's writer -/

/-- Write one entry (R401): an entry written when the log is full replaces the oldest. -/
def Log.write (l : Log) (q : LogReq) : Log :=
  let es := if l.entries.length < Config.logSize then l.entries else l.entries.drop 1
  { l with entries := es ++ [⟨l.next, q⟩], next := (l.next + 1) % 2 ^ 32 }

/-- The next entry due (R403): LOG_LOST once room has returned after losses, else the oldest pending request. -/
def Log.writeNext (l : Log) (now : Nat) : Log :=
  if 0 < l.lost ∧ l.pending.length < Config.logPending then
    { l.write { time := now, code := errLogLost, d0 := BitVec.ofNat 32 l.lost } with lost := 0 }
  else match l.pending with
    | [] => l
    | q :: r => { l.write q with pending := r }

/-- LOG_WRITE: at most one entry per 8 CTL cycles; none while CTL is in reset or stopped or CC0's role waits for its new
core. -/
def State.logWrite (s : State) : State :=
  let due := match s.log.wrote with | none => true | some c => decide (c + 8 ≤ s.clk.ctl)
  if s.inRst 2 || !bit s.clk.alive.toNat 2 || !s.roleUp 0 || !due then s
  else if s.log.pending.isEmpty && s.log.lost == 0 then s
  else s.modLog (fun l => { l.writeNext s.now with wrote := some s.clk.ctl })

def execLogWrite (t : Time) (s : State) : Result1 := .next ((s.at t).logWrite)

/-- CELLAR_ERROR: cel_err on a command of no unit with a code of its own; ignored while CEL is in reset (R390). -/
def execCellarError (t : Time) (addr : BitVec 48) (cls : Nat) (s : State) : Result1 :=
  let s := s.at t
  .next (if s.inRst 3 then s else s.logErr errCellarError none (addr.toNat % 2 ^ 32) (addr.toNat / 2 ^ 32) cls)

/-! ### Clock loss (R385) -/

/-- CLOCK_LOSS of ENG (1), CTL (2), CEL (3) or HLK (4) out of reset. A stop of clk_fab (0) for over 1 µs is no loss: CLK_ALIVE
shows it (R384). -/
def State.clockLoss (s : State) (d : Nat) : State :=
  if 4 < d ∨ s.inRst d ∨ !bit s.clk.alive.toNat d then s
  else
    let p := s.progress
    let s := s.modClk (fun c => { c with alive := BitVec.ofNat 6 (c.alive.toNat - 2 ^ d) })
    if d = 0 then s else
    let s := if s.boot.halt then s else s.logErr errHalt none 0xFF 0 0
    let s := s.modBoot (fun b => { b with halt := true, failedRole := none, progress := p })
    if bit s.clk.alive.toNat 2 then s.logErr errClockLost none d 0 0 else s.modClk (fun c => { c with lost := c.lost ++ [d] })

def execClockLoss (t : Time) (domain : Nat) (s : State) : Result1 := .next ((s.at t).clockLoss domain)

/-- CLOCK_RUNS_AGAIN: CLK_ALIVE shows the clock, and losses that waited for CTL are logged. The halt stays until a
reset. -/
def State.clockRuns (s : State) (d : Nat) : State :=
  if 4 < d ∨ s.inRst d then s
  else
    let s := s.modClk (fun c => { c with alive := c.alive ||| BitVec.ofNat 6 (2 ^ d) })
    if bit s.clk.alive.toNat 2 then
      (s.clk.lost.foldl (fun s x => s.logErr errClockLost none x 0 0) s).modClk (fun c => { c with lost := [] })
    else s

def execClockRunsAgain (t : Time) (domain : Nat) (s : State) : Result1 := .next ((s.at t).clockRuns domain)

end Sys2Proof.Machine
end

