-- ==== Sys2Proof/Machine/Customers.lean ====
section
/-! DEFINITION. SET_CUSTOMER, SET_POOL and READ_CUSTOMER (R317, R318, R320, R324, R325, Table 14-12). -/

namespace Sys2Proof.Machine

/-- What SET_CUSTOMER carries beside CUSTOMER (Table 13-6). -/
structure CustFields where
  pool : Nat
  hard : Bool
  weight : Nat
  iw : Nat
  rate : Nat
  burst : Nat
deriving DecidableEq, Repr

/-- Whether the fields lie in the ranges of Table 13-6. -/
def CustFields.ok (f : CustFields) : Bool :=
  decide (f.pool ≤ 15) && decide (1 ≤ f.weight) && decide (f.weight ≤ 65535) && decide (f.rate ≤ 0xFFFFFFFF) && decide (1 ≤ f.burst)
    && decide (f.burst ≤ 0xFFFFFF) && decide (f.iw ≤ 65535)

/-- A customer when it is configured: a full bucket (R318). It is of the epoch's set Q if no build of the epoch has been
(R324). -/
def CustFields.fresh (f : CustFields) (now builds : Nat) : Customer :=
  { pool := f.pool, weight := f.weight, rate := f.rate, burst := f.burst, iw := f.iw, hard := f.hard, level := ((f.burst * 256 : Nat) : Int),
    t := now, inQ := builds == 0 }

/-- A configured customer set anew: POOL, WEIGHT and HARD from the next build, RATE, BURST and IW from the next charge. -/
def Customer.reset (c : Customer) (f : CustFields) : Customer :=
  { c with next := some (f.pool, f.weight, f.hard), nextRate := some (f.rate, f.burst, f.iw) }

/-- Tracked requests of a customer. -/
def State.requestsOf (s : State) (cust : Nat) : Nat := (s.reqs.table.filter (fun p => p.2.customer == cust)).length

/-- Whether a customer has tracked requests or open encode jobs. -/
def State.custBusy (s : State) (cust : Nat) : Bool :=
  decide (0 < s.requestsOf cust)
    || s.churn.streams.any (fun p => match p.2.job with | some (_, c) => c == cust | none => false)

/-- SET_CUSTOMER; FLAGS is HARD in bit 0, REMOVE in bit 1 and reserved bits above. -/
def cmdSetCustomer (b : Sender) (cust flags : Nat) (f : CustFields) (s : State) : State :=
  let no := fun (st : Nat) => s.refuse b opSetCustomer st
  if 4 ≤ flags then no stCmdReserved
  else if 16383 < cust then no stCustParam
  else if bit flags 1 then
    if (s.customer cust).isNone then no stCustUnknown
    else if s.custBusy cust then no stCustBusy
    else (s.modRat (fun q => { q with customers := tdel cust q.customers })).answer b opSetCustomer stOk []
  else if !f.ok then no stCustParam
  else match s.customer cust with
    | some _ => (s.modCustomer cust (fun c => c.reset f)).answer b opSetCustomer stOk []
    | none =>
      (s.modRat (fun q => { q with customers := tput cust (f.fresh s.now q.builds) q.customers })).answer b opSetCustomer stOk []

def execSetCustomer (t : Time) (by_ : Sender) (customer pool : Nat) (flags : Byte) (weight iw rate burst : Nat) (s : State) : Result1 :=
  .next ((s.at t).serve by_ opSetCustomer
    (cmdSetCustomer by_ customer flags.toNat ⟨pool, bit flags.toNat 0, weight, iw, rate, burst⟩))

/-- SET_POOL: WEIGHT and TURN apply from the next build. -/
def cmdSetPool (b : Sender) (pool weight turn : Nat) (s : State) : State :=
  if 15 < pool ∨ weight < 1 ∨ 65535 < weight ∨ 65535 < turn then s.refuse b opSetPool stPoolParam
  else (s.modRat (fun q => { q with pools := lmod pool (fun p => { p with next := some (weight, turn) }) q.pools })).answer b opSetPool stOk []

def execSetPool (t : Time) (by_ : Sender) (pool weight turn : Nat) (s : State) : Result1 :=
  .next ((s.at t).serve by_ opSetPool (cmdSetPool by_ pool weight turn))

/-- READ_CUSTOMER's response body: LEVEL refilled to now, K, S, D, MAXDEV, REQUESTS. -/
def Customer.body (c : Customer) (now maxDev requests : Nat) : List Byte :=
  leBytes 8 (c.levelAt now % 2 ^ 64).toNat ++ leBytes 4 c.k ++ leBytes 4 c.s ++ leBytes 4 c.d ++ leBytes 4 maxDev ++ leBytes 4 requests
    ++ leBytes 4 0

/-- READ_CUSTOMER: the bucket itself does not change (R320). -/
def cmdReadCustomer (b : Sender) (cust : Nat) (s : State) : State :=
  match s.customer cust with
  | none => s.refuse b opReadCustomer stCustUnknown
  | some c => s.answer b opReadCustomer stOk (c.body s.now s.rat.maxDev (s.requestsOf cust))

def execReadCustomer (t : Time) (by_ : Sender) (customer : Nat) (s : State) : Result1 :=
  .next ((s.at t).serve by_ opReadCustomer (cmdReadCustomer by_ customer))

end Sys2Proof.Machine
end

