-- ==== Sys2Proof/Machine/Shaping.lean ====
section
/-! DEFINITION. SET_STEP_SHAPE and SET_HOME_SLOTS (R22 to R24, R162, R209, R303, R418, Table 14-12). -/

namespace Sys2Proof.Machine

/-! ### The step shape (Table 2-1) -/

/-- XALLOW with 0 selecting the default. -/
def shapeAllow (f : ShapeFields) : Nat := if f.xallow = 0 then 64 else f.xallow

/-- The shape that accepted fields make. -/
def shapeOf (f : ShapeFields) : Shape :=
  { stepLen := f.stepLen, manDeadline := f.manDeadline, ingestEnd := f.ingestEnd, xallow := shapeAllow f, slots := f.slots, groupSize := f.groupSize,
    feedWidth := f.feedWidth, draftRows := f.draftRows, shardBase := f.shardBase, shardLen := f.shardLen, format := f.format }

/-- The first status of Table 2-1 that a field out of range gives; ST_OK for none. -/
def shapeRange (f : ShapeFields) : Nat :=
  if f.stepLen < 8192 ∨ 2 ^ 31 < f.stepLen ∨ f.manDeadline < 4096 ∨ f.stepLen ≤ f.manDeadline ∨ f.manDeadline ≤ f.ingestEnd ∨ shapeAllow f < 16
      ∨ 64 < shapeAllow f then stShapeTiming
  else if f.slots < 1 ∨ 4096 < f.slots ∨ f.groupSize < 1 ∨ f.slots < f.groupSize ∨ f.slots % f.groupSize ≠ 0 then stShapeSlots
  else if f.feedWidth < 1 ∨ 9 < f.feedWidth ∨ f.feedWidth ≤ f.draftRows then stShapeRows
  else if 0xFFFFF < f.shardBase ∨ f.shardLen < 1 ∨ 1048576 < f.shardLen ∨ 0x100000 < f.shardBase + f.shardLen then stShapeVocab
  else if 6 < f.format then stShapeFormat
  else stOk

/-- B_max as the SK9 takes it: the largest MAXTOK loaded, or 255 (R209). -/
def State.bMax (s : State) : Nat := if s.churn.vocabs.isEmpty then 255 else (s.churn.vocabs.map (fun p => p.2.maxTok)).foldl max 0

/-- T_sel of R23 in ticks, under the configuration that is to govern the shape's first step (R140). -/
def State.selTime (s : State) (f : ShapeFields) (first : Nat) : Nat :=
  match (s.coll.forStep first).governing first with
  | some c => c.selBudget * 18
  | none => (tLocMax (keyWidth f.format) f.shardLen + tHomeMax 3 s.bMax) * 10

/-- FIRST_STEP of a shape accepted now (R24, R418): the first step whose build buffer is still to open. -/
def State.nextFirst (s : State) : Nat := match s.shell.building with | some b => b.step + 1 | none => 0

/-- The homed range that stands or is to stand. -/
def State.homeRange (s : State) : Nat × Nat := s.reqs.nextHome.getD s.reqs.home

/-- Whether a homed range lies within N slots. -/
def rangeWithin (r : Nat × Nat) (n : Nat) : Bool := r.2 == 0 || decide (r.1 + r.2 ≤ n)

/-- The status of a shape: Table 2-1, then R23, then the homed range (R22). While an accepted SET_HOME_SLOTS is not yet in
force the shape must suit both ranges: the one in force and the one accepted (DESIGN CHOICE,
notes/assumptions/138.md). -/
def State.shapeStatus (s : State) (f : ShapeFields) : Nat :=
  if shapeRange f ≠ stOk then shapeRange f
  else if !shapeTimed f (shapeAllow f) (s.selTime f s.nextFirst) then stShapeTiming
  else if !rangeWithin s.homeRange f.slots || !rangeWithin s.reqs.home f.slots then stShapeSlots
  else stOk

/-- Take a shape: the first one opens both buffer pairs, a later one waits for the next build buffer to open. -/
def Shell.takeShape (h : Shell) (f : Shape) (first : Nat) : Shell :=
  match h.building with
  | none => { h with serving := some { step := 0, shape := f }, building := some { step := 1, shape := f } }
  | some _ => { h with pendingShape := some (f, first) }

/-- SET_STEP_SHAPE. -/
def cmdSetStepShape (b : Sender) (f : ShapeFields) (s : State) : State :=
  if s.shapeStatus f ≠ stOk then s.refuse b opSetStepShape (s.shapeStatus f)
  else
    let first := s.nextFirst
    (s.modShell (fun h => h.takeShape (shapeOf f) first)).reweigh.answer b opSetStepShape stOk (leBytes 4 first)

def execSetStepShape (t : Time) (by_ : Sender) (f : ShapeFields) (s : State) : Result1 :=
  .next ((s.at t).serve by_ opSetStepShape (cmdSetStepShape by_ f))

/-! ### Homed slots (R303) -/

/-- N of the shape that rules SET_HOME_SLOTS: an accepted later one before the one in force; none before any shape. -/
def State.homeLimit (s : State) : Option Nat :=
  match s.shell.pendingShape, s.shell.building with
  | some (f, _), _ => some f.slots
  | none, some b => some b.shape.slots
  | none, none => none

/-- Whether a request holds a slot that SET_HOME_SLOTS may not leave out: SLOTTED, or PAUSED with its slot kept. -/
def Request.holdsHome (r : Request) : Bool := r.slot.isSome && (r.st == .slotted || r.st == .paused)

/-- Whether a new range leaves out a held slot of the range in force. -/
def State.leavesHeld (s : State) (first count : Nat) : Bool :=
  s.reqs.table.any (fun p => p.2.holdsHome && match p.2.slot with
    | some i => s.homed i && !(decide (first ≤ i) && decide (i < first + count))
    | none => false)

/-- SET_HOME_SLOTS. -/
def cmdSetHomeSlots (b : Sender) (first count : Nat) (s : State) : State :=
  match s.homeLimit with
  | none => s.refuse b opSetHomeSlots stHomeSlots
  | some n =>
    if n < first + count ∨ s.leavesHeld first count then s.refuse b opSetHomeSlots stHomeSlots
    else (s.modReqs (fun q => { q with nextHome := some (first, count) })).answer b opSetHomeSlots stOk []

def execSetHomeSlots (t : Time) (by_ : Sender) (first count : Nat) (s : State) : Result1 :=
  .next ((s.at t).serve by_ opSetHomeSlots (cmdSetHomeSlots by_ first count))

end Sys2Proof.Machine
end

