-- ==== Sys2Proof/Machine/Plans.lean ====
section
/-! DEFINITION. SET_VAT_PLAN, OPEN_WINDOW, CLOSE_WINDOW and SET_COLLECTIVE (R46, R47, R53, R139 to R143, R162, R362,
Tables 3-1, 7-1 to 7-3, 14-13, 14-15). -/

namespace Sys2Proof.Machine

/-! ### The vat plan (R46, R47) -/

/-- Whether an entry's fields lie in the ranges of Table 3-1. ROWS is held against the capacity later; that of an entry with
USE = 0, which has no capacity, is held against 1 alone (DESIGN CHOICE, notes/assumptions/140.md). -/
def areaRangeOk (a : AreaFields) : Bool :=
  decide (a.area ≤ 15) && decide (a.use ≤ 5) && decide (a.firstBank ≤ 63) && decide (1 ≤ a.nbanks) && decide (a.nbanks ≤ 64)
    && decide (1 ≤ a.rows)

/-- The areas that a plan defines, by area number. -/
def planOf (l : List AreaFields) : List Area :=
  sortBy (fun a b => decide (a.num ≤ b.num))
    ((l.filter (fun a => a.use != 0)).map (fun a => ⟨a.area, a.use, a.firstBank, a.nbanks, a.rows⟩))

/-- The banks of an area. -/
def Area.banks (a : Area) : List Nat := (List.range a.nbanks).map (fun i => a.firstBank + i)

/-- The conditions of R47 that ST_VAT_PLAN names, on plan `p`. -/
def Vat.planOk (v : Vat) (p : List Area) : Bool :=
  p.all (fun a => decide (a.firstBank + a.nbanks ≤ 64) && (a.banks.all (fun b => v.bankOn b && !v.dead.contains b))
      && ((a.use != 1 && a.use != 2) || decide (8 ≤ a.nbanks)))
    && decide ((p.flatMap Area.banks).Nodup) && p.any (fun a => a.use == 1) && p.any (fun a => a.use == 3)

/-- Whether SUMMARY areas hold a list of the current step: one that a row or the collective has formed (R97, R148). -/
def State.summaryHeld (s : State) : Bool :=
  s.str.rows.any (fun r => r.step == s.shell.step && r.stage != .landing)
    || s.coll.sels.any (fun x => x.step == s.shell.step && (x.own.isSome || x.merged.isSome || x.block.isSome || !x.parts.isEmpty))

/-- Whether WORK areas hold work of the current step: histograms of passes, walks and outbound messages (R133, R144,
R154). -/
def State.workHeld (s : State) : Bool :=
  s.str.rows.any (fun r => r.step == s.shell.step && !r.passes.isEmpty)
    || s.coll.sels.any (fun x => x.step == s.shell.step && (x.hist.isSome || x.walk.isSome || x.root.isSome))
    || s.coll.outbox.any (fun m => m.step == s.shell.step)

/-- Whether an area is idle (R47): no open window maps onto it and no row of the current step is held in it. -/
def State.areaIdle (s : State) (n : Nat) : Bool :=
  let use := match s.vat.area n with | some a => a.use | none => 0
  !s.vat.windows.any (fun w => w.st == .opened && w.area == n)
    && !s.shell.tiles.any (fun t => t.area == n && t.step == s.shell.step)
    && !(use == 3 && s.summaryHeld) && !(use == 5 && s.workHeld)

/-- The status of a plan. An area number given twice is refused with ST_VAT_PLAN. -/
def State.planStatus (s : State) (l : List AreaFields) : Nat :=
  let p := planOf l
  if l.length < 1 ∨ 16 < l.length ∨ !l.all areaRangeOk ∨ ¬ (l.map (fun a => a.area)).Nodup ∨ !s.vat.planOk p then stVatPlan
  else if p.any (fun a => decide (s.vat.areaCap a < a.rows)) then stVatCapacity
  else if s.vat.plan.any (fun a => !p.contains a && !s.areaIdle a.num) then stVatBankBusy
  else stOk

/-- The capacities of areas 0 to 15, 0 for none. -/
def Vat.capacities (v : Vat) : List Byte :=
  (List.range 16).flatMap (fun i => leBytes 4 (match v.area i with | some a => v.areaCap a | none => 0))

/-- SET_VAT_PLAN's effect. -/
def setVatPlan (b : Sender) (l : List AreaFields) (s : State) : State :=
  if s.planStatus l ≠ stOk then s.refuse b opSetVatPlan (s.planStatus l)
  else
    let s := s.modVat (fun v => { v with plan := planOf l })
    s.answer b opSetVatPlan stOk s.vat.capacities

/-- SET_VAT_PLAN: a plan accepted is in force for the register power writes of its CTL cycle (R379). -/
def cmdSetVatPlan (b : Sender) (l : List AreaFields) (s : State) : State := s.withPower (setVatPlan b l)

def execSetVatPlan (t : Time) (by_ : Sender) (areas : List AreaFields) (s : State) : Result1 :=
  .next ((s.at t).serve by_ opSetVatPlan (cmdSetVatPlan by_ areas))

/-! ### Windows (R53, R141, R142, Table 7-3) -/

/-- The entry that an opening takes: the lowest FREE one, else the one CLOSED longest. -/
def Vat.entryToOpen (v : Vat) : Option Nat :=
  match v.windows.findIdx? (fun w => w.st == .free) with
  | some i => some i
  | none => match ((v.windows.filter (fun w => w.st == .closed)).map (fun w => w.closedAt)).min? with
    | some c => v.windows.findIdx? (fun w => w.st == .closed && w.closedAt == c)
    | none => none

/-- Whether rows of an area may be opened: a WINDOW area, within its capacity, clear of every open window. -/
def Vat.rowsFree (v : Vat) (area firstRow length : Nat) : Bool :=
  match v.area area with
  | none => false
  | some a => a.use == 4 && v.rangeOk a firstRow length
      && !v.windows.any (fun w => w.st == .opened && w.area == area && decide (firstRow < w.firstRow + w.length)
        && decide (w.firstRow < firstRow + length))

/-- The status of OPEN_WINDOW. -/
def Vat.openStatus (v : Vat) (die area role firstRow length : Nat) : Nat :=
  if role < 1 ∨ 4 < role ∨ length < 1 ∨ 65536 < length then stCollConfig
  else if v.entryToOpen.isNone then stWinNoneFree
  else if !v.rowsFree area firstRow length then stWinArea
  else if v.windows.any (fun w => w.st == .opened && w.die != die) then stWinDie
  else stOk

/-- The 26-bit stamp of an opening (R141). -/
def stampOf (die opens : Nat) : BitVec 26 := BitVec.ofNat 26 (die * 1024 + opens)

/-- An entry opened: a new stamp, its rows' tags as they stand, nothing marked. -/
def Vat.openedEntry (v : Vat) (w : Window) (a : Area) (die role firstRow length peer : Nat) : Window :=
  let opens := (w.opens + 1) % 1024
  let tags := (List.range length).filterMap (fun i =>
    let g := v.tag (v.areaPra a.firstBank a.nbanks (firstRow + i))
    if g = 0 then none else some (i, g))
  { w with st := .opened, stamp := stampOf die opens, opens := opens, die := die, area := a.num, firstRow := firstRow, length := length,
           role := role, peer := peer, banks := (List.range (min length a.nbanks)).map (fun i => a.firstBank + (firstRow + i) % a.nbanks),
           marked := [], released := tags }

/-- OPEN_WINDOW. -/
def cmdOpenWindow (b : Sender) (die area role firstRow length peer : Nat) (s : State) : State :=
  if s.vat.openStatus die area role firstRow length ≠ stOk then s.refuse b opOpenWindow (s.vat.openStatus die area role firstRow length)
  else match s.vat.entryToOpen, s.vat.area area with
    | some n, some a =>
      let s := s.modVat (fun v => { v with windows := lmod n (fun w => v.openedEntry w a die role firstRow length peer) v.windows })
      s.answer b opOpenWindow stOk (leBytes 4 n ++ leBytes 4 (s.vat.window n).stamp.toNat)
    | _, _ => s.refuse b opOpenWindow stWinNoneFree

def execOpenWindow (t : Time) (by_ : Sender) (die area role firstRow length peer : Nat) (s : State) : Result1 :=
  .next ((s.at t).serve by_ opOpenWindow (cmdOpenWindow by_ die area role firstRow length peer))

/-- Whether the configuration in force or an accepted later one names a window. -/
def Collective.uses (c : Collective) (n : Nat) : Bool := (c.config.toList ++ c.pending).any (fun x => x.names n)

/-- CLOSE_WINDOW. -/
def cmdCloseWindow (b : Sender) (n : Nat) (s : State) : State :=
  if (s.vat.window n).st ≠ .opened then s.refuse b opCloseWindow stWinState
  else if s.coll.uses n then s.refuse b opCloseWindow stWinBusy
  else
    (s.modVat (fun v => { v with closeCount := v.closeCount + 1
                                 windows := lmod n (fun w => { w with st := .closed, closedAt := v.closeCount + 1, marked := [] }) v.windows })).answer
      b opCloseWindow stOk []

def execCloseWindow (t : Time) (by_ : Sender) (window : Nat) (s : State) : Result1 :=
  .next ((s.at t).serve by_ opCloseWindow (cmdCloseWindow by_ window))

/-! ### The collective configuration (R139, R140, R362) -/

/-- An address word: STAMP and WINDOW. -/
def addrWord (x : Nat) : Nat × Nat := (bits x 0 26, bits x 26 6)

/-- The block of Table 14-15. -/
def collBlock (b : List Byte) (bMax : Nat) : CollConfig :=
  let n := leAt b 15 1
  let m := leAt b 16 1
  let eight := fun (start k : Nat) =>
    (List.range k).map (fun i => (leAt b (start + 8 * i) 2, addrWord (leAt b (start + 8 * i + 2) 4)))
  { die := leAt b 0 2, rowset := leAt b 2 2, parent := leAt b 4 2, d := leAt b 6 2, ds := leAt b 8 2, height := leAt b 10 2,
    fmax := leAt b 12 1, rechecks := leAt b 13 1, np := leAt b 14 1, ownDown := leAt b 17 1, ownHome := leAt b 18 1, ownRoot := leAt b 19 1,
    hopNs := leAt b 20 2, nb := leAt b 22 2, parentAddr := addrWord (leAt b 24 4), rootAddr := addrWord (leAt b 28 4),
    selBudget := leAt b 32 4, firstStep := leAt b 36 4,
    children := (List.range n).map (fun i => (leAt b (64 + 4 * i) 2, bits (leAt b (64 + 4 * i) 4) 16 6)),
    spread := eight (64 + 4 * n) m,
    homes := if leAt b 4 2 = 0xFFFF then eight (64 + 4 * n + 8 * m) (leAt b 2 2) else [], bMax := bMax }

/-- The BLEN that a block asks for (R362). -/
def collLen (b : List Byte) : Nat :=
  64 + 4 * leAt b 15 1 + 8 * leAt b 16 1 + (if leAt b 4 2 = 0xFFFF then 8 * leAt b 2 2 else 0)

/-- Whether a block's reserved bits are 0. -/
def collZeros (b : List Byte) : Bool :=
  let n := leAt b 15 1
  let k := leAt b 16 1 + (if leAt b 4 2 = 0xFFFF then leAt b 2 2 else 0)
  leAt b 40 24 == 0 && (List.range n).all (fun i => bits (leAt b (64 + 4 * i) 4) 22 10 == 0)
    && (List.range k).all (fun i => leAt b (64 + 4 * n + 8 * i + 6) 2 == 0)

/-- Whether every field lies in its range of Table 7-1. -/
def CollConfig.inRange (c : CollConfig) : Bool :=
  decide (c.die ≤ 65534) && decide (1 ≤ c.rowset) && decide (c.children.length ≤ 60) && decide (c.spread.length ≤ 60)
    && decide (c.height ≤ c.d) && decide (1 ≤ c.fmax) && decide (c.fmax ≤ 60) && decide (1 ≤ c.hopNs) && decide (c.rechecks ≤ 3)
    && decide (1 ≤ c.nb) && decide (c.nb ≤ 4096) && decide (1 ≤ c.np) && decide (c.np ≤ 16)

/-- The shape that governs a step, as accepted (R24). -/
def State.shapeFor (s : State) (step : Nat) : Option Shape :=
  match s.shell.pendingShape, s.shell.building with
  | some (f, first), b => if first ≤ step then some f else b.map (fun b => b.shape)
  | none, b => b.map (fun b => b.shape)

/-- The least LENGTH of a window (Table 7-2), with the buffers of R171. -/
def leastLength (role nb np buffers : Nat) : Nat := nb * buffers * listRows role + (if role = 1 then np * 193 else 0)

/-- Whether a window named in CHILDREN or OWN is OPEN with a role and long enough (R140). -/
def State.windowServes (s : State) (c : CollConfig) (n role : Nat) : Bool :=
  let w := s.vat.window n
  let buffers := match s.shapeFor c.firstStep with | some f => buffersPer f | none => 1
  w.st == .opened && w.role == role && decide (leastLength role c.nb c.np buffers ≤ w.length)

/-- Whether the windows of CHILDREN and OWN are as R140 asks. A HOME window's peer is the root, whose number the ROOT
address word carries in STAMP[25:10]; the die that spreads to this one stands nowhere in the block. -/
def State.collWindows (s : State) (c : CollConfig) : Bool :=
  c.children.all (fun k => s.windowServes c k.2 1 && (s.vat.window k.2).peer == k.1)
    && (c.ownDown == 0xFF || s.windowServes c c.ownDown 2)
    && (c.ownHome == 0xFF || (s.windowServes c c.ownHome 3 && (s.vat.window c.ownHome).peer == c.rootAddr.1 / 1024))
    && (c.ownRoot == 0xFF || (s.windowServes c c.ownRoot 4 && (s.vat.window c.ownRoot).peer == 0xFFFF))

/-- T_min of a configuration in ticks (R162), under the shape that governs FIRST_STEP. -/
def State.leastBudget (s : State) (c : CollConfig) : Nat :=
  let shape := match s.shapeFor c.firstStep with | some f => (keyWidth f.format, f.shardLen) | none => (8, 0)
  tMin c.rowset c.d c.ds c.fmax c.hopNs c.rechecks c.bMax shape.1 shape.2

/-- The status of a block (R140, R362). -/
def State.collStatus (s : State) (blen : Nat) (b : List Byte) : Nat :=
  let c := collBlock b s.bMax
  let late := match s.shell.building with | some x => decide (c.firstStep ≤ x.step) | none => false
  if blen ≠ collLen b then stCollConfig
  else if !collZeros b || !c.inRange || late || !s.collWindows c then stCollConfig
  else if (c.parent = 0xFFFF ∧ c.height ≠ c.d) ∨ (c.height = c.d ∧ 1 < c.rowset ∧ c.parent ≠ 0xFFFF) then stCollConfig
  else if s.vat.windows.any (fun w => w.st == .opened && w.die != c.die) then stCollConfig
  else if c.selBudget * 18 < s.leastBudget c then stCollBudget
  else stOk

/-- SET_COLLECTIVE: the configuration waits for FIRST_STEP, in place of accepted ones for that step or later. -/
def cmdSetCollective (b : Sender) (blen : Nat) (src : Option (List Byte)) (s : State) : State :=
  match src with
  | none => s.refuse b opSetCollective stSource
  | some bs =>
    let x := slice bs 0 blen
    if s.collStatus blen x ≠ stOk then s.refuse b opSetCollective (s.collStatus blen x)
    else
      let c := collBlock x s.bMax
      (s.modColl (fun q => { q with pending := q.pending.filter (fun p => decide (p.firstStep < c.firstStep)) ++ [c] })).answer
        b opSetCollective stOk []

def execSetCollective (t : Time) (by_ : Sender) (blen : Nat) (src : Option (List Byte)) (s : State) : Result1 :=
  .next ((s.at t).serve by_ opSetCollective (cmdSetCollective by_ blen src))

end Sys2Proof.Machine
end

