-- ==== Sys2Proof/Machine/RennetOps.lean ====
section
/-! DEFINITION. Rennet's commands: PREFETCH, MASK_FILL_DONE and PREFETCH_TUNE (R194 to R197, R201, R202, R227). -/

namespace Sys2Proof.Machine

/-! ### Room in the caches (R194, R195) -/

/-- The set of the state cache that a key indexes: 65,536 sets of 16 entries. -/
def stateSetOf (gidx s c : Nat) : Nat := Config.stateSet gidx s c % 65536

/-- The set of a cache item of the state cache. -/
def CacheItem.set (x : CacheItem) : Nat := match x.kind with | .state s c => stateSetOf x.gidx s c | _ => 0

/-- Drop the least recently used item among those that meet a test and have no pin; `none` when all are pinned. -/
def dropLru (p : CacheItem → Bool) (l : List CacheItem) : Option (List CacheItem × CacheItem) :=
  let free := l.filter (fun c => p c && c.pins == 0)
  match (free.map (fun c => c.used)).min? with
  | none => none
  | some u => (free.find? (fun c => c.used == u)).map (fun v => (dropFirst (fun c => p c && c.pins == 0 && c.used == u) l, v))

/-- Pages of walk and class tables pinned by the loaded images. -/
def Rennet.pinnedPages (n : Rennet) : Nat := sumNat (n.images.map (fun p => p.2.pinned))

/-- Whether an item's cache must lose an item first. -/
def Rennet.full (n : Rennet) (x : CacheItem) : Bool :=
  match x.kind with
  | .state _ _ => decide (16 ≤ (n.states.filter (fun c => c.set == x.set)).length)
  | _ => decide (Config.chunkSlots ≤ n.pinnedPages + n.chunks.length)

/-- Count a prefetched key that no commit used (R202). -/
def Rennet.countUnused (n : Rennet) (x : CacheItem) : Rennet :=
  match x.kind, x.prefetched with
  | .state _ _, some _ => { n with tune := tmod x.gidx (fun u => { u with unused := u.unused + 1 }) n.tune }
  | _, _ => n

/-- Put an item in its cache, replacing the least recently used one where it is full; it is not kept when all are
pinned. -/
def Rennet.putItem (n : Rennet) (x : CacheItem) : Rennet :=
  let x := { x with used := n.uses + 1 }
  let n := { n with uses := n.uses + 1 }
  match x.kind with
  | .state _ _ =>
    if !n.full x then { n with states := n.states ++ [x] }
    else match dropLru (fun c => c.set == x.set) n.states with
      | some (l, v) => ({ n with states := l ++ [x] }).countUnused v
      | none => n
  | _ =>
    if !n.full x then { n with chunks := n.chunks ++ [x] }
    else match dropLru (fun _ => true) n.chunks with
      | some (l, _) => { n with chunks := l ++ [x] }
      | none => n

/-! ### Image faults met by a read (R227) -/

/-- The state of the first key that names a map. -/
def stateOfMap (g : Grammar) (m : Nat) : Nat := match g.keys.find? (fun k => k.map == m) with | some k => k.state | none => 0

/-- The detail of R227 that a read shows and the state it is logged with: 2 KCRC, 3 a value out of range, 4 no key, 5 a
chunk that is not there. -/
def readFault (g : Grammar) (k : FillKind) : Option (Nat × Nat) :=
  match k with
  | .state s c => (keyFault g s c).map (fun d => (d, s))
  | .map m => if (List.range 256).any (fun n => mapEntryBad g m n) then some (5, stateOfMap g m) else none
  | .chunk _ => none

/-- Whether a fault makes the read fail as a cellar error does. -/
def faultFails (d : Nat) : Bool := d == 2 || d == 3

/-! ### MASK_FILL_DONE -/

/-- Pins that an item takes as it lands: one for each pinned key that needs it (R196). -/
def State.pinsFor (s : State) (g : Grammar) (k : FillKind) : Nat :=
  let gidx := gidxOf g.handle
  sumNat (s.ren.pinnedFor.map (fun p =>
    if p.gver = gverOf g.handle then p.keys.countP (fun q => q.1 == gidx && (keyItems g p.base p.len q.2.1 q.2.2).contains k) else 0))

/-- Count a prefetched key (R202). -/
def State.countPrefetch (s : State) (gidx : Nat) (r : RennetRead) : State :=
  match r.kind, r.cls with
  | .state _ _, 2 => s.modRen (fun n => { n with tune := tput gidx (let u := (tget gidx n.tune).getD {}; { u with prefetched := u.prefetched + 1 }) n.tune })
  | _, _ => s

/-- A read lands. -/
def State.fillItem (s : State) (g : Grammar) (r : RennetRead) : State :=
  let x : CacheItem := { gidx := r.gidx, gver := r.gver, kind := r.kind, pins := s.pinsFor g r.kind, prefetched := if r.cls = 2 then some s.shell.step else none }
  let s := s.modRen (fun n => n.putItem x)
  (s.countPrefetch r.gidx r).retryBuilds

/-- Set or slot that RENNET_CACHE_UE names, and its cache. -/
def State.fillPlace (s : State) (r : RennetRead) : Nat × Nat :=
  match r.kind with | .state st c => (0, stateSetOf r.gidx st c) | _ => (1, s.ren.chunks.length)

/-- The cellar commands of a read have completed: of several reads under one handle, the oldest's. -/
def State.celItemDone (s : State) (r : RennetRead) : State :=
  s.modPorts (fun p => (match p.cel.find? (fun c => c.use == .item r.gidx r.gver r.kind) with
    | some c => Ports.celIssue 1 { p with cel := dropFirst (fun x => x == c) p.cel }
    | none => p))

/-- What a rennet read comes to (R197, R227). -/
def State.maskFill (s : State) (g : Grammar) (r : RennetRead) (fin : FillEnd) : State :=
  match fin with
  | .cellarError =>
    let a := readAddr g r.kind
    s.logErr errRennetCellar none (a % 2 ^ 32) (a / 2 ^ 32) g.handle.toNat
  | .cacheUe => let p := s.fillPlace r; s.logErr errRennetCacheUe none p.1 p.2 0
  | .landed => match readFault g r.kind with
    | none => s.fillItem g r
    | some d => if faultFails d.1 then s.logReadFault g d else (s.logReadFault g d).fillItem g r

/-- MASK_FILL_DONE ends the oldest read of its kind: one for a handle that has been released since is dropped (R190). -/
def execMaskFillDone (t : Time) (gidx : BitVec 12) (kind : FillKind) (fin : FillEnd) (s : State) : Result1 :=
  let s := s.at t
  .next (match s.ren.reads.find? (fun r => r.gidx == gidx.toNat && r.kind == kind) with
    | none => s
    | some r =>
      let s := (s.modRen (fun n => { n with reads := dropFirst (fun x => x == r) n.reads })).celItemDone r
      match tget r.gidx s.ren.images with
      | some g => if gverOf g.handle = r.gver ∧ ¬ r.dead then s.maskFill g r fin else s
      | none => s)

/-! ### PREFETCH -/

/-- Prefetched keys that no commit has used within two steps are counted (R202). -/
def State.sweepPrefetched (s : State) : State :=
  let old := fun (c : CacheItem) => match c.prefetched with | some n => decide (n + 2 < s.shell.step) | none => false
  let s := (s.ren.states.filter old).foldl (fun s c => s.modRen (fun n => n.countUnused c)) s
  s.modRen (fun n => { n with states := lmodIf old (fun c => { c with prefetched := none }) n.states,
                              chunks := lmodIf old (fun c => { c with prefetched := none }) n.chunks })

/-- Ask for what one key's first P_d successors need, at class 2. -/
def State.prefetchKey (s : State) (f : Shape) (k : Nat × Nat × Nat) : State :=
  match tget k.1 s.ren.images with
  | none => s
  | some g =>
    let depth := ((tget k.1 s.ren.tune).getD {}).depth
    ((keySuccs g k.2.1 k.2.2).take depth).foldl (fun s q => s.askItems g 2 (keyItems g f.shardBase f.shardLen q.1 q.2)) s

/-- Keys of a slot's rows in the step in flight. -/
def State.keysOf (s : State) (slot : Nat) : List (Nat × Nat × Nat) :=
  match s.ren.pinnedFor.find? (fun p => p.slot == slot && p.step == s.shell.step) with | some p => p.keys | none => []

/-- PREFETCH, for every LIVE grammar slot in ascending order (R201). -/
def execPrefetch (t : Time) (s : State) : Result1 :=
  let s := s.at t
  .next (match s.ingests with
    | none => s
    | some f =>
      let s := s.sweepPrefetched
      (List.range f.slots).foldl (fun s i => if (s.entry i).kind = .live then (s.keysOf i).foldl (fun s k => s.prefetchKey f k) s else s) s)

/-! ### PREFETCH_TUNE -/

/-- The depth after a tuning (R202). -/
def Tune.next (u : Tune) (maxSucc : Nat) : Nat :=
  if u.hits * 100 < 98 * u.commits ∧ u.depth < 64 ∧ u.depth < maxSucc then min 64 (2 * u.depth)
  else if 998 * u.commits ≤ u.hits * 1000 ∧ 9 * u.prefetched < 10 * u.unused then max 1 (u.depth / 2)
  else u.depth

/-- PREFETCH_TUNE, by CC3, once every 1,024 steps in which the image had a commit: each change is written to the image's
telemetry. -/
def execPrefetchTune (t : Time) (gidx : BitVec 12) (s : State) : Result1 :=
  let s := s.at t
  let i := gidx.toNat
  .next (match tget i s.ren.images, tget i s.ren.tune with
    | some g, some u =>
      if !s.duty 3 || decide (u.steps < 1024) then s
      else
        let s := s.sweepPrefetched
        let u := (tget i s.ren.tune).getD u
        let d := u.next g.maxSucc
        let changes := if d = u.depth then u.changes else (s.shell.step, d) :: u.changes
        s.modRen (fun n => { n with tune := tput i { depth := d, faults := u.faults, lastStep := u.lastStep, changes := changes } n.tune })
    | _, _ => s)

end Sys2Proof.Machine
end

