-- ==== Sys2Proof/Machine/StopText.lean ====
section
/-! DEFINITION. Stop sets, character carry, matching, holdback and the cut (R269 to R281), as pure functions. -/

namespace Sys2Proof.Machine

/-! ### Stop sets (R272 to R274) -/

/-- Cut a byte run into runs of the given lengths. -/
def cutLens : List Nat → List Byte → List (List Byte)
  | [], _ => []
  | n :: ns, bs => bs.take n :: cutLens ns (bs.drop n)

/-- Distinct non-empty prefixes of some strings. -/
def prefixCount (strs : List (List Byte)) : Nat :=
  ((strs.map (fun s => (List.range s.length).map (fun n => s.take (n + 1)))).flatten).dedup.length

/-- The set a source holds (Table 12-2), when it passes ST_STOP_FORMAT's rules; `len` is the command's length. -/
def stopSetOf (len : Nat) (bs : List Byte) : Option StopSet :=
  let nw := leAt bs 0 4
  let n := nw % 128
  let total := leAt bs 4 4
  let ds := (List.range n).map (fun i => leAt bs (8 + 4 * i) 4)
  let lens := ds.map (fun d => d % 512)
  let strs := cutLens lens (bs.drop (8 + 4 * n))
  if nw / 128 ≠ 0 ∨ n = 0 ∨ 64 < n ∨ len ≠ 8 + 4 * n + total ∨ ds.any (fun d => d / 1024 != 0)
      ∨ lens.any (fun l => l == 0 || decide (256 < l)) ∨ total ≠ lens.foldl (· + ·) 0 ∨ !strs.all wellFormedUtf8
      ∨ ¬ strs.Nodup then none
  else
    let p := prefixCount strs
    some ⟨strs.zip (ds.map (fun d => bit d 9)), 1 + p, p⟩

/-! ### The automaton (R277): a state is the prefix it stands for -/

/-- Whether a byte run is a prefix of some string of the set. -/
def isPrefix (set : StopSet) (p : List Byte) : Bool := p.isEmpty || set.strs.any (fun s => p.isPrefixOf s.1)

/-- goto. -/
def stopGoto (set : StopSet) (s : List Byte) (b : Byte) : Option (List Byte) :=
  if isPrefix set (s ++ [b]) then some (s ++ [b]) else none

/-- The longest suffix of a run that is a prefix of some string. -/
def longestSuffix (set : StopSet) : List Byte → List Byte
  | [] => []
  | b :: r => if isPrefix set (b :: r) then b :: r else longestSuffix set r

/-- fail: the state of the longest proper suffix. -/
def stopFail (set : StopSet) (s : List Byte) : List Byte := longestSuffix set s.tail

/-- scan of R277; `fuel` bounds the fail steps, each of which shortens the state. -/
def stopScan (set : StopSet) (b : Byte) : Nat → List Byte → List Byte
  | 0, _ => (stopGoto set [] b).getD []
  | f + 1, s =>
    if s = [] then (stopGoto set [] b).getD []
    else match stopGoto set s b with
      | some t => t
      | none => stopScan set b f (stopFail set s)

/-- match(s): the longest string that is a suffix of the state, with its number and INCL. -/
def stopMatch (set : StopSet) (s : List Byte) : Option (Nat × Nat × Bool) :=
  (set.strs.zipIdx.filter (fun p => p.1.1.isSuffixOf s)).foldl (fun a p => match a with
    | some (i, n, x) => if n < p.1.1.length then some (p.2, p.1.1.length, p.1.2) else some (i, n, x)
    | none => some (p.2, p.1.1.length, p.1.2)) none

/-! ### A request's text context -/

/-- What a request carries from token to token (R267), with what the commit has scanned and not yet released. -/
structure TextCtx where
  carry : List Byte := []
  state : List Byte := []
  kept : List (Byte × Bool) := []                  -- scanned, not released: byte and its INV mark
  scanned : Nat := 0
  stop : Option (Nat × Bool) := none               -- string completed and its INCL
  cutAt : Nat := 0                                 -- kept bytes that the cut releases
  withheld : Nat := 0
  invSeq : Nat := 0
  invBytes : Nat := 0
deriving DecidableEq, Repr

/-- Scan one resolved byte (R277, R280). After a stop every further byte is withheld. -/
def scanByte (set : Option StopSet) (c : TextCtx) (b : Byte × Bool) : TextCtx :=
  if c.stop.isSome then { c with withheld := c.withheld + 1 }
  else
    let c := { c with kept := c.kept ++ [b], scanned := c.scanned + 1 }
    match set with
    | none => c
    | some set =>
      let s := stopScan set b.1 c.state.length c.state
      match stopMatch set s with
      | none => { c with state := s }
      | some (i, n, incl) => { c with state := [], stop := some (i, incl), cutAt := if incl then c.kept.length else c.kept.length - n }

/-- Resolve characters and invalid occurrences of a byte run and scan them (R270, R271); `final` at the end of output. -/
def scanText (set : Option StopSet) (replace final : Bool) : Nat → List Byte → TextCtx → TextCtx
  | 0, _, c => c
  | f + 1, bs, c =>
    match bs with
    | [] => { c with carry := [] }
    | _ =>
      if c.stop.isSome then { c with carry := [], withheld := c.withheld + bs.length }
      else match utf8Front final bs with
        | .open_ => { c with carry := bs }
        | .char n => scanText set replace final f (bs.drop n) ((bs.take n).foldl (fun c b => scanByte set c (b, false)) c)
        | .bad n =>
          let out := if replace then replacement else bs.take n
          let c := { c with invSeq := c.invSeq + 1, invBytes := c.invBytes + n }
          scanText set replace final f (bs.drop n) (out.foldl (fun c b => scanByte set c (b, true)) c)

/-- Bytes a committed token passes on (Table 12-1). -/
def tokenBytes (v : Vocab) (noSpecial : Bool) (t : TokenId) : List Byte :=
  match v.toks[t.toNat]? with
  | none => []
  | some e => if e.ended then [] else if e.special && noSpecial then [] else e.str

/-- One token through assembly, carry and matching. -/
def scanToken (v : Vocab) (set : Option StopSet) (o : OutRecord) (c : TextCtx) (t : TokenId) : TextCtx :=
  if c.stop.isSome then c
  else match tokenBytes v o.nospecial t with
    | [] => c
    | bs => let text := c.carry ++ bs
      scanText set o.replace false (text.length + 1) text { c with carry := [] }

/-- The flush of R281: the carry becomes one invalid occurrence, and its bytes are scanned. -/
def flushText (set : Option StopSet) (o : OutRecord) (c : TextCtx) : TextCtx :=
  if c.stop.isSome then c
  else match c.carry with
    | [] => c
    | bs => scanText set o.replace true (bs.length + 1) bs { c with carry := [] }

/-- Release at the end of a commit (R278 to R281): bytes released, and the context after it. `done` says that output
has ended, so nothing stays held. -/
def releaseText (done : Bool) (c : TextCtx) : List (Byte × Bool) × TextCtx :=
  match c.stop with
  | some _ =>
    (c.kept.take c.cutAt, { c with kept := [], carry := [], withheld := c.withheld + (c.kept.length - c.cutAt) + c.carry.length })
  | none =>
    if done then (c.kept, { c with kept := [], state := [] })
    else
      let n := c.kept.length - c.state.length
      (c.kept.take n, { c with kept := c.kept.drop n })

/-! ### Pail entries (Tables 12-5 and 12-6) -/

/-- Entry header and payload as 32 bytes, with PHASE. -/
def pailBytes (e : PailEntry) (phase : Bool) : List Byte :=
  leBytes 8 (pack [(4, e.kind), (1, b2n phase), (1, b2n e.inv), (2, 0), (5, e.count), (3, 0), (8, e.nanm), (8, e.nanwm), (32, e.pos)])
    ++ slice e.payload 0 24

/-- TEXT entries of released bytes from an output offset (R290); `fuel` bounds the entries. -/
def textEntries : Nat → List (Byte × Bool) → Nat → List PailEntry
  | 0, _, _ => []
  | f + 1, bs, pos => match bs with
    | [] => []
    | _ =>
      let p := bs.take 24
      { kind := 1, inv := p.any (fun b => b.2), count := p.length, pos := pos % 2 ^ 32, payload := p.map (fun b => b.1) }
        :: textEntries f (bs.drop 24) (pos + p.length)

/-- A bit mask of eight marks. -/
def maskOf (l : List Bool) : Nat := (l.zipIdx.map (fun p => b2n p.1 * 2 ^ p.2)).foldl (· + ·) 0

/-- TOKENS entries of committed tokens (R290). -/
def tokenEntries : Nat → List (TokenId × Bool × Bool) → Nat → List PailEntry
  | 0, _, _ => []
  | f + 1, ts, pos => match ts with
    | [] => []
    | _ =>
      let p := ts.take 8
      { kind := 2, count := p.length, nanm := maskOf (p.map (fun t => t.2.1)), nanwm := maskOf (p.map (fun t => t.2.2)),
        pos := pos % 2 ^ 32, payload := (p.map (fun t => leBytes 3 t.1.toNat)).flatten }
        :: tokenEntries f (ts.drop 8) (pos + p.length)

/-- The END entry (Table 12-6). -/
def endEntry (reason : Nat) (stop : Option (Nat × Bool)) (carried : Bool) (tokensOut bytesOut withheld lost : Nat) : PailEntry :=
  let idx := match stop with | some s => s.1 | none => 0xFF
  let incl := match stop with | some s => s.2 | none => false
  { kind := 3, payload := leBytes 4 (pack [(8, reason), (8, idx), (1, b2n incl), (1, b2n carried)]) ++ leBytes 4 tokensOut
      ++ leBytes 4 bytesOut ++ leBytes 4 withheld ++ leBytes 4 lost ++ leBytes 4 0 }

/-- A LOSS entry (Table 12-6). -/
def lossEntry (entries bytes tokens : Nat) : PailEntry :=
  { kind := 4, payload := leBytes 4 entries ++ leBytes 4 bytes ++ leBytes 4 tokens }

end Sys2Proof.Machine
end

