-- ==== Sys2Proof/Machine/Stores.lean ====
section
/-! DEFINITION. The load and release commands of Table 14-13 and SET_VOCAB_PARTITION, SET_ADAPTER_POOL: the draw unit's
programs and bias lists (R117 to R120), rennet's images (R189, R190, R226 to R230), churn's vocabularies (R244, R245,
R259, R260), the skimmer's stop sets (R272 to R275), and the adapter pool (R331). -/

namespace Sys2Proof.Machine

/-! ### Programs and bias lists (Table 6-5) -/

/-- Whether a program index is bound by a tracked request. -/
def State.progBound (s : State) (prog : Nat) : Bool := s.reqs.table.any (fun p => p.2.sampling.prog == prog)

/-- Whether a list is bound by a tracked request through its program. -/
def State.listBound (s : State) (list : Nat) : Bool :=
  s.reqs.table.any (fun p => match tget p.2.sampling.prog s.drw.programs with | some g => (programLists g).contains list | none => false)

/-- The status of a program image. -/
def State.programStatus (s : State) (prog image : Nat) : Nat :=
  if 511 < prog ∨ !programFormed image then stProgFormat
  else if !(programOf image).ops.all (operandsOk (fun n => (tget n s.drw.bias).isSome) none) then stProgOperand
  else if s.progBound prog then stProgBusy
  else stOk

/-- LOAD_LOGIT_PROGRAM. -/
def cmdLoadProgram (b : Sender) (prog image : Nat) (s : State) : State :=
  if s.programStatus prog image ≠ stOk then s.refuse b opLoadLogitProgram (s.programStatus prog image)
  else (s.modDrw (fun d => { d with programs := tput prog (programOf image) d.programs })).answer b opLoadLogitProgram stOk []

def execLoadLogitProgram (t : Time) (by_ : Sender) (prog : Nat) (image : BitVec 1024) (s : State) : Result1 :=
  .next ((s.at t).serve by_ opLoadLogitProgram (cmdLoadProgram by_ prog image.toNat))

/-- A bias list entry (Table 6-6). -/
def biasEntryOf (x : Nat) : BiasEntry := ⟨BitVec.ofNat 24 (bits x 0 24), bits x 24 2, BitVec.ofNat 32 (bits x 32 32)⟩

/-- The rules of ST_BIAS_FORMAT on one entry. -/
def biasEntryOk (x : Nat) : Bool :=
  let v := BitVec.ofNat 32 (bits x 32 32)
  decide (bits x 0 24 < 0x100000) && bits x 24 2 != 3 && bits x 26 6 == 0 && isFinF v && (bits x 24 2 != 1 || v == 0#32)

/-- The list that a source holds, when it passes ST_BIAS_FORMAT. -/
def biasListOf (nent : Nat) (bs : List Byte) : Option (List BiasEntry) :=
  let xs := (List.range nent).map (fun i => leAt bs (8 * i) 8)
  if xs.all biasEntryOk && rising (xs.map (fun x => bits x 0 24)) then some (xs.map biasEntryOf) else none

/-- Entries of every list but one. -/
def DrawUnit.otherEntries (d : DrawUnit) (list : Nat) : Nat := sumNat ((d.bias.filter (fun p => p.1 != list)).map (fun p => p.2.length))

/-- LOAD_BIAS_LIST, by the first row of Table 6-5 that refuses it. -/
def cmdLoadBias (b : Sender) (list nent : Nat) (src : Option (List Byte)) (s : State) : State :=
  let no := fun (st : Nat) => s.refuse b opLoadBiasList st
  if s.listBound list then no stProgBusy
  else if 4095 < list ∨ 65536 < nent then no stBiasFormat
  else match src with
    | none => no stSource
    | some bs => match biasListOf nent bs with
      | none => no stBiasFormat
      | some l =>
        if Config.biasEntries < s.drw.otherEntries list + nent then no stBiasFull
        else (s.modDrw (fun d => { d with bias := tput list l d.bias })).answer b opLoadBiasList stOk []

def execLoadBiasList (t : Time) (by_ : Sender) (list nent : Nat) (src : Option (List Byte)) (s : State) : Result1 :=
  .next ((s.at t).serve by_ opLoadBiasList (cmdLoadBias by_ list nent src))

/-! ### Vocabularies (R244, R245, R259, R260) -/

/-- Pinned lines of every loaded vocabulary. -/
def Churn.pinnedTotal (c : Churn) : Nat := sumNat (c.vocabs.map (fun p => p.2.pinned))

/-- A checked image bound to an index under a new load generation. -/
def Churn.bindVocab (c : Churn) (vidx : Nat) (v : Vocab) : Churn :=
  let gen := ((tget vidx c.gens).getD 0 + 1) % 2 ^ 32
  let v := { v with gen := gen }
  { c with vocabs := tput vidx v c.vocabs, gens := tput vidx gen c.gens }.pinVocab vidx v

/-- LOAD_VOCAB (Table 11-7). -/
def cmdLoadVocab (b : Sender) (vidx len : Nat) (addr : BitVec 64) (src : Option (List Byte)) (s : State) : State :=
  let no := fun (st : Nat) => s.refuse b opLoadVocab st
  if 63 < vidx then no stVocabIndex
  else if s.churn.loading.contains vidx ∨ (tget vidx s.churn.vocabs).isSome then no stVocabBusy
  else match checkVocab addr len src s.churn.pinnedTotal with
    | .error e => (s.imageRead b addr.toNat len).refuse b opLoadVocab e
    | .ok v =>
      let s := (s.imageRead b addr.toNat len).modChurn (fun c => c.bindVocab vidx v)
      s.answer b opLoadVocab stOk
        (leBytes 8 v.vocabId.toNat ++ leBytes 4 (vocabLen v) ++ leBytes 4 v.pinned ++ leBytes 4 ((tget vidx s.churn.gens).getD 0) ++ leBytes 4 0)

def execLoadVocab (t : Time) (by_ : Sender) (vidx : Nat) (len : Nat) (addr : BitVec 64) (src : Option (List Byte)) (s : State) : Result1 :=
  .next ((s.at t).serve by_ opLoadVocab (cmdLoadVocab by_ vidx len addr src))

/-- Whether anything is bound to a vocabulary index (R245). -/
def State.vocabHeld (s : State) (vidx : Nat) (v : Vocab) : Bool :=
  s.reqs.table.any (fun p => p.2.opts.vidx == vidx)
    || s.churn.streams.any (fun p => p.2.job.isSome && p.2.opts.vidx == vidx)
    || s.ren.images.any (fun p => p.2.vocabId == v.vocabId)

/-- RELEASE_VOCAB. A fill that lands after the release is dropped. -/
def cmdReleaseVocab (b : Sender) (vidx : Nat) (s : State) : State :=
  match s.boundVocab vidx with
  | none => s.refuse b opReleaseVocab stVocabIndex
  | some v =>
    if s.vocabHeld vidx v then s.refuse b opReleaseVocab stVocabBusy
    else (s.modChurn (fun c => { c.dropVocab vidx with vocabs := tdel vidx c.vocabs })).answer b opReleaseVocab stOk []

def execReleaseVocab (t : Time) (by_ : Sender) (vidx : Nat) (s : State) : Result1 :=
  .next ((s.at t).serve by_ opReleaseVocab (cmdReleaseVocab by_ vidx))

/-- Whether masks do not overlap: no way lies in two of them. -/
def disjointMasks : List (BitVec 16) → Bool
  | [] => true
  | m :: r => r.all (fun x => m &&& x == 0#16) && disjointMasks r

/-- SET_VOCAB_PARTITION: partitions named in the map need masks that are not 0 and do not overlap. -/
def cmdSetPartition (b : Sender) (lock : Bool) (masks : List (BitVec 16)) (map : List Nat) (s : State) : State :=
  let named := (List.range 16).filter (fun p => map.contains p)
  let ms := named.map (fun p => masks.getD p 0)
  if ms.any (fun m => m == 0#16) || !disjointMasks ms then s.refuse b opSetVocabPartition stVocabPart
  else (s.modChurn (fun c => { c with masks := masks, map := map, lock := lock })).answer b opSetVocabPartition stOk []

def execSetVocabPartition (t : Time) (by_ : Sender) (lock : Bool) (masks : List (BitVec 16)) (map : List Nat) (s : State) : Result1 :=
  .next ((s.at t).serve by_ opSetVocabPartition (cmdSetPartition by_ lock masks map))

/-! ### Grammar images (R189, R190, R226 to R230) -/

/-- Whether a vocabulary with an identifier and a length is loaded. -/
def State.vocabLoaded (s : State) (id len : Nat) : Bool := s.churn.vocabs.any (fun p => p.2.vocabId.toNat == id && vocabLen p.2 == len)

/-- Chunk-cache slots without a pin, the least recently used first, give way to the pinned pages of a load. -/
def Rennet.makeRoom : Nat → Rennet → Rennet
  | 0, n => n
  | k + 1, n =>
    if n.pinnedPages + n.chunks.length ≤ Config.chunkSlots then n
    else match dropLru (fun _ => true) n.chunks with
      | some (l, _) => Rennet.makeRoom k { n with chunks := l }
      | none => n

/-- LOAD_GRAMMAR (Table 10-8). -/
def cmdLoadGrammar (b : Sender) (handle : Handle) (len : Nat) (addr : BitVec 64) (src : Option (List Byte)) (s : State) : State :=
  let no := fun (st : Nat) => s.refuse b opLoadGrammar st
  let i := handle.toNat % 65536
  if 4095 < i then no stGramHandle
  else if s.ren.loading.contains i ∨ (tget i s.ren.images).isSome then no stGramBusy
  else match checkGrammar handle addr len src s.vocabLoaded s.ren.pinnedPages with
    | .error e => (s.imageRead b addr.toNat len).refuse b opLoadGrammar e
    | .ok g =>
      ((s.imageRead b addr.toNat len).modRen (fun n => { n with images := tput i g n.images, tune := tput i {} n.tune }.makeRoom n.chunks.length)).answer b opLoadGrammar stOk
        (leBytes 4 g.states.length ++ leBytes 4 g.keys.length ++ leBytes 4 g.pinned ++ leBytes 4 0)

def execLoadGrammar (t : Time) (by_ : Sender) (handle : Handle) (len : Nat) (addr : BitVec 64) (src : Option (List Byte)) (s : State) : Result1 :=
  .next ((s.at t).serve by_ opLoadGrammar (cmdLoadGrammar by_ handle len addr src))

/-- Whether a request is bound to a grammar, by its own or by a switch that waits (R190, R192). -/
def Request.bindsGrammar (r : Request) (handle : Handle) : Bool :=
  r.grammar == some handle || match r.switchTo with | some (some (h, _)) => h == handle | _ => false

/-- An index released: its image, its tuning and everything cached under its handle go, and what is still read for it will be
dropped (R190). -/
def Rennet.release (n : Rennet) (handle : Handle) : Rennet :=
  let i := handle.toNat % 65536
  let other := fun (c : CacheItem) => !(c.gidx == i && c.gver == handle.toNat / 65536)
  { n with images := tdel i n.images, tune := tdel i n.tune, states := n.states.filter other, chunks := n.chunks.filter other,
           reads := lmodIf (fun r => r.gidx == i && r.gver == handle.toNat / 65536) (fun r => { r with dead := true }) n.reads }

/-- RELEASE_GRAMMAR. -/
def cmdReleaseGrammar (b : Sender) (handle : Handle) (s : State) : State :=
  if s.ren.loading.contains (handle.toNat % 65536) ∨ (s.grammarOf handle).isNone then s.refuse b opReleaseGrammar stGramHandle
  else if s.reqs.table.any (fun p => p.2.bindsGrammar handle) then s.refuse b opReleaseGrammar stGramBusy
  else (s.modRen (fun n => n.release handle)).answer b opReleaseGrammar stOk []

def execReleaseGrammar (t : Time) (by_ : Sender) (handle : Handle) (s : State) : Result1 :=
  .next ((s.at t).serve by_ opReleaseGrammar (cmdReleaseGrammar by_ handle))

/-! ### Stop sets (R272 to R275) -/

/-- Whether a set fits the stop store beside the sets loaded (R274). -/
def Skimmer.roomFor (k : Skimmer) (x : StopSet) : Bool :=
  decide (sumNat (k.sets.map (fun p => p.2.states)) + x.states ≤ Config.stopStates)
    && decide (sumNat (k.sets.map (fun p => p.2.edges)) + x.edges ≤ Config.stopEdges)

/-- LOAD_STOP_SET (Table 12-4); a source that cannot be read is logged. -/
def cmdLoadStopSet (b : Sender) (index : Nat) (host : Bool) (len : Nat) (src : Option (List Byte)) (s : State) : State :=
  let no := fun (st : Nat) => s.refuse b opLoadStopSet st
  if 4095 < index then no stStopIndex
  else if (tget index s.skim.sets).isSome then no stStopBusy
  else match src with
    | none => (s.logErr errStopSource none index (b2n host) 0).refuse b opLoadStopSet stStopFormat
    | some bs => match stopSetOf len bs with
      | none => no stStopFormat
      | some x =>
        if !s.skim.roomFor x then no stStopFull
        else (s.modSkim (fun k => { k with sets := tput index x k.sets })).answer b opLoadStopSet stOk (leBytes 4 x.states ++ leBytes 4 x.edges)

def execLoadStopSet (t : Time) (by_ : Sender) (index : Nat) (host : Bool) (len : Nat) (src : Option (List Byte)) (s : State) : Result1 :=
  .next ((s.at t).serve by_ opLoadStopSet (cmdLoadStopSet by_ index host len src))

/-- RELEASE_STOP_SET. -/
def cmdReleaseStopSet (b : Sender) (index : Nat) (s : State) : State :=
  if (tget index s.skim.sets).isNone then s.refuse b opReleaseStopSet stStopIndex
  else if s.reqs.table.any (fun p => p.2.out.stop == some index) then s.refuse b opReleaseStopSet stStopBusy
  else (s.modSkim (fun k => { k with sets := tdel index k.sets })).answer b opReleaseStopSet stOk []

def execReleaseStopSet (t : Time) (by_ : Sender) (index : Nat) (s : State) : Result1 :=
  .next ((s.at t).serve by_ opReleaseStopSet (cmdReleaseStopSet by_ index))

/-! ### The adapter pool (R331) -/

/-- Whether the fields of a pool are in range. -/
def AdapterPool.ok (p : AdapterPool) : Bool :=
  p.library.toNat % 32 == 0 && decide (1 ≤ p.rslots) && decide (p.rslots ≤ 4096) && decide (6 ≤ p.log2g) && decide (p.log2g ≤ 12)
    && p.gring.toNat % 64 == 0 && p.doneAddr.toNat % 8 == 0

/-- SET_ADAPTER_POOL: the steward starts afresh on the new pool. -/
def cmdSetAdapterPool (b : Sender) (p : AdapterPool) (s : State) : State :=
  if !p.ok || !s.stw.versions.isEmpty then s.refuse b opSetAdapterPool stAdapterPool
  else (s.modStw (fun _ => { pool := some p })).answer b opSetAdapterPool stOk []

def execSetAdapterPool (t : Time) (by_ : Sender) (library : BitVec 64) (rslots log2g eventCtx slotBytes : Nat)
    (gring doneAddr : BitVec 64) (s : State) : Result1 :=
  .next ((s.at t).serve by_ opSetAdapterPool (cmdSetAdapterPool by_ ⟨library, rslots, log2g, eventCtx, slotBytes, gring, doneAddr⟩))

end Sys2Proof.Machine
end

