-- ==== Sys2Proof/Machine/Streams.lean ====
section
/-! DEFINITION. The streams' commands of Table 14-11: ENCODE_OPEN, APPEND_INPUT and ENCODE_CLOSE (R232 to R239, R257,
R319). -/

namespace Sys2Proof.Machine

/-- ENCODE_OPEN, checked in the order of R234; the job takes the lowest free context. -/
def cmdEncodeOpen (b : Sender) (customer options : Nat) (s : State) : State :=
  let i := lowestFree s.churn.streams 0
  if s.optionsStatus options ≠ stOk then s.refuse b opEncodeOpen (s.optionsStatus options)
  else if (s.customer customer).isNone then s.refuse b opEncodeOpen stCustUnknown
  else if Config.streamContexts ≤ i then s.refuse b opEncodeOpen stEncStreams
  else
    let gen := nextGen ((tget i s.churn.jobGens).getD 0)
    let x : Stream := { job := some (gen, customer), opts := optionsOf options }
    (s.modChurn (fun c => { c with streams := tput i x c.streams, jobGens := tput i gen c.jobGens })).answer b opEncodeOpen stOk
      (leBytes 4 (gen * 65536 + i))

def execEncodeOpen (t : Time) (by_ : Sender) (customer : Nat) (options : BitVec 256) (s : State) : Result1 :=
  .next ((s.at t).serve by_ opEncodeOpen (cmdEncodeOpen by_ customer options.toNat))

/-- The context of an open job that a handle names. -/
def State.jobOf (s : State) (h : Handle) : Option Nat :=
  match tget (h.toNat % 65536) s.churn.streams with
  | some x => match x.job with | some (gen, _) => if gen = h.toNat / 65536 then some (h.toNat % 65536) else none | none => none
  | none => none

/-- Where a buffer goes: an open stream, a new one for a request's first buffer, or a refusal (R235). -/
inductive Target where
  | refused (status : Nat)
  | stream (i : Nat)
  | first (r : Request)

/-- The stream that APPEND_INPUT names. -/
def State.target (s : State) (h : Handle) (job : Bool) : Target :=
  if job then match s.jobOf h with | some i => .stream i | none => .refused stEncStream
  else match s.findReq h with
    | none => .refused stReqHandle
    | some r => match s.streamOf h with
      | some i => .stream i
      | none => if s.churn.stopped.contains h || r.st == .ending || r.streamEnded then .refused stEncStream else .first r

/-- Whether a buffer's kind and length are in range (R235). -/
def lengthOk (ids ended : Bool) (len : Nat) : Bool :=
  if ids then len % 4 == 0 && decide (4 ≤ len) && decide (len ≤ 4096) else (decide (1 ≤ len) || ended) && decide (len ≤ 16777216)

/-- The IDs of an IDS buffer, when it passes R257 under a vocabulary. -/
def idsOf (v : Option Vocab) (bs : List Byte) : Option (List TokenId) :=
  let ws := recordsOf 4 bs
  let len := match v with | some v => min (vocabLen v) 0x100000 | none => 0
  if ws.all (fun w => decide (w < 2 ^ 24) && decide (w < len)) then some (ws.map (fun w => BitVec.ofNat 24 w)) else none

/-- An accepted buffer joins its stream's queue, and the command after it may start (R359). -/
def State.queueBuffer (s : State) (b : Sender) (i : Nat) (buf : InBuffer) : State :=
  let s := s.modStream i (fun x => { x with queue := x.queue ++ [buf], ended := x.ended || buf.ended })
  let new := fun (k : Taken) => k.isFor b.tag opAppendInput && !k.accepted
  (s.modCtx b.ctx.toNat (fun x => { x with cmds := modFirst new (fun k => { k with accepted := true }) x.cmds })).schedule

/-- APPEND_INPUT once its flags are in range: it is answered when churn has taken the whole buffer. A source that cannot be read fails an IDS buffer
here, since it is checked whole before it is accepted. -/
def State.append (s : State) (b : Sender) (h : Handle) (flags : Nat) (addr : BitVec 64) (len : Nat) (src : Option (List Byte)) : State :=
  let no := fun (st : Nat) => s.answerFirst b (fun k => k.isFor b.tag opAppendInput && !k.accepted) opAppendInput st []
  let ids := bit flags 1
  let buf := fun (l : Option (List TokenId)) => ({ ids := l, ended := bit flags 2, host := bit flags 3, addr := addr, len := len, by_ := b } : InBuffer)
  let give := fun (i : Nat) (x : Stream) (s : State) =>
    if !lengthOk ids (bit flags 2) len then no stEncInput
    else if !ids then s.queueBuffer b i (buf none)
    else match src with
      | none => no stSource
      | some bs => match idsOf (s.streamVocab x) (slice bs 0 len) with
        | none => no stEncInput
        | some l => s.queueBuffer b i (buf (some l))
  match s.target h (bit flags 0) with
  | .refused st => no st
  | .stream i => match tget i s.churn.streams with
    | none => no stEncStream
    | some x => if x.ended then no stEncStream else if 16 ≤ x.queue.length then no stEncQueue else give i x s
  | .first r =>
    let i := lowestFree s.churn.streams 0
    if Config.streamContexts ≤ i then no stEncStreams
    else
      let x : Stream := { job := none, req := h, opts := r.opts }
      give i x (s.modChurn (fun c => { c with streams := tput i x c.streams }))

/-- APPEND_INPUT: a stream of a request uses the request's record (R300). -/
def cmdAppend (b : Sender) (h : Handle) (flags : Nat) (addr : BitVec 64) (len : Nat) (src : Option (List Byte)) (s : State) : State :=
  if 16 ≤ flags then s.answerFirst b (fun k => k.isFor b.tag opAppendInput && !k.accepted) opAppendInput stCmdReserved []
  else (if bit flags 0 then s else s.useRecord h).append b h flags addr len src

def execAppendInput (t : Time) (by_ : Sender) (stream : Handle) (flags : Byte) (addr : BitVec 64) (len : Word) (src : Option (List Byte))
    (s : State) : Result1 :=
  .next ((s.at t).serve by_ opAppendInput (cmdAppend by_ stream flags.toNat addr len.toNat src))

/-- ENCODE_CLOSE: the job's stream stops (R239), is charged whole, and its counters are returned. -/
def cmdEncodeClose (b : Sender) (h : Handle) (s : State) : State :=
  match s.jobOf h with
  | none => s.refuse b opEncodeClose stEncStream
  | some i => match tget i s.churn.streams with
    | none => s.refuse b opEncodeClose stEncStream
    | some x =>
      let s := match x.job with | some (_, cust) => s.chargeJob i x cust | none => s
      (((s.answerBuffers i stEncStream).freeStream i).schedule).answer b opEncodeClose stOk (x.body true)

def execEncodeClose (t : Time) (by_ : Sender) (job : Handle) (s : State) : Result1 :=
  .next ((s.at t).serve by_ opEncodeClose (cmdEncodeClose by_ job))

end Sys2Proof.Machine
end

