-- ==== Sys2Proof/Machine/Ladles.lean ====
section
/-! DEFINITION. LADLE: how a control core picks a pending command and runs a ladle of it (R358 to R361), with the body
layouts of Tables 14-10 to 14-13. -/

namespace Sys2Proof.Machine

/-! ### The general checks (R361) -/

/-- The body length of an opcode; SET_VAT_PLAN's follows its NAREAS. -/
def bodyLen (op : Nat) (body : List Byte) : Nat :=
  match op with
  | 0x0002 => 24 | 0x0003 => 4 | 0x0004 => 16
  | 0x0101 => 216 | 0x0102 => 4 | 0x0103 => 16 | 0x0104 => 12 | 0x0105 => 44 | 0x0106 => 36 | 0x0107 => 20 | 0x0108 => 4
  | 0x0201 => 28 | 0x0202 => 4 | 0x0203 => 16 | 0x0204 => 8 | 0x0205 => 4
  | 0x0301 => 8 + 8 * leAt body 0 1 | 0x0302 => 16 | 0x0303 => 16 | 0x0304 => 4 | 0x0305 => 12 | 0x0306 => 132 | 0x0307 => 16 | 0x0308 => 16
  | 0x0309 => 4 | 0x030A => 162 | 0x030B => 16 | 0x030C => 4 | 0x030D => 16 | 0x030E => 4 | 0x030F => 40
  | _ => 0

/-- The bits of a body that the tables mark 0, as (first bit, length). -/
def zeroFields (op : Nat) (body : List Byte) : List (Nat × Nat) :=
  match op with
  | 0x0002 => [(139, 5), (144, 48)]
  | 0x0003 => [(8, 24)]
  | 0x0103 => [(32, 32)]
  | 0x0105 => (72, 24) :: (List.range 8).map (fun i => if i < leAt body 8 1 then (120 + 32 * i, 8) else (96 + 32 * i, 32))
  | 0x0106 => [(16, 16)]
  | 0x0107 => [(36, 28)]
  | 0x0203 => [(26, 6)]
  | 0x0204 => [(8, 8), (48, 16)]
  | 0x0205 => [(16, 16)]
  | 0x0301 => [(8, 56)]
  | 0x0302 => [(80, 48)]
  | 0x0303 => [(112, 16)]
  | 0x0304 => [(8, 24)]
  | 0x0306 => [(16, 16)]
  | 0x0307 => [(17, 15)]
  | 0x0308 => [(8, 24)]
  | 0x0309 => [(8, 24)]
  | 0x030A => [(1, 15)]
  | 0x030D => [(17, 15)]
  | 0x030E => [(16, 16)]
  | 0x030F => [(256, 64)]
  | _ => []

/-- The status of the first general check that a command fails; ST_OK for none. -/
def Taken.generalStatus (k : Taken) (skim : Bool) : Nat :=
  let x := leNat k.body
  if leAt k.bytes 8 8 ≠ 0 then stCmdReserved
  else if !opKnown k.opcode then stCmdOpcode
  else if skim && !opSkim k.opcode then stSkim
  else if k.len ≠ bodyLen k.opcode k.body then stCmdLength
  else if (zeroFields k.opcode k.body).any (fun z => bits x z.1 z.2 != 0) then stCmdReserved
  else stOk

/-! ### Running a command from its bytes -/

/-- The areas of SET_VAT_PLAN. -/
def areasOf (body : List Byte) : List AreaFields :=
  (List.range (leAt body 0 1)).map (fun i =>
    let b := 8 + 8 * i
    ⟨leAt body b 1, leAt body (b + 1) 1, leAt body (b + 2) 1, leAt body (b + 3) 1, leAt body (b + 4) 4⟩)

/-- The step shape of SET_STEP_SHAPE. -/
def shapeFieldsOf (body : List Byte) : ShapeFields :=
  { stepLen := leAt body 0 4, manDeadline := leAt body 4 4, ingestEnd := leAt body 8 4, shardBase := leAt body 12 4, shardLen := leAt body 16 4,
    slots := leAt body 20 2, groupSize := leAt body 22 2, xallow := leAt body 24 1, feedWidth := leAt body 25 1, draftRows := leAt body 26 1,
    format := leAt body 27 1 }

/-- The tag map of SET_VOCAB_PARTITION: two tags a byte, the even one low. -/
def tagMapOf (body : List Byte) : List Nat :=
  (List.range 128).flatMap (fun i => let x := leAt body (34 + i) 1; [x % 16, x / 16])

/-- The effect of a command whose general checks have passed. -/
def runCommand (b : Sender) (op : Nat) (body : List Byte) (src : Option (List Byte)) (s : State) : State :=
  let n := fun (off len : Nat) => leAt body off len
  let w := fun (off : Nat) => BitVec.ofNat 32 (leAt body off 4)
  let a := fun (off : Nat) => BitVec.ofNat 64 (leAt body off 8)
  match op with
  | 0x0001 => cmdIdentify b s
  | 0x0002 => cmdAttach b (a 0) (a 8) (BitVec.ofNat 8 (n 16 1)) (BitVec.ofNat 8 (n 17 1)) s
  | 0x0003 => cmdDetach b (n 0 1) s
  | 0x0004 => cmdReadLog b (a 0) (w 8) (w 12) s
  | 0x0005 => cmdReadBootReport b s
  | 0x0101 => cmdAdmit b (n 0 32) (n 32 64) (n 96 16) (n 120 32) (n 152 32) (n 184 32) (w 112) (w 116) src s
  | 0x0102 => cmdCancel b (w 0) s
  | 0x0103 => cmdReadRequest b (w 0) (a 8) s
  | 0x0104 => cmdSetGrammar b (w 0) (w 4) (w 8) s
  | 0x0105 => cmdPostDrafts b (w 0) (w 4) (n 8 1) ((List.range 8).map (fun i => w (12 + 4 * i))) s
  | 0x0106 => cmdEncodeOpen b (n 0 2) (n 4 32) s
  | 0x0107 => cmdAppend b (w 0) (n 4 1) (a 8) (n 16 4) src s
  | 0x0108 => cmdEncodeClose b (w 0) s
  | 0x0201 => cmdSetStepShape b (shapeFieldsOf body) s
  | 0x0202 => cmdSetHomeSlots b (n 0 2) (n 2 2) s
  | 0x0203 => cmdSetCustomer b (n 0 2) (n 3 1) ⟨n 2 1, bit (n 3 1) 0, n 4 2, n 6 2, n 8 4, n 12 4⟩ s
  | 0x0204 => cmdSetPool b (n 0 1) (n 2 2) (n 4 2) s
  | 0x0205 => cmdReadCustomer b (n 0 2) s
  | 0x0301 => cmdSetVatPlan b (areasOf body) s
  | 0x0302 => cmdSetPower b (a 0) (BitVec.ofNat 16 (n 8 2)) s
  | 0x0303 => cmdOpenWindow b (n 0 2) (n 2 1) (n 3 1) (n 4 4) (n 8 4) (n 12 2) s
  | 0x0304 => cmdCloseWindow b (n 0 1) s
  | 0x0305 => cmdSetCollective b (n 8 4) src s
  | 0x0306 => cmdLoadProgram b (n 0 2) (n 4 128) s
  | 0x0307 => cmdLoadBias b (n 0 2) (n 4 4) src s
  | 0x0308 => cmdLoadVocab b (n 0 1) (n 4 4) (a 8) src s
  | 0x0309 => cmdReleaseVocab b (n 0 1) s
  | 0x030A => cmdSetPartition b (bit (n 0 1) 0) ((List.range 16).map (fun i => BitVec.ofNat 16 (n (2 + 2 * i) 2))) (tagMapOf body) s
  | 0x030B => cmdLoadGrammar b (w 0) (n 4 4) (a 8) src s
  | 0x030C => cmdReleaseGrammar b (w 0) s
  | 0x030D => cmdLoadStopSet b (n 0 2) (bit (n 2 1) 0) (n 4 4) src s
  | 0x030E => cmdReleaseStopSet b (n 0 2) s
  | 0x030F => cmdSetAdapterPool b ⟨a 0, n 8 2, n 10 1, n 11 1, n 12 4, a 16, a 24⟩ s
  | _ => s.refuse b op stCmdOpcode

/-! ### Loads of several ladles (R228, R244) -/

/-- The index that a load names. -/
def Taken.loadIndex (k : Taken) : Nat := if k.opcode = opLoadVocab then leAt k.body 0 1 else leAt k.body 0 2

/-- Whether a command is a load whose index is loading while it runs. -/
def Taken.isLoad (k : Taken) : Bool := k.opcode == opLoadVocab || k.opcode == opLoadGrammar

/-- Whether a load's index may begin to load: within range, neither bound nor loading. -/
def State.mayLoad (s : State) (k : Taken) : Bool :=
  let i := k.loadIndex
  if k.opcode = opLoadVocab then decide (i ≤ 63) && !s.churn.loading.contains i && (tget i s.churn.vocabs).isNone
  else decide (i ≤ 4095) && !s.ren.loading.contains i && (tget i s.ren.images).isNone

/-- Mark a load's index as loading, or no longer. -/
def State.setLoading (s : State) (k : Taken) (on : Bool) : State :=
  let i := k.loadIndex
  let f := fun (l : List Nat) => if on then i :: l else l.filter (fun x => x != i)
  if k.opcode = opLoadVocab then s.modChurn (fun c => { c with loading := f c.loading }) else s.modRen (fun n => { n with loading := f n.loading })

/-! ### One ladle -/

/-- The core that runs a command: its opcode's role; CC0's in skim mode and for an opcode the catalogue has not. -/
def Taken.role (k : Taken) (skim : Bool) : Nat := if skim || !opKnown k.opcode then 0 else opRole k.opcode

/-- Whether a command waits on its units, or a DETACH for earlier commands: it holds no ladle. -/
def State.cmdWaits (s : State) (b : Sender) (k : Taken) : Bool :=
  (k.opcode == opSetPower && s.mbox.power.any (fun w => w.by_ == b)) || (k.opcode == opDetach && s.mbox.detaches.contains b)

/-- The command of a context that a core may run: the first not yet accepted into a queue, once the responses of those
before it are written (R359). A load that waits for its memory read holds no ladle: `brought` says that the read has come
(R358). In a DETACHED context an ATTACH does not wait for commands of the earlier attachment (R355). -/
def State.ladleHead (s : State) (c role : Nat) (brought : Bool) : Option Taken :=
  let x := s.ctx c
  let unsaid := x.waiting.any (fun e => e.kind == 1 && !e.early)
  let open_ := x.cmds.filter (fun k => !k.accepted)
  let can := fun (k : Taken) => k.role s.skimMode == role && !unsaid && !s.cmdWaits ⟨BitVec.ofNat 8 c, k.tag⟩ k && (brought || !k.loading)
  let first := if x.attached then open_.head? else (open_.filter (fun k => k.opcode != opAttach)).head?
  let again := if x.attached then none else open_.find? (fun k => k.opcode == opAttach)
  match again.filter can with
  | some k => some k
  | none => first.filter can

/-- The context that a core serves next, round-robin after the one it served last (R358). -/
def State.nextContext (s : State) (role : Nat) (brought : Bool) : Option Nat :=
  ((List.range 256).map (fun i => (s.mbox.rr.getD role 255 + 1 + i) % 256)).find? (fun c => (s.ladleHead c role brought).isSome)

/-- A command refused by a general check; an ATTACH in a DETACHED context leaves its status in the register. -/
def State.refuseTaken (s : State) (b : Sender) (k : Taken) (status : Nat) : State :=
  if !(s.ctx b.ctx.toNat).attached && k.opcode == opAttach then s.refuseAttach b status
  else s.answerFirst b (fun x => x == k) k.opcode status []

/-- One ladle of a context's command: `last` ends it. -/
def State.runLadle (s : State) (c : Nat) (k : Taken) (src : Option (List Byte)) (last : Bool) : State :=
  let b : Sender := ⟨BitVec.ofNat 8 c, k.tag⟩
  let k1 : Taken := { k with ladles := k.ladles + 1, loading := k.loading || (k.isLoad && !last) }
  let s := s.modCtx c (fun x => { x with cmds := modFirst (fun y => y == k) (fun _ => k1) x.cmds })
  let general := k.generalStatus s.skimMode
  if general ≠ stOk then s.refuseTaken b k1 general
  else if last then runCommand b k.opcode k.body src (if k.loading then s.setLoading k false else s)
  else if !k.isLoad || k.loading then s
  else if s.mayLoad k then (s.setLoading k true).celAccess (.image b) 5 false (leAt k.body 8 8) (leAt k.body 4 4)
  else runCommand b k.opcode k.body src s

/-- LADLE: step duties are commands of their own, so none is due here, but a write that CC2's core cannot yet hand over makes
it wait (R387). -/
def State.ladle (s : State) (role : Nat) (src : Option (List Byte)) (last : Bool) : State :=
  let up := if s.skimMode then role == 0 && !s.boot.halt else decide (role < 4) && s.duty role && (role != 2 || !s.coreWaits)
  let brought := last || src.isSome
  if !up then s
  else match s.nextContext role brought with
    | none => s
    | some c => match s.ladleHead c role brought with
      | none => s
      | some k => (s.modMbox (fun m => { m with rr := lmod role (fun _ => c) m.rr })).runLadle c k src last

def execLadle (t : Time) (role : Nat) (src : Option (List Byte)) (last : Bool) (s : State) : Result1 := .next ((s.at t).ladle role src last)

end Sys2Proof.Machine
end

