-- ==== Sys2Proof/Machine/Registers.lean ====
section
/-! DEFINITION. The block and context registers (15_register_map.md): what a read returns and clears, and what a write
does at each offset, for the host link and the test wrapper alike (R382). -/

namespace Sys2Proof.Machine

/-- A 2-bit power state (Table 15-18). -/
def Power.code (p : Power) : Nat := match p with | .off => 0 | .goingOn => 1 | .on => 2 | .goingOff => 3

/-- 16 power states of a register. -/
def stateWord (ctl : Nat) (us : List PowerUnit) : Nat := pack (us.map (fun u => (2, (u.shown ctl).code)))

/-- STEPPING: fs_step_start came within the last S + A FAB cycles of the shape in force (Table 15-14). -/
def State.stepping (s : State) : Bool :=
  match s.shapeInForce with | some f => s.shell.started && decide (s.clk.fab ≤ f.stepLen + f.xallow) | none => false

/-- DOMAIN_STATUS (Table 15-14). AON reads out of reset in every access that the port can answer. -/
def State.domainStatus (s : State) : Nat :=
  pack [(6, s.clk.alive.toNat), (2, 0), (6, s.clk.inReset.toNat % 32), (2, 0), (1, b2n s.shapeInForce.isSome), (1, b2n s.stepping), (1, b2n s.clk.fchg)]

/-- BOOT_STATUS (Table 15-7). -/
def State.bootStatus (s : State) : Nat :=
  let b := s.boot
  pack [(4, b.stage), (1, b2n b.halt), (1, b2n b.bip), (2, 0), (2, b.fcount), (6, 0), (8, match b.fails with | f :: _ => f.cause | [] => 0)]

/-- The value of a context register (Table 15-13). -/
def Context.reg (x : Context) (o : Nat) : Nat :=
  if o = 0 then x.doorbell
  else if o = 4 then pack [(1, b2n x.attached), (1, b2n x.busy), (14, 0), (16, x.lastRefusal)]
  else if o = 8 then pack [(16, x.dropped), (16, x.ignored)]
  else x.taken

/-- What a register access sees: while CTL is in reset, the reset value of every field that the fuses and the AON domain do
not give (R368). -/
def State.regView (s : State) : State :=
  if s.inRst 2 then
    (s.modRegs (fun g => { banksOk := g.banksOk, mapoutRows := g.mapoutRows })).modClk (fun c => { c with fchg := false, tsLatch := 0 })
  else s

/-- The value of the block register at an offset; `none` for a reserved offset. Write-only registers read 0 (R9). -/
def State.blockReg (s : State) (wrapper : Bool) (o : Nat) : Option Nat :=
  match o with
  | 0x000 => some (Config.partId + 65536 * Config.stepping)
  | 0x004 => some (s.str.usable.toNat + 65536 * s.fuses.lanes.toNat)
  | 0x008 => some (s.regs.banksOk.toNat % 2 ^ 32)
  | 0x00C => some (s.regs.banksOk.toNat / 2 ^ 32)
  | 0x010 => some s.bootStatus
  | 0x014 => some 0
  | 0x018 => some s.boot.imageLen.toNat
  | 0x01C => some s.progress.toNat
  | 0x020 => some 0
  | 0x024 => some (pack [(11, s.boot.repair.length), (1, b2n s.boot.repairOvf)])
  | 0x028 => some (pack [(16, s.regs.stageDrops), (16, s.regs.windowDrops)])
  | 0x02C => some s.regs.mapoutRows
  | 0x030 => some s.domainStatus
  | 0x040 => some (pack ((s.vat.banks.take 32).map (fun u => (1, b2n u.want))))
  | 0x044 => some (pack ((s.vat.banks.drop 32).map (fun u => (1, b2n u.want))))
  | 0x048 => some (pack (s.str.units.map (fun u => (1, b2n u.want))))
  | 0x04C => some (pack [(16, s.regs.pwrStatus), (1, b2n (s.str.units.any (fun u => !u.want && u.st != .off)))])
  | 0x050 => some (stateWord s.clk.ctl (s.vat.banks.take 16))
  | 0x054 => some (stateWord s.clk.ctl ((s.vat.banks.drop 16).take 16))
  | 0x058 => some (stateWord s.clk.ctl ((s.vat.banks.drop 32).take 16))
  | 0x05C => some (stateWord s.clk.ctl (s.vat.banks.drop 48))
  | 0x060 => some (stateWord s.clk.ctl s.str.units)
  | 0x080 => some s.regs.errStatus.toNat
  | 0x084 => some (pack [(16, s.regs.errCode), (8, s.regs.errBit)])
  | 0x088 => some s.regs.errInfo.toNat
  | 0x08C => some s.regs.errCount
  | 0x090 => some (s.regs.errTime % 2 ^ 32)
  | 0x094 => some (s.regs.errTime / 2 ^ 32 % 2 ^ 32)
  | 0x0C0 => some (s.now % 2 ^ 32)
  | 0x0C4 => some s.clk.tsLatch.toNat
  | 0xF00 => if wrapper then some s.fuses.minSvn else none
  | 0xF04 => if wrapper then some s.fuses.revoked.toNat else none
  | _ => none

/-- The value a 4 B read at an offset returns; `none` where R365 gives 0. -/
def State.regValue (s : State) (wrapper : Bool) (o : Nat) : Option Nat :=
  if o % 4 ≠ 0 then none
  else if o < 0x1000 then s.regView.blockReg wrapper o
  else if 0x10000 ≤ o ∧ o < 0x11000 then some ((s.ctx ((o - 0x10000) / 16)).reg (o % 16))
  else none

/-- What a 4 B read changes: RC fields clear (R9), and TS_LO latches its upper half. With CTL in reset it changes
nothing. -/
def State.afterRead (s : State) (o : Nat) : State :=
  if s.inRst 2 then s
  else if o = 0x028 then s.modRegs (fun g => { g with stageDrops := 0, windowDrops := 0 })
  else if o = 0x030 then s.modClk (fun c => { c with fchg := false })
  else if o = 0x08C then s.modRegs (fun g => { g with errCount := 0 })
  else if o = 0x0C0 then s.modClk (fun c => { c with tsLatch := BitVec.ofNat 32 (c.aon / 2 ^ 32) })
  else if 0x10000 ≤ o ∧ o < 0x11000 ∧ o % 16 = 8 then s.modCtx ((o - 0x10000) / 16) (fun x => { x with dropped := 0, ignored := 0 })
  else s

/-- The data of the last read answered. -/
def State.setRead (s : State) (v : Nat) : State := s.modRegs (fun g => { g with readData := BitVec.ofNat 64 v })

/-- A pair of R366 read as one sample. TS shows the AON count itself; the latch of TS_LO stays. -/
def State.pairValue (s : State) (o : Nat) : Nat :=
  if o = 0x0C0 then s.now % 2 ^ 64 else (s.regValue false o).getD 0 + 2 ^ 32 * (s.regValue false (o + 4)).getD 0

/-- The offsets of the pairs of R366. -/
def pairOffset (o : Nat) : Bool := o == 0x008 || o == 0x040 || o == 0x090 || o == 0x0C0

/-- Whether an offset lies in a defined register. -/
def State.regDefined (s : State) (wrapper : Bool) (o : Nat) : Bool := (s.regValue wrapper (o / 4 * 4)).isSome

/-- A register read (R365, R366): of a word; of a pair; any other 8 B read of the block or context registers, and a read of
a defined register that is not of an aligned word, is dropped; every other offset reads 0. -/
def State.regRead (s : State) (wrapper : Bool) (o size : Nat) : State :=
  if size = 8 ∧ pairOffset o then s.setRead (s.pairValue o)
  else if size = 4 ∧ o % 4 = 0 then (s.afterRead o).setRead ((s.regValue wrapper o).getD 0)
  else if size = 8 ∧ o < 0x1000 ∨ s.regDefined wrapper o then (s.dropAccess o false).setRead 0
  else s.setRead 0

/-- READ_CLEAR. The port answers from the moment HLK leaves reset (R368). -/
def execReadClear (t : Time) (read : RegRead) (s : State) : Result1 :=
  .next ((s.at t).hostAct ⟨false, read.offset, read.size, 0⟩ (fun s => s.regRead false read.offset read.size))

/-- TS_LO: a 4 B read. -/
def execTsLo (t : Time) (s : State) : Result1 :=
  .next ((s.at t).hostAct ⟨false, 0x0C0, 4, 0⟩ (fun s => s.regRead false 0x0C0 4))

/-- A W1C write of ERR_STATUS (R381): it applies before the errors of its CTL cycle, whose bits stay set, and with every
older bit cleared the capture takes the cycle's first error. -/
def Regs.clearErr (r : Regs) (ctl : Nat) (v : Word) : Regs :=
  match r.errCand with
  | some x =>
    if r.errCycle = ctl then
      let old := r.errOld &&& ~~~v
      let q := { r with errOld := old, errStatus := old ||| r.errBits }
      if old = 0 then q.capture x else q
    else { r with errStatus := r.errStatus &&& ~~~v }
  | none => { r with errStatus := r.errStatus &&& ~~~v }

def State.writeErrStatus (s : State) (v : Word) : State := s.modRegs (fun r => r.clearErr s.clk.ctl v)

def execErrStatus (t : Time) (value : Word) (s : State) : Result1 :=
  .next ((s.at t).hostAct ⟨true, 0x080, 4, value.setWidth 64⟩
    (fun s => if s.inRst 2 then s.dropAccess 0x080 true else s.writeErrStatus value))

/-! ### Fuse registers (R382, R417) -/

/-- Whether fuse writes are allowed. -/
def State.fuseOpen (s : State) : Bool := s.boot.stage == 4 || s.boot.stage == 9 || s.boot.halt

/-- A write to FUSE_SVN. -/
def State.writeFuseSvn (s : State) (value : Word) : State :=
  if s.inRst 2 then s
  else if !s.fuseOpen then s.dropAccess 0xF00 true
  else if s.fuses.writing.isSome then s
  else if s.fuses.minSvn < bits value.toNat 8 8 then s.modFuses (fun f => { f with writing := some (0, bits value.toNat 8 8) })
  else s

/-- A write to FUSE_KEYREV. -/
def State.writeFuseKeyrev (s : State) (value : Word) : State :=
  if s.inRst 2 then s
  else if !s.fuseOpen then s.dropAccess 0xF04 true
  else if s.fuses.writing.isSome then s
  else if bits value.toNat 4 4 ≠ 0 then s.modFuses (fun f => { f with writing := some (1, bits value.toNat 4 4) })
  else s

def execFuseSvn (t : Time) (value : Word) (s : State) : Result1 := .next ((s.at t).writeFuseSvn value)

def execFuseKeyrev (t : Time) (value : Word) (s : State) : Result1 := .next ((s.at t).writeFuseKeyrev value)

def execFuseWriteDone (t : Time) (s : State) : Result1 := .next ((s.at t).modFuses Fuses.finish)

/-! ### Writes -/

/-- A 4 B write to a block or context register. Writes to read-only registers are ignored (R9). -/
def State.regWrite (s : State) (wrapper : Bool) (o : Nat) (value : Word) : State :=
  if o = 0x014 then s.bootCtl value
  else if o = 0x018 then s.modBoot (fun b => { b with imageLen := value })
  else if o = 0x020 then s.repairData value
  else if o = 0x040 then s.regPower (vatPwrAsk .lo (value.setWidth 64)) o
  else if o = 0x044 then s.regPower (vatPwrAsk .hi (value.setWidth 64)) o
  else if o = 0x048 then s.regPower (strPwrAsk value) o
  else if o = 0x080 then s.writeErrStatus value
  else if o = 0xF00 ∧ wrapper then s.writeFuseSvn value
  else if o = 0xF04 ∧ wrapper then s.writeFuseKeyrev value
  else if 0x10000 ≤ o ∧ o < 0x11000 ∧ o % 16 = 0 then s.doorbell ((o - 0x10000) / 16) value
  else if (s.regValue wrapper o).isSome then s
  else s.dropAccess o true

/-- A host-link write of a register-sized datum at any aperture offset (R364 to R366). -/
def State.hostRegWrite (s : State) (o size : Nat) (value : BitVec 64) : State :=
  if s.inRst 4 then s
  else if 0x100000 ≤ o ∧ o < 0x200000 then s.windowWrite (o - 0x100000) (leBytes size value.toNat)
  else if 0x200000 ≤ o ∧ o < 0x300000 then s.stagingWrite (o - 0x200000) (leBytes size value.toNat)
  else if s.inRst 2 then s.dropAccess o true
  else if size = 8 ∧ o = 0x040 then s.regPower (vatPwrAsk .both value) o
  else if size ≠ 4 ∨ o % 4 ≠ 0 then s.dropAccess o true
  else s.regWrite false o (value.setWidth 32)

/-- REGISTER_WRITE. -/
def execRegisterWrite (t : Time) (offset : Nat) (size : Nat) (value : BitVec 64) (s : State) : Result1 :=
  .next ((s.at t).hostAct ⟨true, offset, size, value⟩ (fun s => s.hostRegWrite offset size value))

/-- A host-link register access again, after a wrapper access that came before it (R382). -/
def State.hostAgain (s : State) (a : HostAct) : State :=
  s.hostAct a (fun s => if a.write then s.hostRegWrite a.offset a.size a.value else s.regRead false a.offset a.size)

/-- The host-link accesses of the CTL cycle, when nothing else has changed what they changed. -/
def State.hostFirst (s : State) : Option HostCycle := s.clk.host.filter (fun x => x.ctl == s.clk.ctl && x.after == s.hostSnap)

end Sys2Proof.Machine
end

