-- ==== Sys2Proof/Machine/Skim.lean ====
section
/-! DEFINITION. The skimmer's commands: SKIM_COMMIT, CONSUMER_POLL and CONSUMER_READ_DONE (R266 to R297). -/

namespace Sys2Proof.Machine

/-! ### Writing a pail (R288 to R293) -/

/-- Room of a pail's ring by the shadow of the consumer word. -/
def Request.pailRoom (r : Request) : Nat := 2 ^ r.out.log2n - (r.pail.p + 2 ^ 32 - r.pail.c) % 2 ^ 32

/-- Change a request's pail. -/
def State.modPail (h : Handle) (f : Pail → Pail) (s : State) : State := s.modReq h (fun r => { r with pail := f r.pail })

/-- An END entry takes LOST_BYTES as it is written (Table 12-6). -/
def PailEntry.stamped (e : PailEntry) (lost : Nat) : PailEntry :=
  if e.kind = 3 then { e with payload := e.payload.take 16 ++ leBytes 4 lost ++ e.payload.drop 20 } else e

/-- Write one entry at the next index (R289). -/
def State.pailWrite (s : State) (r : Request) (e : PailEntry) : State :=
  let q := r.pail.p
  let a := r.out.base + BitVec.ofNat 64 (32 * (q % 2 ^ r.out.log2n))
  let s := (s.hostWrite a (pailBytes (e.stamped r.pail.lostBytes) ((q >>> r.out.log2n) % 2 == 0))).modPail r.handle (fun p =>
    { p with p := (q + 1) % 2 ^ 32 })
  s.modSkim (fun k => { k with since := tput r.handle.toNat ((tget r.handle.toNat k.since).getD 0 + 1) k.since })

/-- Whether discards wait for their LOSS entry (R296). -/
def Pail.losing (p : Pail) : Bool := p.lossEntries != 0

/-- Write the LOSS entry that is due, when there is room. -/
def State.pailLoss (s : State) (h : Handle) : State :=
  match s.findReq h with
  | none => s
  | some r =>
    if r.pail.losing && decide (0 < r.pailRoom) then
      (s.pailWrite r (lossEntry r.pail.lossEntries r.pail.lossBytes r.pail.lossTokens)).modPail h (fun p =>
        { p with lossEntries := 0, lossBytes := 0, lossTokens := 0 })
    else s

/-- Write entries in order while there is room, a due LOSS first; what is left comes back. -/
def State.pailFit (h : Handle) : List PailEntry → State → State × List PailEntry
  | [], s => (s, [])
  | e :: l, s =>
    let s := s.pailLoss h
    match s.findReq h with
    | none => (s, e :: l)
    | some r => if r.pail.losing || r.pailRoom == 0 then (s, e :: l) else State.pailFit h l (s.pailWrite r e)

/-- The producer word and the event for the doorbell after entries have been written since index `from_` (R291, R293).
`urgent` tells that an END or a LOSS is among them. -/
def State.pailDone (s : State) (h : Handle) (from_ : Nat) (urgent : Bool) : State :=
  match s.findReq h with
  | none => s
  | some r =>
    if r.pail.p = from_ then s
    else
      let s := if r.out.nopidx then s else s.hostWrite r.out.pidxAddr (leBytes 8 r.pail.p)
      if r.out.notify && (urgent || (r.out.every != 0 && decide (r.out.every ≤ (tget h.toNat s.skim.since).getD 0))) then
        s.bell r.out.ctx (some h)
      else s

/-- Ask for the consumer word, with at most one read outstanding (R292). -/
def State.pailAsk (s : State) (h : Handle) : State :=
  match s.findReq h with
  | none => s
  | some r => if r.pail.reading then s else (s.askHost r.out.cidxAddr).modPail h (fun p => { p with reading := true })

/-- Count discarded entries (R296). -/
def Pail.discard (p : Pail) (es : List PailEntry) : Pail :=
  es.foldl (fun p e =>
    let b := if e.kind = 1 then e.count else 0
    { p with lossEntries := p.lossEntries + 1, lossBytes := p.lossBytes + b, lossTokens := p.lossTokens + (if e.kind = 2 then e.count else 0),
             lostBytes := p.lostBytes + b }) p

/-- Whether a pail has discards that wait for their LOSS entry. -/
def State.losing (s : State) (h : Handle) : Bool := match s.findReq h with | some r => r.pail.losing | none => false

/-- Entries to the spill. Under HOLD none is lost: a pause keeps them within its 512 (R295). Under DROP what is beyond 512 is
discarded, END apart (R294, R296). -/
def Pail.toSpill (p : Pail) (drop : Bool) (es : List PailEntry) : Pail :=
  if !drop then { p with spill := p.spill ++ es } else
  let room := Config.spillEntries - p.spill.length
  let n := if es.any (fun e => e.kind == 3) then room - 1 else room
  let extra := (es.drop n).filter (fun e => e.kind != 3)
  let last := (es.drop n).filter (fun e => e.kind == 3)
  let p := { p with spill := p.spill ++ es.take n ++ last }
  p.discard extra

/-- Whether an entry asks for a doorbell by its kind. -/
def urgentEntry (e : PailEntry) : Bool := e.kind == 3 || e.kind == 4

/-- Close a pail whose END has been written, and let its request retire (R297, R307). -/
def State.closePail (s : State) (h : Handle) : State :=
  match s.findReq h with
  | none => s
  | some r =>
    if r.st = .ending ∧ r.pail.ended ∧ r.pail.spill.isEmpty ∧ ¬ r.pail.losing then (s.modPail h (fun p => { p with closed := true })).retire h else s

/-- Hand a commit's entries to the pail (R290, R294). -/
def State.pailPut (s : State) (h : Handle) (es : List PailEntry) : State :=
  match s.findReq h with
  | none => s
  | some r =>
    if es.isEmpty then s
    else if !r.pail.spill.isEmpty then (s.modPail h (fun p => p.toSpill r.out.drop es)).pailAsk h
    else
      let loss := r.pail.losing
      let (s, rest) := State.pailFit h es s
      let urgent := (loss && !s.losing h) || (es.take (es.length - rest.length)).any urgentEntry
      let s := if rest.isEmpty then s else (s.modPail h (fun p => p.toSpill r.out.drop rest)).pailAsk h
      (s.pailDone h r.pail.p urgent).closePail h

/-! ### A commit through the stages (R266 to R284) -/

/-- The text context that a request carries. -/
def Pail.text (p : Pail) : TextCtx :=
  { carry := p.carry, state := p.stopState, kept := p.held, scanned := p.bytesScanned, withheld := p.withheld, invSeq := p.invSeq,
    invBytes := p.invBytes }

/-- The context after a commit. -/
def Pail.afterText (p : Pail) (c : TextCtx) (released tokens : Nat) : Pail :=
  { p with carry := c.carry, stopState := c.state, held := c.kept, bytesScanned := c.scanned, withheld := c.withheld, invSeq := c.invSeq,
           invBytes := c.invBytes, bytesOut := (p.bytesOut + released) % 2 ^ 32, tokensOut := (p.tokensOut + tokens) % 2 ^ 32,
           stopped := if c.stop.isSome then c.stop else p.stopped }

/-- The tokens that are assembled: those up to the one that completes a stop string (R284). -/
def assembled (v : Vocab) (set : Option StopSet) (o : OutRecord) : TextCtx → List TokenId → List TokenId
  | _, [] => []
  | c, t :: ts => if c.stop.isSome then [] else t :: assembled v set o (scanToken v set o c t) ts

/-- What the skimmer makes of one commit: its entries, the pail after it, whether a stop ended the output, and the reason
that END carries. -/
structure Skimmed where
  entries : List PailEntry
  pail : Pail
  stopped : Bool
  reason : Option Nat
deriving DecidableEq, Repr

/-- A commit's tokens through assembly, carry, matching and release. -/
def skimText (v : Option Vocab) (set : Option StopSet) (o : OutRecord) (p : Pail) (w : SkimWork) : Skimmed :=
  let c := match v with | some v => (w.toks.map (fun x => x.1)).foldl (scanToken v set o) p.text | none => p.text
  let stopped := c.stop.isSome
  let reason := if stopped then some endStop else w.finish
  let carried := reason.isSome && !stopped && !c.carry.isEmpty
  let c := if reason.isSome then flushText set o c else c
  let r := releaseText reason.isSome c
  let out := r.1
  let p' := p.afterText r.2 out.length w.toks.length
  let toks := if o.tokens then tokenEntries (w.toks.length + 1) w.toks p.tokensOut else []
  let text := if o.text then textEntries (out.length + 1) out p.bytesOut else []
  let fin : List PailEntry := match reason with
    | some n => [endEntry n r.2.stop carried p'.tokensOut p'.bytesOut p'.withheld 0]
    | none => []
  ⟨toks ++ text ++ fin, { p' with ended := reason.isSome }, stopped, reason⟩

/-- Remove the oldest piece of work of a request. -/
def Skimmer.takeWork (k : Skimmer) (h : Handle) : Option (SkimWork × Skimmer) :=
  (k.work.find? (fun w => w.req == h)).map (fun w => (w, { k with work := dropFirst (fun w => w.req == h) k.work }))

/-- The verdict reaches CC1 (R282): a request that goes on has its entry written, unless the cutoff has passed, when that entry
stays unwritten; a stop ends it, and its partner with it. -/
def State.giveVerdict (s : State) (h : Handle) (stopped : Bool) : State :=
  match s.findReq h with
  | none => s
  | some r =>
    let s := s.modReq h (fun r => { r with verdict := true })
    if stopped then
      let s := s.modReq h (fun r => if r.endReason = 0 then r else { r with endReason := endStop })
      let s := match r.other with
        | some o => s.modReq o (fun q => if q.endReason = 0 ∨ q.pail.ended then q else { q with endReason := endStop })
        | none => s
      s.endOutput h endStop true
    else match r.slot with
      | some i =>
        if r.verdict then s
        else if s.shell.cutoff then s.modReq h (fun r => { r with unwritten := some s.nextStep })
        else if s.shell.frozen || !s.outcomeKnown i then s
        else s.buildSlot i
      | none => s

/-- One commit skimmed. -/
def State.skimOne (s : State) (r : Request) (w : SkimWork) : State :=
  if r.pail.ended then s
  else
    let v := s.reqVocab r
    let set := r.out.stop.bind (fun i => tget i s.skim.sets)
    let ids := w.toks.map (fun (x : TokenId × Bool × Bool) => x.1)
    let s := match v with | some v => s.readTokens r.opts.vidx v r.opts.lang (assembled v set r.out r.pail.text ids) | none => s
    let fin := match w.finish with | some n => some (if r.endReason = 0 then n else r.endReason) | none => none
    let k := skimText v set r.out r.pail { w with finish := fin }
    let s := s.modReq r.handle (fun r => { r with pail := k.pail })
    let s := s.giveVerdict r.handle k.stopped
    s.pailPut r.handle k.entries

/-- SKIM_COMMIT. The skimmer runs on ENG, its verdict needs CC1. Doorbells whose 2 µs are over go out with it (DESIGN CHOICE,
notes/assumptions/147.md). -/
def execSkimCommit (t : Time) (req : Handle) (s : State) : Result1 :=
  let s := s.at t
  .next (if s.inRst 1 || !s.duty 1 then s
    else
      let s := s.ringAll
      match s.findReq req, s.skim.takeWork req with
      | some r, some (w, k) => (s.modSkim (fun _ => k)).skimOne r w
      | none, some (_, k) => s.modSkim (fun _ => k)
      | _, none => s)

/-! ### The consumer word (R292, R294 to R297) -/

/-- CONSUMER_POLL: a pail with spilled entries or a pending LOSS. Doorbells whose 2 µs are over go out with it (DESIGN CHOICE,
notes/assumptions/147.md). -/
def execConsumerPoll (t : Time) (req : Handle) (s : State) : Result1 :=
  let s := s.at t
  .next (if !s.fw then s
    else
      let s := s.ringAll
      match s.findReq req with
      | none => s
      | some r => if r.pail.spill.isEmpty && !r.pail.losing then s else s.pailAsk req)

/-- CC1 pauses a request whose entries are still spilled, and resumes it once none is (R295, R314). While CC1's role is being
taken over neither happens, and the next read finds what is due (R340). -/
def State.pauseOrResume (s : State) (h : Handle) : State :=
  match s.findReq h with
  | none => s
  | some r =>
    if r.out.drop || !s.duty 1 then s
    else if r.pail.spill.isEmpty then
      (if r.st = .paused then
        (match r.slot with
          | some _ => s.modReq h (fun r => r.goTo s.now .slotted)
          | none => s.makeWaiting h)
      else s)
    else if r.st = .slotted ∨ r.st = .waiting then s.modReq h (fun r => r.goTo s.now .paused)
    else s

/-- The spill after a read that shows a consumer word: what fits is written; under DROP the rest is discarded, END
apart (R294, R296). -/
def State.drainSpill (s : State) (h : Handle) : State :=
  match s.findReq h with
  | none => s
  | some r =>
    let old := r.pail.spill
    let loss := r.pail.losing
    let (s, rest) := State.pailFit h old (s.pailLoss h)
    let written := old.take (old.length - rest.length)
    let told := loss && !s.losing h
    let s := if r.out.drop then
        let lost := rest.filter (fun e => e.kind != 3)
        let fin := rest.filter (fun e => e.kind == 3)
        s.modPail h (fun p => Pail.discard { p with spill := fin } lost)
      else s.modPail h (fun p => { p with spill := rest })
    s.pailDone h r.pail.p (told || written.any urgentEntry)

/-- What a read of the consumer word brings. A value out of range or a failure keeps the shadow, and is logged once. -/
def State.consumerRead (s : State) (r : Request) (value : Option (BitVec 64)) : State :=
  let h := r.handle
  let s := s.modPail h (fun p => { p with reading := false })
  match value with
  | none =>
    let s := if r.pail.failLogged then s
      else (s.logErr errConsumerReadFailed none h.toNat r.pail.p 0).modPail h (fun p => { p with failLogged := true })
    s.pauseOrResume h
  | some v =>
    let c := v.toNat % 2 ^ 32
    if 2 ^ r.out.log2n < (r.pail.p + 2 ^ 32 - c) % 2 ^ 32 then
      (if r.pail.idxLogged then s
        else (s.logErr errConsumerIndex none h.toNat c r.pail.p).modPail h (fun p => { p with idxLogged := true })).pauseOrResume h
    else (((s.modPail h (fun p => { p with c := c })).drainSpill h).pauseOrResume h).closePail h

/-- CONSUMER_READ_DONE: an entry that waited for the read can now be made. -/
def execConsumerReadDone (t : Time) (req : Handle) (value : Option (BitVec 64)) (s : State) : Result1 :=
  let s := s.at t
  .next (match s.findReq req with
    | none => s
    | some r =>
      if !s.fw || !r.pail.reading then s
      else
        let s := s.consumerRead r value
        match r.slot with | some i => s.retryBuild i | none => s)

end Sys2Proof.Machine
end

