-- ==== Sys2Proof/Machine/TestAccess.lean ====
section
/-! DEFINITION. The IEEE 1500 test wrapper (R414 to R417). -/

namespace Sys2Proof.Machine

/-- The instruction in force: a code not listed selects WBY, and WS_EXTEST only while rst_cold_n is low (Table 17-6). -/
def State.wrapperSel (s : State) : Nat :=
  let w := s.wrap.wir
  if w = 1 then (if s.clk.coldLow then 1 else 0) else if w ≤ 4 then w else 0

/-- WIR_UPDATE. -/
def execWirUpdate (t : Time) (code : BitVec 4) (s : State) : Result1 := .next ((s.at t).modWrap (fun w => { w with wir := code.toNat }))

/-- WRAPPER_RESET resets the wrapper alone: what a memory test has destroyed stays so. -/
def execWrapperReset (t : Time) (s : State) : Result1 := .next ((s.at t).modWrap (fun w => { spoiled := w.spoiled || w.running }))

/-- One register access of the wrapper (R415): the access, then its DATA and STATUS. -/
def State.skOnce (s : State) (v : Nat) : State :=
  let o := 4 * bits v 2 18
  let wr := bit v 0
  if s.inRst 2 then s.modWrap (fun w => { w with regStatus := 2 })
  else if wr && (o == 0xF00 || o == 0xF04) && s.fuses.writing.isSome && s.fuseOpen then s.modWrap (fun w => { w with regStatus := 3 })
  else
    let s := s.modRegs (fun g => { g with accDropped := false })
    let s := if wr then s.regWrite true o (BitVec.ofNat 32 (bits v 24 32)) else s.regRead true o 4
    s.modWrap (fun w => { w with regStatus := b2n s.regs.accDropped, regData := if wr then w.regData else s.regs.readData.setWidth 32 })

/-- The wrapper's access, before the host-link accesses of the same CTL cycle (R382, R415). -/
def State.skAccess (s : State) (v : Nat) : State :=
  match s.hostFirst with
  | some x => x.acts.foldl (fun s a => s.hostAgain a) ((s.hostRestore x.before).skOnce v)
  | none => s.skOnce v

/-- SK_REG: Update-WR with SK_REG selected. -/
def execSkReg (t : Time) (value : BitVec 64) (s : State) : Result1 :=
  let s := s.at t
  .next (if s.wrapperSel = 3 then s.skAccess value.toNat else s)

/-- SK_MBIST: Update-WR with SK_MBIST selected starts the test while either reset is held low (R416). It destroys every
SRAM. -/
def execSkMbist (t : Time) (value : Word) (s : State) : Result1 :=
  let s := s.at t
  .next (if s.wrapperSel = 4 ∧ bit value.toNat 0 ∧ (s.clk.coldLow || s.clk.warmLow) ∧ !s.wrap.running then
      (s.modWrap (fun w => { w with running := true, done := false, failing := [], found := 0, other := false, spoiled := true })).modLog (fun _ => {})
    else s)

/-- MBIST_DONE. -/
def execMbistDone (t : Time) (failing : List (BitVec 17)) (other : Bool) (s : State) : Result1 :=
  let s := s.at t
  let rows := distinct (failing.map (fun p => p.toNat))
  .next (if s.wrap.running then
      s.modWrap (fun w => { w with running := false, done := true, failing := rows, found := sat 2047 rows.length, other := other })
    else s)

/-- The captured register of Table 17-8. -/
def Wrapper.mbistWord (w : Wrapper) : Nat :=
  pack [(1, 0), (1, b2n w.done), (1, b2n (!w.failing.isEmpty)), (17, if w.done then w.failing.head?.getD 0 else 0), (1, b2n w.other), (11, w.found)]

/-- MBIST_CAPTURE: Capture-WR with SK_MBIST selected, popping the next failing row once the test has ended. -/
def execMbistCapture (t : Time) (s : State) : Result1 :=
  let s := s.at t
  .next (if s.wrapperSel = 4 then
      s.modWrap (fun w => { w with capture := BitVec.ofNat 32 w.mbistWord, failing := if w.done then w.failing.drop 1 else w.failing })
    else s)

end Sys2Proof.Machine
end

