-- ==== Sys2Proof/Machine/Dispatch.lean ====
section
/-! DEFINITION. One arm for each command of spec/opcode_table.json, each a direct call of its meaning. -/

namespace Sys2Proof.Machine

def exec (i : Instr) (s : State) : Host.Outcome State Fault Refusal :=
  match i with
  | .stepStart t => Sys2Proof.Machine.execStepStart t s
  | .freeze t => Sys2Proof.Machine.execFreeze t s
  | .maskCutoff t => Sys2Proof.Machine.execMaskCutoff t s
  | .manifestRead t slot ecc => Sys2Proof.Machine.execManifestRead t slot ecc s
  | .tokenPortRead t pair eccLo eccHi => Sys2Proof.Machine.execTokenPortRead t pair eccLo eccHi s
  | .headerBeat t hdr => Sys2Proof.Machine.execHeaderBeat t hdr s
  | .dataBeat t data => Sys2Proof.Machine.execDataBeat t data s
  | .ingestDeadline t => Sys2Proof.Machine.execIngestDeadline t s
  | .stretch t => Sys2Proof.Machine.execStretch t s
  | .frequencyChange t mhz => Sys2Proof.Machine.execFrequencyChange t mhz s
  | .manifestEntryWrite t slot entry record => Sys2Proof.Machine.execManifestEntryWrite t slot entry record s
  | .manifestBuild t => Sys2Proof.Machine.execManifestBuild t s
  | .inboundWrite t addr data tagBad => Sys2Proof.Machine.execInboundWrite t addr data tagBad s
  | .scrubVisit t bank ecc => Sys2Proof.Machine.execScrubVisit t bank ecc s
  | .writeBack t pra => Sys2Proof.Machine.execWriteBack t pra s
  | .writeBackDrop t pra => Sys2Proof.Machine.execWriteBackDrop t pra s
  | .bankAckRise t bank => Sys2Proof.Machine.execBankAckRise t bank s
  | .bankInitDone t bank => Sys2Proof.Machine.execBankInitDone t bank s
  | .bankDrainDone t bank => Sys2Proof.Machine.execBankDrainDone t bank s
  | .bankAckFall t bank => Sys2Proof.Machine.execBankAckFall t bank s
  | .ackTimeout t unit => Sys2Proof.Machine.execAckTimeout t unit s
  | .strainerAckRise t strainer => Sys2Proof.Machine.execStrainerAckRise t strainer s
  | .strainerInitDone t strainer => Sys2Proof.Machine.execStrainerInitDone t strainer s
  | .strainerReleased t strainer => Sys2Proof.Machine.execStrainerReleased t strainer s
  | .strainerAckFall t strainer => Sys2Proof.Machine.execStrainerAckFall t strainer s
  | .floorUpdate t slot posn strainer counted => Sys2Proof.Machine.execFloorUpdate t slot posn strainer counted s
  | .listSelectionDone t slot posn fault => Sys2Proof.Machine.execListSelectionDone t slot posn fault s
  | .extendBlock t slot posn => Sys2Proof.Machine.execExtendBlock t slot posn s
  | .extendBlockDone t slot work => Sys2Proof.Machine.execExtendBlockDone t slot work s
  | .rowPass t slot posn req => Sys2Proof.Machine.execRowPass t slot posn req s
  | .rowPassDone t slot work => Sys2Proof.Machine.execRowPassDone t slot work s
  | .draw t slot fault => Sys2Proof.Machine.execDraw t slot fault s
  | .verify t slot fault => Sys2Proof.Machine.execVerify t slot fault s
  | .commit t slot => Sys2Proof.Machine.execCommit t slot s
  | .skimCommit t req => Sys2Proof.Machine.execSkimCommit t req s
  | .consumerPoll t req => Sys2Proof.Machine.execConsumerPoll t req s
  | .consumerReadDone t req value => Sys2Proof.Machine.execConsumerReadDone t req value s
  | .collectiveTick t poisoned => Sys2Proof.Machine.execCollectiveTick t poisoned s
  | .messageSend t => Sys2Proof.Machine.execMessageSend t s
  | .roundTimeout t slot posn timer => Sys2Proof.Machine.execRoundTimeout t slot posn timer s
  | .prefetch t => Sys2Proof.Machine.execPrefetch t s
  | .maskFillDone t gidx kind fin => Sys2Proof.Machine.execMaskFillDone t gidx kind fin s
  | .prefetchTune t gidx => Sys2Proof.Machine.execPrefetchTune t gidx s
  | .bufferTaken t stream text fault => Sys2Proof.Machine.execBufferTaken t stream text fault s
  | .laneSwitch t lane => Sys2Proof.Machine.execLaneSwitch t lane s
  | .vocabFillDone t vidx line ok => Sys2Proof.Machine.execVocabFillDone t vidx line ok s
  | .partitionRetune t => Sys2Proof.Machine.execPartitionRetune t s
  | .recordMoveDone t index ecc => Sys2Proof.Machine.execRecordMoveDone t index ecc s
  | .epochCorrection t => Sys2Proof.Machine.execEpochCorrection t s
  | .doneWordPoll t => Sys2Proof.Machine.execDoneWordPoll t s
  | .doneWordReadDone t value failed => Sys2Proof.Machine.execDoneWordReadDone t value failed s
  | .ladle t role src last => Sys2Proof.Machine.execLadle t role src last s
  | .logWrite t => Sys2Proof.Machine.execLogWrite t s
  | .watchdogExpiry t core => Sys2Proof.Machine.execWatchdogExpiry t core s
  | .unhandledTrap t core addr code => Sys2Proof.Machine.execUnhandledTrap t core addr code s
  | .coreFailover t => Sys2Proof.Machine.execCoreFailover t s
  | .clockLoss t domain => Sys2Proof.Machine.execClockLoss t domain s
  | .cellarError t addr cls => Sys2Proof.Machine.execCellarError t addr cls s
  | .coldReset t => Sys2Proof.Machine.execColdReset t s
  | .warmReset t => Sys2Proof.Machine.execWarmReset t s
  | .resetRelease t => Sys2Proof.Machine.execResetRelease t s
  | .selftestDone t passed => Sys2Proof.Machine.execSelftestDone t passed s
  | .sramInitDone t ue badLog => Sys2Proof.Machine.execSramInitDone t ue badLog s
  | .authDone t => Sys2Proof.Machine.execAuthDone t s
  | .loadDone t => Sys2Proof.Machine.execLoadDone t s
  | .ready t => Sys2Proof.Machine.execReady t s
  | .fwInitTimeout t => Sys2Proof.Machine.execFwInitTimeout t s
  | .go t value => Sys2Proof.Machine.execGo t value s
  | .clear t value => Sys2Proof.Machine.execClear t value s
  | .repairData t entry => Sys2Proof.Machine.execRepairData t entry s
  | .stagingWindowWrite t offset data => Sys2Proof.Machine.execStagingWindowWrite t offset data s
  | .commandWindowWrite t offset data => Sys2Proof.Machine.execCommandWindowWrite t offset data s
  | .doorbell t ctx value => Sys2Proof.Machine.execDoorbell t ctx value s
  | .vatPwr t half value => Sys2Proof.Machine.execVatPwr t half value s
  | .strPwr t value => Sys2Proof.Machine.execStrPwr t value s
  | .errStatus t value => Sys2Proof.Machine.execErrStatus t value s
  | .readClear t read => Sys2Proof.Machine.execReadClear t read s
  | .tsLo t => Sys2Proof.Machine.execTsLo t s
  | .registerWrite t offset size value => Sys2Proof.Machine.execRegisterWrite t offset size value s
  | .fuseSvn t value => Sys2Proof.Machine.execFuseSvn t value s
  | .fuseKeyrev t value => Sys2Proof.Machine.execFuseKeyrev t value s
  | .fuseWriteDone t => Sys2Proof.Machine.execFuseWriteDone t s
  | .wirUpdate t code => Sys2Proof.Machine.execWirUpdate t code s
  | .wrapperReset t => Sys2Proof.Machine.execWrapperReset t s
  | .skReg t value => Sys2Proof.Machine.execSkReg t value s
  | .skMbist t value => Sys2Proof.Machine.execSkMbist t value s
  | .mbistDone t failing other => Sys2Proof.Machine.execMbistDone t failing other s
  | .mbistCapture t => Sys2Proof.Machine.execMbistCapture t s
  | .ringConsumerReadDone t ctx value => Sys2Proof.Machine.execRingConsumerReadDone t ctx value s
  | .identify t by_ => Sys2Proof.Machine.execIdentify t by_ s
  | .attach t by_ ring cidxAddr log2r flags => Sys2Proof.Machine.execAttach t by_ ring cidxAddr log2r flags s
  | .detach t by_ context => Sys2Proof.Machine.execDetach t by_ context s
  | .readLog t by_ dest first count => Sys2Proof.Machine.execReadLog t by_ dest first count s
  | .readBootReport t by_ => Sys2Proof.Machine.execReadBootReport t by_ s
  | .admitRequest t by_ service sampling speculation grammar start options output pass src => Sys2Proof.Machine.execAdmitRequest t by_ service sampling speculation grammar start options output pass src s
  | .cancelRequest t by_ req => Sys2Proof.Machine.execCancelRequest t by_ req s
  | .readRequest t by_ req dest => Sys2Proof.Machine.execReadRequest t by_ req dest s
  | .setGrammar t by_ req handle start => Sys2Proof.Machine.execSetGrammar t by_ req handle start s
  | .postDrafts t by_ req pos0 count tokens => Sys2Proof.Machine.execPostDrafts t by_ req pos0 count tokens s
  | .encodeOpen t by_ customer options => Sys2Proof.Machine.execEncodeOpen t by_ customer options s
  | .appendInput t by_ stream flags addr len src => Sys2Proof.Machine.execAppendInput t by_ stream flags addr len src s
  | .encodeClose t by_ job => Sys2Proof.Machine.execEncodeClose t by_ job s
  | .setStepShape t by_ f => Sys2Proof.Machine.execSetStepShape t by_ f s
  | .setHomeSlots t by_ first count => Sys2Proof.Machine.execSetHomeSlots t by_ first count s
  | .setCustomer t by_ customer pool flags weight iw rate burst => Sys2Proof.Machine.execSetCustomer t by_ customer pool flags weight iw rate burst s
  | .setPool t by_ pool weight turn => Sys2Proof.Machine.execSetPool t by_ pool weight turn s
  | .readCustomer t by_ customer => Sys2Proof.Machine.execReadCustomer t by_ customer s
  | .setVatPlan t by_ areas => Sys2Proof.Machine.execSetVatPlan t by_ areas s
  | .setPower t by_ banks strainers => Sys2Proof.Machine.execSetPower t by_ banks strainers s
  | .openWindow t by_ die area role firstRow length peer => Sys2Proof.Machine.execOpenWindow t by_ die area role firstRow length peer s
  | .closeWindow t by_ window => Sys2Proof.Machine.execCloseWindow t by_ window s
  | .setCollective t by_ blen src => Sys2Proof.Machine.execSetCollective t by_ blen src s
  | .loadLogitProgram t by_ prog image => Sys2Proof.Machine.execLoadLogitProgram t by_ prog image s
  | .loadBiasList t by_ list nent src => Sys2Proof.Machine.execLoadBiasList t by_ list nent src s
  | .loadVocab t by_ vidx len addr src => Sys2Proof.Machine.execLoadVocab t by_ vidx len addr src s
  | .releaseVocab t by_ vidx => Sys2Proof.Machine.execReleaseVocab t by_ vidx s
  | .setVocabPartition t by_ lock masks map => Sys2Proof.Machine.execSetVocabPartition t by_ lock masks map s
  | .loadGrammar t by_ handle len addr src => Sys2Proof.Machine.execLoadGrammar t by_ handle len addr src s
  | .releaseGrammar t by_ handle => Sys2Proof.Machine.execReleaseGrammar t by_ handle s
  | .loadStopSet t by_ index host len src => Sys2Proof.Machine.execLoadStopSet t by_ index host len src s
  | .releaseStopSet t by_ index => Sys2Proof.Machine.execReleaseStopSet t by_ index s
  | .setAdapterPool t by_ library rslots log2g eventCtx slotBytes gring doneAddr => Sys2Proof.Machine.execSetAdapterPool t by_ library rslots log2g eventCtx slotBytes gring doneAddr s
  | .powerLoss t => Sys2Proof.Machine.execPowerLoss t s
  | .ringConsumerPoll t ctx => Sys2Proof.Machine.execRingConsumerPoll t ctx s
  | .privateSramError t core => Sys2Proof.Machine.execPrivateSramError t core s
  | .clockRunsAgain t domain => Sys2Proof.Machine.execClockRunsAgain t domain s
  | .entryReport t stream text => Sys2Proof.Machine.execEntryReport t stream text s

end Sys2Proof.Machine
end

