-- ==== Sys2Proof/Safety.lean ====
section
/-! DEFINITION. The terms that claims are made in: what a command leaves untouched, the canonical memories, what the fuses
promise, and when firmware serves a context and what its response is. -/

namespace Sys2Proof.Machine

/-- The parts of State that a frame speaks of: its units, with the byte memories apart from the units that hold them. -/
inductive StateUnit where
  | clk | shell | vat | vatMem | str | drw | ren | churn | skim | coll | reqs | rat | stw | fuses | boot | bootMem | mbox | cmdWin | regs
  | log | wrap | ports | free
deriving DecidableEq, Repr

/-- The vat with what a list of parts names put out of sight; how many banks it has stays in sight. -/
def Vat.hide (l : List StateUnit) (v : Vat) : Vat :=
  { (if .vat ∈ l then { banks := v.banks.map (fun _ => {}) } else v) with
    mem := if .vatMem ∈ l then [] else v.mem, tags := if .vatMem ∈ l then [] else v.tags,
    checks := if .vatMem ∈ l then [] else v.checks, parity := if .vatMem ∈ l then [] else v.parity }

/-- The boot unit with what a list of parts names put out of sight. -/
def Boot.hide (l : List StateUnit) (b : Boot) : Boot :=
  { (if .boot ∈ l then {} else b) with
    core := if .bootMem ∈ l then [] else b.core, data := if .bootMem ∈ l then [] else b.data }

/-- The strainers put out of sight where a list of parts names them; how many there are stays in sight. -/
def Strainers.hide (l : List StateUnit) (x : Strainers) : Strainers :=
  if .str ∈ l then { units := x.units.map (fun _ => {}) } else x

/-- The mailboxes with what a list of parts names put out of sight; how many contexts there are stays in sight. -/
def Mailbox.hide (l : List StateUnit) (m : Mailbox) : Mailbox :=
  { (if .mbox ∈ l then { ctxs := m.ctxs.map (fun _ => {}) } else m) with windows := if .cmdWin ∈ l then [] else m.windows }

/-- A state with the parts of a list put out of sight: what it shows is all the rest. -/
def State.hide (l : List StateUnit) (s : State) : State :=
  { clk := if .clk ∈ l then {} else s.clk
    shell := if .shell ∈ l then {} else s.shell
    vat := s.vat.hide l
    str := s.str.hide l
    drw := if .drw ∈ l then {} else s.drw
    ren := if .ren ∈ l then {} else s.ren
    churn := if .churn ∈ l then {} else s.churn
    skim := if .skim ∈ l then {} else s.skim
    coll := if .coll ∈ l then {} else s.coll
    reqs := if .reqs ∈ l then {} else s.reqs
    rat := if .rat ∈ l then {} else s.rat
    stw := if .stw ∈ l then {} else s.stw
    fuses := if .fuses ∈ l then {} else s.fuses
    boot := s.boot.hide l
    mbox := s.mbox.hide l
    regs := if .regs ∈ l then {} else s.regs
    log := if .log ∈ l then {} else s.log
    wrap := if .wrap ∈ l then {} else s.wrap
    ports := if .ports ∈ l then {} else s.ports
    free := if .free ∈ l then 0 else s.free
    pending := s.pending }

/-- Between two states nothing differs outside the parts of a list; the queue of waiting commands is no part, so it never
differs. -/
def State.onlyChanges (l : List StateUnit) (s t : State) : Prop := t.hide l = s.hide l

/-- The block has its 64 banks, 16 strainers and 256 contexts. -/
def State.counted (s : State) : Prop := s.vat.banks.length = 64 ∧ s.str.units.length = 16 ∧ s.mbox.ctxs.length = 256

/-- The vat's memories hold their canonical form: rows, tags, check bits and parity bits. -/
def Vat.canonical (v : Vat) : Bool := Memory.wf v.mem && Memory.wf v.tags && Memory.wf v.checks && Memory.wf v.parity

/-- Every byte memory of the block holds its canonical form. -/
def State.canonical (s : State) : Bool :=
  s.vat.canonical && Memory.wf s.mbox.windows && Memory.wf s.boot.core && Memory.wf s.boot.data

/-- What fuses promise (R369, R417): the minimum SVN never falls, a revoked key stays revoked, and the rest never
changes. -/
def Fuses.onlyBurn (f g : Fuses) : Prop :=
  f.minSvn ≤ g.minSvn ∧ f.revoked &&& g.revoked = f.revoked ∧ g.strainers = f.strainers ∧ g.lanes = f.lanes ∧ g.rows = f.rows
    ∧ g.digests = f.digests

/-- Firmware at READY serves a command of an ATTACHED context, the core of its role running (R338, R352). -/
def State.serves (s : State) (b : Sender) (op : Nat) : Prop :=
  s.fw = true ∧ s.boot.stage = 8 ∧ s.roleUp (opRole op) = true ∧ (s.ctx b.ctx.toNat).attached = true

/-- The ROM in skim mode, its core not halted, answers a command of an ATTACHED context (R341, R348). -/
def State.skimAnswers (s : State) (b : Sender) : Prop :=
  s.boot.stage = 9 ∧ s.boot.halt = false ∧ (s.ctx b.ctx.toNat).attached = true

/-- The sender and the opcode of a command that came through a mailbox (Tables 14-10 to 14-13); none for any other. -/
def mailOf : Instr → Option (Sender × Nat)
  | .identify _ b => some (b, opIdentify)
  | .attach _ b _ _ _ _ => some (b, opAttach)
  | .detach _ b _ => some (b, opDetach)
  | .readLog _ b _ _ _ => some (b, opReadLog)
  | .readBootReport _ b => some (b, opReadBootReport)
  | .admitRequest _ b _ _ _ _ _ _ _ _ _ => some (b, opAdmitRequest)
  | .cancelRequest _ b _ => some (b, opCancelRequest)
  | .readRequest _ b _ _ => some (b, opReadRequest)
  | .setGrammar _ b _ _ _ => some (b, opSetGrammar)
  | .postDrafts _ b _ _ _ _ => some (b, opPostDrafts)
  | .encodeOpen _ b _ _ => some (b, opEncodeOpen)
  | .appendInput _ b _ _ _ _ _ => some (b, opAppendInput)
  | .encodeClose _ b _ => some (b, opEncodeClose)
  | .setStepShape _ b _ => some (b, opSetStepShape)
  | .setHomeSlots _ b _ _ => some (b, opSetHomeSlots)
  | .setCustomer _ b _ _ _ _ _ _ _ => some (b, opSetCustomer)
  | .setPool _ b _ _ _ => some (b, opSetPool)
  | .readCustomer _ b _ => some (b, opReadCustomer)
  | .setVatPlan _ b _ => some (b, opSetVatPlan)
  | .setPower _ b _ _ => some (b, opSetPower)
  | .openWindow _ b _ _ _ _ _ _ => some (b, opOpenWindow)
  | .closeWindow _ b _ => some (b, opCloseWindow)
  | .setCollective _ b _ _ => some (b, opSetCollective)
  | .loadLogitProgram _ b _ _ => some (b, opLoadLogitProgram)
  | .loadBiasList _ b _ _ _ => some (b, opLoadBiasList)
  | .loadVocab _ b _ _ _ _ => some (b, opLoadVocab)
  | .releaseVocab _ b _ => some (b, opReleaseVocab)
  | .setVocabPartition _ b _ _ _ => some (b, opSetVocabPartition)
  | .loadGrammar _ b _ _ _ _ => some (b, opLoadGrammar)
  | .releaseGrammar _ b _ => some (b, opReleaseGrammar)
  | .loadStopSet _ b _ _ _ _ => some (b, opLoadStopSet)
  | .releaseStopSet _ b _ => some (b, opReleaseStopSet)
  | .setAdapterPool _ b _ _ _ _ _ _ _ => some (b, opSetAdapterPool)
  | _ => none

/-- The ring of an ATTACHED context takes a response at once: it has room, no response waits, and no DETACH waits in
the context (R354, R356). -/
def State.ringFree (s : State) (c : Nat) : Prop :=
  (s.ctx c).attached = true ∧ (s.ctx c).waiting = [] ∧ 0 < (s.ctx c).room ∧ s.mbox.detaches.all (fun d => d.ctx.toNat != c) = true

/-- Where entry P of a context's ring lies (R353, R354). -/
def Context.slotAddr (x : Context) : BitVec 64 := x.ring + BitVec.ofNat 64 (256 * (x.p % 2 ^ x.log2r))

/-- The ladles that the response of a command reports: those of the taken command, at least one (R353). -/
def Context.ladlesOf (x : Context) (tag : Word) (op : Nat) : Nat :=
  max 1 (((x.cmds.find? (fun k => k.isFor tag op)).map (fun k => k.ladles)).getD 1)

/-- The write to host memory that a response makes. -/
def State.responseWrite (s : State) (b : Sender) (op status : Nat) (body : List Byte) : BitVec 64 × List Byte :=
  let x := s.ctx b.ctx.toNat
  (x.slotAddr, ringBytes b.ctx.toNat x.p x.log2r { kind := 1, code := op, status := status, tag := b.tag, ladles := x.ladlesOf b.tag op, body := body })

/-- Between two states a command of a context is answered: after the host writes `pre` its response is written, P
advances by one, and the command is no longer taken. -/
def State.responds (s t : State) (b : Sender) (op status : Nat) (body : List Byte) (pre : List (BitVec 64 × List Byte)) : Prop :=
  t.ports.host = s.ports.host ++ pre ++ [s.responseWrite b op status body]
    ∧ t.ctx b.ctx.toNat = { s.ctx b.ctx.toNat with
        p := ((s.ctx b.ctx.toNat).p + 1) % 2 ^ 32, cmds := dropFirst (fun k => k.isFor b.tag op) (s.ctx b.ctx.toNat).cmds }

/-- What an accepted power request does between two states (R377), at a CTL and an AON count: each unit it names goes up or
down where that changes what was asked of it, and no other unit changes. -/
def State.powerAsked (s t : State) (ctl now : Nat) (ask : List (Nat × Bool)) : Prop :=
  (∀ p ∈ ask, t.unit p.1 = if (s.unit p.1).want = p.2 then s.unit p.1
      else (s.unit p.1).marked ctl (if p.2 then (s.unit p.1).up now else (s.unit p.1).down (decide (p.1 < 64))))
    ∧ ∀ j, (∀ p ∈ ask, p.1 ≠ j) → t.unit j = s.unit j

/-- What the assertion of a reset leaves, in a state already at the reset's time (R372, R389, Table 16-5): the fuses, the
wrapper, the log's entries and NEXT, and what the boot keeps across resets stand, but for a GO of the same counts, which is
lost; every domain is in reset, no unit is powered, and everything else is as at reset. -/
def State.resetLeaves (s t : State) : Prop :=
  t.clk.inReset = 0x3F ∧ t.clk.alive = 0 ∧ t.clk.rstDone = false ∧ t.clk.tsLatch = 0
    ∧ t.vat.mem = [] ∧ t.vat.tags = [] ∧ t.vat.checks = [] ∧ t.vat.parity = [] ∧ (∀ j, t.unit j = { ack := (s.unit j).ack })
    ∧ t.fuses = s.fuses ∧ t.wrap = s.wrap ∧ t.log = { entries := s.log.entries, next := s.log.next }
    ∧ (match s.boot.goUndo with
        | some (c, a, bip, n) => if c = s.clk.ctl ∧ a = s.now then (t.boot.bip, t.boot.fcount) = (bip, n)
            else (t.boot.bip, t.boot.fcount) = (s.boot.bip, s.boot.fcount)
        | none => (t.boot.bip, t.boot.fcount) = (s.boot.bip, s.boot.fcount))
    ∧ t.boot.fails = s.boot.fails ∧ t.boot.resetAon = s.now ∧ t.boot.stage = 0 ∧ t.boot.running = false
    ∧ t.boot.halt = false ∧ t.boot.core = [] ∧ t.boot.data = [] ∧ t.mbox.windows = [] ∧ (∀ c, t.ctx c = {})
    ∧ (t.shell, t.drw, t.ren, t.churn, t.skim, t.coll, t.reqs, t.rat, t.stw, t.regs)
      = (({}, {}, {}, {}, {}, {}, {}, {}, {}, {}) :
          Shell × DrawUnit × Rennet × Churn × Skimmer × Collective × Requests × Rations × Steward × Regs)

/-- A row without what buffers that come free may give it at any time: the beginning of its first pass and of the work that it
waits for (R88, R109). -/
def Row.unstarted (r : Row) : Row := { r with begun := false, asks := r.asks.map (fun a => { a with running := false }) }

/-- Every other row position's row stays, but for work that may begin. -/
def State.otherRows (s t : State) (slot posn : Nat) : Prop :=
  ∀ i j, ¬ (i = slot ∧ j = posn) → (t.row i j).map Row.unstarted = (s.row i j).map Row.unstarted

/-- A stream after entries of a piece of text: they follow those written, the rest of the text is held back, and the counters
of Table 11-13 count. -/
def Stream.wrote (x : Stream) (text : List Byte) (w : TextWork) (new : List EncEntry) : Stream :=
  { x with
    entries := x.entries ++ new
    pending := { text := (x.pending.text ++ text).drop w.e.consumed, skip := w.e.skip }
    counters := { bytesIn := x.counters.bytesIn + text.length,
                  tokensOut := x.counters.tokensOut + new.length, specials := x.counters.specials + w.e.specials, invalidSeq := x.counters.invalidSeq + w.e.invalid.length,
                  invalidBytes := x.counters.invalidBytes + sumNat (w.e.invalid.map (fun o => o.2)),
                  unknownBytes := x.counters.unknownBytes + new.countP (fun e => e.unk),
                  pieces := x.counters.pieces + w.merged.length, memoHits := x.counters.memoHits + w.memo.length,
                  misses := x.counters.misses } }

/-- The write that new entries of a stream make, the first at DEST and the n-th at DEST + 4 × (n − 1) (R237). -/
def Stream.entryWrite (x : Stream) (new : List EncEntry) : List (BitVec 64 × List Byte) :=
  if new = [] then [] else [(x.opts.dest + BitVec.ofNat 64 (4 * x.entries.length), new.flatMap EncEntry.bytes)]

/-- A stream of a job stops under a status: its context is freed, and where no other buffer waits the buffer is answered. -/
def State.stopsJob (s u : State) (i : Nat) (x : Stream) (b : InBuffer) (rest : List InBuffer) (status : Nat)
    (pre : List (BitVec 64 × List Byte)) : Prop :=
  x.job.isSome = true → tget i u.churn.streams = none
    ∧ (s.ringFree b.by_.ctx.toNat → rest = [] → s.responds u b.by_ opAppendInput status [] pre)

/-- A buffer as it opens (R27): slots 0 to N − 1 DRY with TOKEN_LATE and every other IDLE, with IDLE records. -/
def Buffer.opened (d : Buffer) : Prop :=
  (∀ i, i < d.shape.slots → d.entryAt i = ({ kind := .dry, dryCause := dryTokenLate, step := d.step }, { step := d.step }))
    ∧ ∀ i, d.shape.slots ≤ i → d.entryAt i = ({ step := d.step }, { step := d.step })

/-- Held at the failure counter's limit: the counter shows 3, the block is in skim mode, in the reset sequence, or in the
self-test that leads back to skim mode, and no GO waits to be lost to a reset. -/
def Boot.held (b : Boot) : Prop := 3 ≤ b.fcount ∧ (b.stage = 0 ∨ b.stage = 1 ∨ b.stage = 9) ∧ b.goUndo = none

/-- The boot is held, and the host-link accesses of the CTL cycle, which a wrapper access may yet come before, have not led
into it. -/
def State.heldInSkim (s : State) : Prop := s.boot.held ∧ ∀ x, s.clk.host = some x → x.after.boot.held → x.before.boot.held

end Sys2Proof.Machine
end

