-- ==== Sys2Proof/Certificates/Slice0/Obligations.lean ====
section
/-! DEFINITION. The statements for the provers. Each speaks of every state and every operand its hypotheses allow; a step's
frame is what `State.onlyChanges` leaves untouched. -/

open Sys2Proof Sys2Proof.Machine

/-- A STEP RUNS THE COMMAND AT THE FRONT: with command c at the front of the queue a step is exec of c on the state with
the queue's rest; on an empty queue the block idles (the model's choice, notes/assumptions/3.md). -/
def Obligations.StepRunsFront : Prop :=
  (∀ (c : Instr) (rest : List Instr) (s : State), step { s with pending := c :: rest } = exec c { s with pending := rest })
    ∧ ∀ s : State, s.pending = [] → step s = .next s

/-- EVERY COMMAND COMPLETES: no command ends in a fault or a refusal, and none touches the queue of waiting commands. -/
def Obligations.EveryCommandCompletes : Prop :=
  ∀ (c : Instr) (s : State), ∃ t, exec c s = .next t ∧ t.pending = s.pending

/-- THE STATE AFTER RESET (R343, R369, R391, R392, R401): every domain is held in reset, the boot has not begun and its counter is 0,
there is no step shape, every bank and strainer is OFF and asked for nothing, every window entry is FREE, every context is
DETACHED, no error is shown, the trouble log is empty, no command waits, and every byte memory is in canonical form. -/
def Obligations.ResetStateHolds : Prop :=
  State.reset.canonical = true ∧ State.reset.counted ∧ State.reset.pending = [] ∧ State.reset.clk.inReset = 0x3F
    ∧ State.reset.boot.stage = 0 ∧ State.reset.boot.fcount = 0 ∧ State.reset.boot.bip = false
    ∧ State.reset.shell.serving = none ∧ State.reset.shell.building = none
    ∧ (∀ j, (State.reset.unit j).st = .off ∧ (State.reset.unit j).req = false ∧ (State.reset.unit j).want = false)
    ∧ (∀ n, (State.reset.vat.window n).st = .free) ∧ (∀ c, (State.reset.ctx c).attached = false)
    ∧ State.reset.regs.errStatus = 0 ∧ State.reset.regs.errCount = 0 ∧ State.reset.log.entries = [] ∧ State.reset.log.next = 0

/-- CANONICAL MEMORIES: from every state whose byte memories hold their canonical form, a step answers a state whose byte
memories hold it. -/
def Obligations.StepKeepsCanonical : Prop :=
  ∀ s t : State, s.canonical = true → step s = .next t → t.canonical = true

/-- The numbers of banks, strainers and contexts never change. -/
def Obligations.StepKeepsUnitCounts : Prop :=
 ∀ s t : State, s.counted → step s = .next t → t.counted

/-- FUSES ONLY BURN: in every step the minimum SVN never falls, a revoked key stays revoked, and the other fuses stay
(R369, R417). -/
def Obligations.StepsOnlyBurnFuses : Prop :=
  ∀ s t : State, step s = .next t → s.fuses.onlyBurn t.fuses

/-- LEAVING SKIM MODE (R349). In skim mode no command but a reset, its release, or a loss of power takes the stage from 9 (where the
host-link accesses of the CTL cycle, which a wrapper access may come before, have not led into skim mode, which none does). While the counter
shows 3, a reset leads nowhere else: no step leaves skim mode, the reset sequence and the self-test, of which every one that
some core passes ends in skim mode again, unless it clears the counter, and only a loss of power and the writes that reach
BOOT_CTL clear it. Once it is cleared, a reset and a self-test that four cores pass lead to SRAM_INIT and so out. A reset
keeps the log's entries and its NEXT, and the counter unless it takes back a GO that came with it (R372). -/
def Obligations.SkimModeLeft : Prop :=
  (∀ s t : State, s.heldInSkim → step s = .next t → t.heldInSkim ∨ t.boot.fcount = 0)
    ∧ (∀ (c : Instr) (s t : State), exec c s = .next t →
      (s.boot.stage = 9 → (∀ x, s.clk.host = some x → x.after.boot.stage = 9 → x.before.boot.stage = 9) →
        t.boot.stage = 9 ∨ ∃ a k, c = .coldReset a ∨ c = .warmReset a ∨ c = .resetRelease ⟨a, k⟩ ∨ c = .powerLoss a)
      ∧ (s.heldInSkim → t.boot.fcount = 0 → ∃ a, c = .powerLoss a ∨ (∃ v, c = .clear a v ∨ c = .go a v) ∨ (∃ v, c = .registerWrite a 0x014 4 v) ∨ ∃ v, c = .skReg a v))
    ∧ (∀ (s : State) (t : Time) (m : BitVec 5), s.boot.stage = 1 → s.boot.halt = false → ∃ u, exec (.selftestDone t m) s = .next u
      ∧ (3 ≤ s.boot.fcount → passing m ≠ [] → u.boot.stage = 9) ∧ (s.boot.fcount = 0 → 4 ≤ (passing m).length → u.boot.stage = 3))
    ∧ ∀ (s : State) (t : Time), (∃ u, exec (.coldReset t) s = .next u ∧ (s.boot.goUndo = none → u.boot.fcount = s.boot.fcount) ∧ u.log.entries = s.log.entries ∧ u.log.next = s.log.next)
      ∧ (∃ u, exec (.warmReset t) s = .next u ∧ (s.boot.goUndo = none → u.boot.fcount = s.boot.fcount) ∧ u.log.entries = s.log.entries ∧ u.log.next = s.log.next)
      ∧ ∀ k : Nat, ∃ u, exec (.resetRelease ⟨t, k⟩) s = .next u ∧ u.boot.fcount = s.boot.fcount ∧ u.log.entries = s.log.entries ∧ u.log.next = s.log.next

/-- SET_STEP_SHAPE and SET_HOME_SLOTS are answered with the status that Table 2-1, R23 and R303 give; an accepted shape is
answered with its FIRST_STEP and taken by the shell, an accepted homed range waits for the next build, and a refused one
changes neither. -/
def Obligations.ShapeCommandsAnswered : Prop :=
  ∀ (s : State) (t : Time) (b : Sender), s.ringFree b.ctx.toNat →
    (∀ f : ShapeFields, s.serves b opSetStepShape → ∃ u, exec (.setStepShape t b f) s = .next u
      ∧ s.responds u b opSetStepShape (s.shapeStatus f) (if s.shapeStatus f = stOk then leBytes 4 s.nextFirst else []) []
      ∧ u.shell = (if s.shapeStatus f = stOk then s.shell.takeShape (shapeOf f) s.nextFirst else s.shell)
      ∧ s.onlyChanges [.clk, .shell, .skim, .reqs, .mbox, .ports] u)
    ∧ ∀ first count : Nat, s.serves b opSetHomeSlots → ∃ u, exec (.setHomeSlots t b first count) s = .next u
      ∧ (match s.homeLimit with
         | some n =>
           if first + count ≤ n ∧ s.leavesHeld first count = false then
             s.responds u b opSetHomeSlots stOk [] [] ∧ u.reqs = { s.reqs with nextHome := some (first, count) }
           else s.responds u b opSetHomeSlots stHomeSlots [] [] ∧ u.reqs = s.reqs
         | none => s.responds u b opSetHomeSlots stHomeSlots [] [] ∧ u.reqs = s.reqs)
      ∧ s.onlyChanges [.clk, .skim, .reqs, .mbox, .ports] u

/-- SET_CUSTOMER, SET_POOL and READ_CUSTOMER (Tables 13-6, 13-7 and 14-12): a new customer begins with a full bucket, one
set anew keeps what is in force until the next build and the next charge, one removed is gone; a pool's WEIGHT and TURN
wait for the next build; a customer is read with its level refilled to now. Fields out of range are refused and change no
ration. -/
def Obligations.CustomerCommandsAnswered : Prop :=
  ∀ (s : State) (t : Time) (b : Sender), s.ringFree b.ctx.toNat →
    (∀ (cust pool : Nat) (flags : Byte) (weight iw rate burst : Nat), s.serves b opSetCustomer →
      let f : CustFields := ⟨pool, bit flags.toNat 0, weight, iw, rate, burst⟩
      let st := if 4 ≤ flags.toNat then stCmdReserved else if 16383 < cust then stCustParam
        else if bit flags.toNat 1 = true then (if tget cust s.rat.customers = none then stCustUnknown else if s.custBusy cust then stCustBusy else stOk)
        else if f.ok then stOk else stCustParam
      ∃ u, exec (.setCustomer t b cust pool flags weight iw rate burst) s = .next u
        ∧ s.responds u b opSetCustomer st [] []
        ∧ u.rat = (if st ≠ stOk then s.rat else if bit flags.toNat 1 = true then { s.rat with customers := tdel cust s.rat.customers }
          else { s.rat with customers := match tget cust s.rat.customers with
            | some _ => tmod cust (fun c => c.reset f) s.rat.customers
            | none => tput cust (f.fresh (max s.now t.aon) s.rat.builds) s.rat.customers })
        ∧ s.onlyChanges [.clk, .skim, .rat, .mbox, .ports] u)
    ∧ (∀ pool weight turn : Nat, s.serves b opSetPool → ∃ u, exec (.setPool t b pool weight turn) s = .next u
        ∧ (if pool ≤ 15 ∧ 1 ≤ weight ∧ weight ≤ 65535 ∧ turn ≤ 65535 then
            s.responds u b opSetPool stOk [] [] ∧ u.rat = { s.rat with pools := lmod pool (fun p => { p with next := some (weight, turn) }) s.rat.pools }
          else s.responds u b opSetPool stPoolParam [] [] ∧ u.rat = s.rat)
        ∧ s.onlyChanges [.clk, .skim, .rat, .mbox, .ports] u)
    ∧ ∀ cust : Nat, s.serves b opReadCustomer → ∃ u, exec (.readCustomer t b cust) s = .next u
        ∧ (match tget cust s.rat.customers with
          | some c => s.responds u b opReadCustomer stOk (c.body (max s.now t.aon) s.rat.maxDev (s.requestsOf cust)) []
          | none => s.responds u b opReadCustomer stCustUnknown [] [])
        ∧ s.onlyChanges [.clk, .skim, .mbox, .ports] u

/-- SET_VAT_PLAN, OPEN_WINDOW and CLOSE_WINDOW (R46, R47, R53, R141, Table 7-3): an accepted plan replaces the one in force
and is answered with the areas' capacities; an accepted opening takes the entry that R53 names and is answered with its
number and a stamp made of the die and the count of the entry's openings; a closing leaves the entry CLOSED. What is
refused changes nothing in the vat, and no memory changes. A plan comes before the register power writes of its own CTL cycle
(R379).

SET_COLLECTIVE (R139, R140, R162, R362): a block whose source could not be read, or that a check refuses, changes no
configuration; an accepted one waits for its FIRST_STEP in place of accepted ones for that step or later.

SET_ADAPTER_POOL (R331): fields in range, with no version in the table, start the steward afresh on the new pool;
anything else is refused and leaves the steward as it was. -/
def Obligations.VatAndPoolCommandsAnswered : Prop :=
  (∀ (s : State) (t : Time) (b : Sender), s.ringFree b.ctx.toNat →
      (∀ l : List AreaFields, s.serves b opSetVatPlan →
        let writes := match s.clk.power with | some x => if x.ctl = max s.clk.ctl t.ctl then some x else none | none => none
        let d := match writes with | some x => (s.at t).powerRestore x | none => s.at t
        ∃ m u, exec (.setVatPlan t b l) s = .next u
        ∧ (if d.planStatus l = stOk then
            s.responds m b opSetVatPlan stOk ({ d.vat with plan := planOf l } : Vat).capacities [] ∧ m.vat = { d.vat with plan := planOf l }
          else s.responds m b opSetVatPlan (d.planStatus l) [] [] ∧ m.vat = d.vat)
        ∧ (writes = none → u = m ∧ s.onlyChanges [.clk, .vat, .skim, .mbox, .ports] u)
        ∧ (∀ x, writes = some x → u = x.acts.foldl (fun s a => s.regPower a.1 a.2) m)
        ∧ s.onlyChanges [.clk, .vat, .str, .skim, .mbox, .regs, .log, .ports] u)
      ∧ (∀ die area role firstRow length peer : Nat, s.serves b opOpenWindow →
        ∃ u, exec (.openWindow t b die area role firstRow length peer) s = .next u
        ∧ (if s.vat.openStatus die area role firstRow length = stOk then
            ∃ n a, s.vat.entryToOpen = some n ∧ s.vat.area area = some a
              ∧ s.responds u b opOpenWindow stOk (leBytes 4 n ++ leBytes 4 ((die * 1024 + ((s.vat.window n).opens + 1) % 1024) % 2 ^ 26)) []
              ∧ u.vat.window n = s.vat.openedEntry (s.vat.window n) a die role firstRow length peer
              ∧ (∀ m, m ≠ n → u.vat.window m = s.vat.window m)
          else s.responds u b opOpenWindow (s.vat.openStatus die area role firstRow length) [] [] ∧ u.vat = s.vat)
        ∧ s.onlyChanges [.clk, .vat, .skim, .mbox, .ports] u)
      ∧ ∀ n : Nat, n < s.vat.windows.length → s.serves b opCloseWindow → ∃ u, exec (.closeWindow t b n) s = .next u
        ∧ (if (s.vat.window n).st ≠ .opened then s.responds u b opCloseWindow stWinState [] [] ∧ u.vat = s.vat
          else if s.coll.uses n then s.responds u b opCloseWindow stWinBusy [] [] ∧ u.vat = s.vat
          else s.responds u b opCloseWindow stOk [] [] ∧ (u.vat.window n).st = .closed ∧ (u.vat.window n).stamp = (s.vat.window n).stamp
            ∧ (u.vat.window n).banks = (s.vat.window n).banks ∧ (∀ m, m ≠ n → u.vat.window m = s.vat.window m))
        ∧ s.onlyChanges [.clk, .vat, .skim, .mbox, .ports] u)
    ∧
  (∀ (s : State) (t : Time) (b : Sender) (blen : Nat), s.ringFree b.ctx.toNat → s.serves b opSetCollective →
      (∃ u, exec (.setCollective t b blen none) s = .next u ∧ s.responds u b opSetCollective stSource [] []
        ∧ s.onlyChanges [.clk, .skim, .mbox, .ports] u)
      ∧ ∀ bs : List Byte, ∃ u, exec (.setCollective t b blen (some bs)) s = .next u
        ∧ s.responds u b opSetCollective (s.collStatus blen (slice bs 0 blen)) [] []
        ∧ u.coll.pending = (if s.collStatus blen (slice bs 0 blen) = stOk then
            s.coll.pending.filter (fun p => decide (p.firstStep < (collBlock (slice bs 0 blen) s.bMax).firstStep))
              ++ [collBlock (slice bs 0 blen) s.bMax]
          else s.coll.pending)
        ∧ u.coll.config = s.coll.config
        ∧ s.onlyChanges [.clk, .skim, .coll, .mbox, .ports] u)
    ∧
  (∀ (s : State) (t : Time) (b : Sender) (library : BitVec 64) (rslots log2g eventCtx slotBytes : Nat) (gring doneAddr : BitVec 64),
      s.ringFree b.ctx.toNat → s.serves b opSetAdapterPool →
      ∃ u, exec (.setAdapterPool t b library rslots log2g eventCtx slotBytes gring doneAddr) s = .next u
        ∧ (if library.toNat % 32 = 0 ∧ 1 ≤ rslots ∧ rslots ≤ 4096 ∧ 6 ≤ log2g ∧ log2g ≤ 12 ∧ gring.toNat % 64 = 0 ∧ doneAddr.toNat % 8 = 0
              ∧ s.stw.versions = [] then
            s.responds u b opSetAdapterPool stOk [] []
              ∧ u.stw = { pool := some ⟨library, rslots, log2g, eventCtx, slotBytes, gring, doneAddr⟩ }
          else s.responds u b opSetAdapterPool stAdapterPool [] [] ∧ u.stw = s.stw)
        ∧ s.onlyChanges [.clk, .skim, .stw, .mbox, .ports] u)

/-- LOAD_LOGIT_PROGRAM and LOAD_BIAS_LIST (R117 to R120, Table 6-5): a program is answered with the status that Table 6-5
gives, and stored when accepted; a bias list of a known source, format and size that no tracked request binds is stored. A
refused command changes nothing in the draw unit.

LOAD_STOP_SET and RELEASE_STOP_SET (R272 to R275, Table 12-4): a set that is well formed and fits is stored at a free
index and answered with its states and edges; a set that no tracked request names is released. A refused command stores
nothing. -/
def Obligations.DrawAndStopStoresAnswered : Prop :=
  (∀ (s : State) (t : Time) (b : Sender), s.ringFree b.ctx.toNat →
      (∀ (prog : Nat) (image : BitVec 1024), s.serves b opLoadLogitProgram → ∃ u, exec (.loadLogitProgram t b prog image) s = .next u
        ∧ s.responds u b opLoadLogitProgram (s.programStatus prog image.toNat) [] []
        ∧ u.drw = (if s.programStatus prog image.toNat = stOk then
            { s.drw with programs := tput prog (programOf image.toNat) s.drw.programs } else s.drw)
        ∧ s.onlyChanges [.clk, .drw, .skim, .mbox, .ports] u)
      ∧ ∀ (list nent : Nat) (src : Option (List Byte)), s.serves b opLoadBiasList →
        ∃ u st, exec (.loadBiasList t b list nent src) s = .next u ∧ s.responds u b opLoadBiasList st [] []
          ∧ (st ≠ stOk → u.drw = s.drw ∧ st = if s.listBound list then stProgBusy else if 4095 < list ∨ 65536 < nent then stBiasFormat
              else match src with | none => stSource | some bs => if biasListOf nent bs = none then stBiasFormat else stBiasFull)
          ∧ (∀ bs l, src = some bs → biasListOf nent bs = some l → s.listBound list = false → list ≤ 4095 → nent ≤ 65536 →
              s.drw.otherEntries list + nent ≤ Config.biasEntries → st = stOk ∧ u.drw = { s.drw with bias := tput list l s.drw.bias })
          ∧ s.onlyChanges [.clk, .drw, .skim, .mbox, .ports] u)
    ∧
  (∀ (s : State) (t : Time) (b : Sender), s.ringFree b.ctx.toNat →
      (∀ (index len : Nat) (host : Bool) (src : Option (List Byte)), s.serves b opLoadStopSet →
        ∃ u st body, exec (.loadStopSet t b index host len src) s = .next u ∧ s.responds u b opLoadStopSet st body []
          ∧ (st ≠ stOk → u.skim.sets = s.skim.sets ∧ body = [] ∧ st = if 4095 < index then stStopIndex else if (tget index s.skim.sets).isSome then stStopBusy
              else match src with | none => stStopFormat | some bs => if stopSetOf len bs = none then stStopFormat else stStopFull)
          ∧ (∀ bs x, index ≤ 4095 → tget index s.skim.sets = none → src = some bs → stopSetOf len bs = some x → s.skim.roomFor x = true →
              st = stOk ∧ u.skim.sets = tput index x s.skim.sets ∧ body = leBytes 4 x.states ++ leBytes 4 x.edges)
          ∧ s.onlyChanges [.clk, .skim, .mbox, .regs, .log, .ports] u)
      ∧ ∀ index : Nat, s.serves b opReleaseStopSet → ∃ u, exec (.releaseStopSet t b index) s = .next u
          ∧ (if tget index s.skim.sets = none then s.responds u b opReleaseStopSet stStopIndex [] [] ∧ u.skim.sets = s.skim.sets
            else if s.reqs.table.any (fun p => p.2.out.stop == some index) then
              s.responds u b opReleaseStopSet stStopBusy [] [] ∧ u.skim.sets = s.skim.sets
            else s.responds u b opReleaseStopSet stOk [] [] ∧ u.skim.sets = tdel index s.skim.sets)
          ∧ s.onlyChanges [.clk, .skim, .mbox, .ports] u)

/-- LOAD_VOCAB, RELEASE_VOCAB and SET_VOCAB_PARTITION (R244, R245, R259, R260): an image that passes the checks of Table
11-7 is bound to a free index under the next load generation and answered with its identity; an index that nothing is bound
to is released; masks that are not 0 and do not overlap take effect. A refused command changes nothing in churn. -/
def Obligations.VocabCommandsAnswered : Prop :=
  ∀ (s : State) (t : Time) (b : Sender), s.ringFree b.ctx.toNat →
    (∀ (vidx len : Nat) (addr : BitVec 64) (src : Option (List Byte)), s.serves b opLoadVocab →
      ∃ u st body, exec (.loadVocab t b vidx len addr src) s = .next u ∧ s.responds u b opLoadVocab st body []
        ∧ (st ≠ stOk → u.churn = s.churn ∧ body = [] ∧ (63 < vidx → st = stVocabIndex)
          ∧ (vidx ≤ 63 → s.churn.loading.contains vidx = true ∨ (tget vidx s.churn.vocabs).isSome = true → st = stVocabBusy)
          ∧ ∀ e, vidx ≤ 63 → s.churn.loading.contains vidx = false → tget vidx s.churn.vocabs = none →
            checkVocab addr len src s.churn.pinnedTotal = .error e → st = e)
        ∧ (∀ v, vidx ≤ 63 → s.churn.loading.contains vidx = false → tget vidx s.churn.vocabs = none →
            checkVocab addr len src s.churn.pinnedTotal = .ok v →
            st = stOk ∧ u.churn = s.churn.bindVocab vidx v
              ∧ body = leBytes 8 v.vocabId.toNat ++ leBytes 4 (vocabLen v) ++ leBytes 4 v.pinned
                ++ leBytes 4 ((tget vidx (s.churn.bindVocab vidx v).gens).getD 0) ++ leBytes 4 0)
        ∧ s.onlyChanges [.clk, .churn, .skim, .mbox, .ports] u)
    ∧ (∀ vidx : Nat, s.serves b opReleaseVocab → ∃ u, exec (.releaseVocab t b vidx) s = .next u
        ∧ (match s.boundVocab vidx with
          | none => s.responds u b opReleaseVocab stVocabIndex [] [] ∧ u.churn = s.churn
          | some v => if s.vocabHeld vidx v then s.responds u b opReleaseVocab stVocabBusy [] [] ∧ u.churn = s.churn
              else s.responds u b opReleaseVocab stOk [] [] ∧ u.churn.vocabs = tdel vidx (s.churn.dropVocab vidx).vocabs)
        ∧ s.onlyChanges [.clk, .churn, .skim, .mbox, .ports] u)
    ∧ ∀ (lock : Bool) (masks : List (BitVec 16)) (map : List Nat), s.serves b opSetVocabPartition →
      ∃ u, exec (.setVocabPartition t b lock masks map) s = .next u
        ∧ (let ms := ((List.range 16).filter (fun p => map.contains p)).map (fun p => masks.getD p 0)
           if ms.all (fun m => m != 0#16) = true ∧ disjointMasks ms = true then
             s.responds u b opSetVocabPartition stOk [] [] ∧ u.churn = { s.churn with masks := masks, map := map, lock := lock }
           else s.responds u b opSetVocabPartition stVocabPart [] [] ∧ u.churn = s.churn)
        ∧ s.onlyChanges [.clk, .churn, .skim, .mbox, .ports] u

/-- LOAD_GRAMMAR and RELEASE_GRAMMAR (R189, R190, R228): an image that passes the checks of Table 10-8 is bound to the free
index of its handle; a handle that no request binds is released, and what is cached under it goes. A refused command
changes nothing in rennet. -/
def Obligations.GrammarCommandsAnswered : Prop :=
  ∀ (s : State) (t : Time) (b : Sender), s.ringFree b.ctx.toNat →
    (∀ (handle : Handle) (len : Nat) (addr : BitVec 64) (src : Option (List Byte)), s.serves b opLoadGrammar →
      ∃ u st body, exec (.loadGrammar t b handle len addr src) s = .next u ∧ s.responds u b opLoadGrammar st body []
        ∧ (st ≠ stOk → u.ren = s.ren ∧ body = [] ∧ (4095 < handle.toNat % 65536 → st = stGramHandle)
          ∧ (handle.toNat % 65536 ≤ 4095 → s.ren.loading.contains (handle.toNat % 65536) = true ∨ (tget (handle.toNat % 65536) s.ren.images).isSome = true → st = stGramBusy)
          ∧ ∀ e, handle.toNat % 65536 ≤ 4095 → s.ren.loading.contains (handle.toNat % 65536) = false → tget (handle.toNat % 65536) s.ren.images = none →
            checkGrammar handle addr len src s.vocabLoaded s.ren.pinnedPages = .error e → st = e)
        ∧ (∀ g, handle.toNat % 65536 ≤ 4095 → s.ren.loading.contains (handle.toNat % 65536) = false →
            tget (handle.toNat % 65536) s.ren.images = none → checkGrammar handle addr len src s.vocabLoaded s.ren.pinnedPages = .ok g →
            st = stOk
              ∧ u.ren = Rennet.makeRoom s.ren.chunks.length
                  { s.ren with images := tput (handle.toNat % 65536) g s.ren.images, tune := tput (handle.toNat % 65536) {} s.ren.tune }
              ∧ body = leBytes 4 g.states.length ++ leBytes 4 g.keys.length ++ leBytes 4 g.pinned ++ leBytes 4 0)
        ∧ s.onlyChanges [.clk, .ren, .skim, .mbox, .ports] u)
    ∧ ∀ handle : Handle, s.serves b opReleaseGrammar → ∃ u, exec (.releaseGrammar t b handle) s = .next u
        ∧ (if s.ren.loading.contains (handle.toNat % 65536) ∨ (s.grammarOf handle).isNone then
            s.responds u b opReleaseGrammar stGramHandle [] [] ∧ u.ren = s.ren
          else if s.reqs.table.any (fun p => p.2.bindsGrammar handle) then s.responds u b opReleaseGrammar stGramBusy [] [] ∧ u.ren = s.ren
          else s.responds u b opReleaseGrammar stOk [] [] ∧ u.ren.images = tdel (handle.toNat % 65536) s.ren.images
            ∧ u.ren.states = s.ren.states.filter (fun c => !(c.gidx == handle.toNat % 65536 && c.gver == handle.toNat / 65536))
            ∧ u.ren.chunks = s.ren.chunks.filter (fun c => !(c.gidx == handle.toNat % 65536 && c.gver == handle.toNat / 65536)))
        ∧ s.onlyChanges [.clk, .ren, .skim, .mbox, .ports] u

/-- IDENTIFY, READ_BOOT_REPORT and READ_LOG (R406, Tables 14-6 and 14-10), at READY and in skim mode: answered with the
identity, the boot report, or the entries in range copied to host memory before the response; an empty or out-of-range
request is refused. Nothing but the ring changes.

SKIM MODE (R348): a mailbox command of an ATTACHED context other than the five is refused with ST_SKIM and does
nothing. -/
def Obligations.ReportsAndSkimRefusals : Prop :=
  (∀ (s : State) (t : Time) (b : Sender), s.ringFree b.ctx.toNat →
      ((s.serves b opIdentify ∨ s.skimAnswers b) → ∃ u, exec (.identify t b) s = .next u
        ∧ s.responds u b opIdentify stOk (s.at t).identity [] ∧ s.onlyChanges [.clk, .skim, .mbox, .ports] u)
      ∧ ((s.serves b opReadBootReport ∨ s.skimAnswers b) → ∃ u, exec (.readBootReport t b) s = .next u
        ∧ s.responds u b opReadBootReport stOk s.boot.report [] ∧ s.onlyChanges [.clk, .skim, .mbox, .ports] u)
      ∧ ∀ (dest : BitVec 64) (first count : Word), (s.serves b opReadLog ∨ s.skimAnswers b) →
        ∃ u, exec (.readLog t b dest first count) s = .next u
        ∧ (let d := (first.toNat + 2 ^ 32 - s.log.oldest) % 2 ^ 32
           if d ≤ s.log.entries.length ∧ dest.toNat % 32 = 0 ∧ 1 ≤ count.toNat ∧ count.toNat ≤ 32768 then
             let es := (s.log.entries.drop d).take count.toNat
             s.responds u b opReadLog stOk (leBytes 4 s.log.oldest ++ leBytes 4 s.log.next ++ leBytes 4 es.length)
               (if es = [] then [] else [(dest, es.flatMap LogEntry.bytes)])
           else s.responds u b opReadLog stLogRange [] [])
        ∧ s.onlyChanges [.clk, .skim, .mbox, .ports] u)
    ∧
  (∀ (s : State) (c : Instr) (b : Sender) (op : Nat), mailOf c = some (b, op) → opSkim op = false → s.skimAnswers b →
      s.ringFree b.ctx.toNat → ∃ u, exec c s = .next u ∧ s.responds u b op stSkim [] [] ∧ s.onlyChanges [.clk, .skim, .mbox, .ports] u)

/-- ATTACH (R348, R355) at READY or in skim mode: in a DETACHED context, with flags and a ring in range and no command of an
earlier attachment, the context becomes ATTACHED and the response is entry 0 of the new ring; a refused one writes nothing and
shows its status, ST_SKIM for a context other than 0 in skim mode. In an ATTACHED context it is answered with ST_CTX_ATTACHED. -/
def Obligations.AttachAnswered : Prop :=
  ∀ (s : State) (t : Time) (b : Sender) (ring cidx : BitVec 64) (log2r flags : Byte),
    (s.duty (opRole opAttach) = true ∨ s.skimServes = true) → b.ctx.toNat < s.mbox.ctxs.length →
    s.mbox.detaches.all (fun d => d.ctx.toNat != b.ctx.toNat) = true →
    let x := s.ctx b.ctx.toNat
    let st := if 8 ≤ flags.toNat then stCmdReserved else if x.attached = true then stCtxAttached
      else if ¬ (4 ≤ log2r.toNat ∧ log2r.toNat ≤ 12 ∧ ring.toNat % min (256 * 2 ^ log2r.toNat) 4096 = 0 ∧ cidx.toNat % 8 = 0) then stCtxRing
      else if s.skimMode = true ∧ b.ctx ≠ 0 then stSkim else if x.busy then stCtxBusy else stOk
    ∃ u, exec (.attach t b ring cidx log2r flags) s = .next u
      ∧ (if x.attached = true then s.ringFree b.ctx.toNat → s.responds u b opAttach st [] []
        else if st ≠ stOk then u.ports = s.ports ∧ (u.ctx b.ctx.toNat).attached = false ∧ (u.ctx b.ctx.toNat).lastRefusal = st
        else
          u.ports.host = s.ports.host ++ [(ring, ringBytes b.ctx.toNat 0 log2r.toNat ⟨1, opAttach, stOk, b.tag, x.ladlesOf b.tag opAttach, [], false⟩)]
            ∧ u.ctx b.ctx.toNat = { x.attach ring cidx log2r.toNat flags.toNat with
                p := 1, cmds := dropFirst (fun k => k.isFor b.tag opAttach) x.cmds })
      ∧ s.onlyChanges [.clk, .skim, .mbox, .ports] u

/-- DETACH (R356): naming a DETACHED context is refused; naming another one detaches it at once and answers the issuer;
naming its own, with every earlier command answered, the response is the ring's last entry and the context is DETACHED with
what it had not started dropped and counted. -/
def Obligations.DetachAnswered : Prop :=
  ∀ (s : State) (t : Time) (b : Sender) (c : BitVec 8), s.ringFree b.ctx.toNat → (s.serves b opDetach ∨ s.skimAnswers b) →
    ∃ u, exec (.detach t b c) s = .next u
      ∧ (if (s.ctx c.toNat).attached = false then s.responds u b opDetach stCtxNone [] []
        else if c ≠ b.ctx then
          s.responds u b opDetach stOk [] [] ∧ (u.ctx c.toNat).attached = false ∧ (u.ctx c.toNat).waiting = []
            ∧ (u.ctx c.toNat).cmds = (s.ctx c.toNat).cmds
        else if (s.ctx c.toNat).earlier b.tag opDetach = [] then
          u.ports.host = s.ports.host ++ [s.responseWrite b opDetach stOk []] ∧ (u.ctx c.toNat).attached = false ∧ (u.ctx c.toNat).cmds = []
            ∧ (u.ctx c.toNat).dropped =
              sat 0xFFFF ((s.ctx c.toNat).dropped + (dropFirst (fun k => k.isFor b.tag opDetach) (s.ctx c.toNat).cmds).length)
        else u.ports = s.ports ∧ (u.ctx c.toNat).attached = true ∧ u.mbox.detaches = s.mbox.detaches ++ [b])
      ∧ s.onlyChanges [.clk, .skim, .mbox, .ports] u

/-- CANCEL_REQUEST, READ_REQUEST, SET_GRAMMAR and POST_DRAFTS (R167, R192, R300, R313, R327, R419) on a handle that names no
tracked request are refused with ST_REQ_HANDLE. On a tracked one its record is used (R300, R302), and: a SLOTTED request is
cancelled at its next commit, one in any other state but ENDING ends its output at once; its telemetry is written before
the response; a grammar switch waits for its next entry; a posted set replaces the one before. -/
def Obligations.RequestCommandsAnswered : Prop :=
  ∀ (s : State) (t : Time) (b : Sender) (h : Handle), s.ringFree b.ctx.toNat →
    (s.serves b opCancelRequest → ∃ u, exec (.cancelRequest t b h) s = .next u
      ∧ (match s.findReq h with
        | none => s.responds u b opCancelRequest stReqHandle [] [] ∧ u.reqs = s.reqs
        | some r =>
          if r.st = .ending then s.responds u b opCancelRequest stReqEnding [] [] ∧ u.reqs = ((s.at t).useRecord h).reqs
          else if r.st = .slotted then s.responds u b opCancelRequest stOk [] []
            ∧ u.reqs = (((s.at t).useRecord h).modReq h (fun r => { r with cancel := true })).reqs
          else u = (((s.at t).useRecord h).endOutput h endCancelled true).answer b opCancelRequest stOk [])
      ∧ s.onlyChanges [.clk, .shell, .str, .ren, .churn, .skim, .reqs, .stw, .mbox, .ports] u)
    ∧ (∀ dest : BitVec 64, s.serves b opReadRequest → ∃ u, exec (.readRequest t b h dest) s = .next u
      ∧ (match s.findReq h with
        | none => s.responds u b opReadRequest stReqHandle [] [] ∧ u.reqs = s.reqs
        | some r =>
          u.reqs = ((s.at t).useRecord h).reqs
            ∧ (if dest.toNat % 8 = 0 then s.responds u b opReadRequest stOk [BitVec.ofNat 8 r.st.code, 0, 0, 0] [(dest, (s.at t).telemetry r r.st.code)]
              else s.responds u b opReadRequest stReqParam [] []))
      ∧ s.onlyChanges [.clk, .skim, .reqs, .mbox, .ports] u)
    ∧ (∀ handle start : Word, s.serves b opSetGrammar → ∃ u, exec (.setGrammar t b h handle start) s = .next u
      ∧ (match s.findReq h with
        | none => s.responds u b opSetGrammar stReqHandle [] [] ∧ u.reqs = s.reqs
        | some r =>
          if r.st = .ending then s.responds u b opSetGrammar stReqEnding [] [] ∧ u.reqs = ((s.at t).useRecord h).reqs
          else if s.grammarStatus handle start (s.reqVocab r) r.sampling.follow = stOk then
            s.responds u b opSetGrammar stOk [] []
              ∧ u.reqs = (((s.at t).useRecord h).modReq h (fun r =>
                  { r with switchTo := some (if handle = 0 then none else some (handle, s.startState handle start)) })).reqs
          else s.responds u b opSetGrammar (s.grammarStatus handle start (s.reqVocab r) r.sampling.follow) [] []
            ∧ u.reqs = ((s.at t).useRecord h).reqs)
      ∧ s.onlyChanges [.clk, .skim, .reqs, .mbox, .ports] u)
    ∧ (∀ (pos0 : Word) (count : Nat) (tokens : List Word), draftWordsClear count tokens = false → s.serves b opPostDrafts →
      ∃ u, exec (.postDrafts t b h pos0 count tokens) s = .next u ∧ s.responds u b opPostDrafts stCmdReserved [] []
        ∧ s.onlyChanges [.clk, .skim, .mbox, .ports] u)
    ∧ ∀ (pos0 : Word) (count : Nat) (tokens : List Word), draftWordsClear count tokens = true → s.serves b opPostDrafts →
      ∃ u, exec (.postDrafts t b h pos0 count tokens) s = .next u
      ∧ (match s.findReq h with
        | none => s.responds u b opPostDrafts stReqHandle [] [] ∧ u.reqs = s.reqs
        | some r =>
          if r.st = .ending then s.responds u b opPostDrafts stReqEnding [] [] ∧ u.reqs = ((s.at t).useRecord h).reqs
          else if r.spec.src ≠ 2 ∧ r.spec.src ≠ 3 then s.responds u b opPostDrafts stDraftReq [] [] ∧ u.reqs = ((s.at t).useRecord h).reqs
          else if 1 ≤ count ∧ count ≤ 8 ∧ count ≤ tokens.length
              ∧ (tokens.take count).all (draftOk (match s.reqVocab r with | some v => vocabLen v | none => 0)) = true then
            s.responds u b opPostDrafts stOk [] []
              ∧ u.reqs = (((s.at t).useRecord h).modReq h (fun r =>
                  { r with posted := some (pos0.toNat, (tokens.take count).map (fun w => BitVec.ofNat 24 w.toNat)) })).reqs
          else s.responds u b opPostDrafts stDraftFormat [] [] ∧ u.reqs = ((s.at t).useRecord h).reqs)
      ∧ s.onlyChanges [.clk, .skim, .reqs, .mbox, .ports] u

/-- ADMIT_REQUEST (R299, R305, Table 13-3) is refused whole at the first failing check. An admitted request takes the lowest
free index under the index's next generation, is tracked with the customer, allowance and grammar that its records name,
and its handle is answered. -/
def Obligations.AdmitRequestAnswered : Prop :=
  ∀ (s : State) (t : Time) (b : Sender) (service : BitVec 256) (sampling : BitVec 512) (speculation : BitVec 128) (grammar start : Word)
    (options output pass : BitVec 256) (src : Option (List Byte)), s.ringFree b.ctx.toNat → s.serves b opAdmitRequest →
    ∃ u, exec (.admitRequest t b service sampling speculation grammar start options output pass src) s = .next u
      ∧ (match s.admitCheck service.toNat sampling.toNat speculation.toNat options.toNat output.toNat grammar start src with
        | .error e => s.responds u b opAdmitRequest e [] [] ∧ u.reqs = s.reqs ∧ u.stw = s.stw
        | .ok a =>
          let i := lowestFree s.reqs.table 0
          let gen := nextGen ((tget i s.reqs.gens).getD 0)
          let h : Handle := BitVec.ofNat 32 (gen * 65536 + i)
          s.responds u b opAdmitRequest stOk (leBytes 4 h.toNat) [] ∧ tget i u.reqs.gens = some gen
            ∧ u.stw = (match a with | some v => s.stw.bind v | none => s.stw)
            ∧ ∃ r, tget i u.reqs.table = some r ∧ r.handle = h ∧ r.customer = (serviceOf service.toNat).customer
                ∧ r.maxOut = (serviceOf service.toNat).maxOut ∧ r.maxPos = (serviceOf service.toNat).maxPos
                ∧ r.grammar = (if grammar = 0 then none else some grammar) ∧ r.slot = none ∧ r.outToks = [])
      ∧ s.onlyChanges [.clk, .skim, .reqs, .stw, .mbox, .ports] u

/-- ENCODE_OPEN, APPEND_INPUT and ENCODE_CLOSE (R233 to R235, R239, R257, R359): a job takes the lowest free context and is
answered with its handle; a buffer of a job, or of a request, whose record is then used and whose first buffer opens its stream,
joins its stream's queue and is not answered yet, churn schedules its lanes anew, or is refused with the status of R235 and
R257; closing a job charges it, answers its waiting buffers, frees its context and returns its counters. -/
def Obligations.StreamCommandsAnswered : Prop :=
  ∀ (s : State) (t : Time) (b : Sender), s.ringFree b.ctx.toNat →
    (∀ (customer : Nat) (options : BitVec 256), s.serves b opEncodeOpen → ∃ u, exec (.encodeOpen t b customer options) s = .next u
      ∧ (let i := lowestFree s.churn.streams 0
         if s.optionsStatus options.toNat ≠ stOk then s.responds u b opEncodeOpen (s.optionsStatus options.toNat) [] [] ∧ u.churn = s.churn
         else if tget customer s.rat.customers = none then s.responds u b opEncodeOpen stCustUnknown [] [] ∧ u.churn = s.churn
         else if Config.streamContexts ≤ i then s.responds u b opEncodeOpen stEncStreams [] [] ∧ u.churn = s.churn
         else
           let gen := nextGen ((tget i s.churn.jobGens).getD 0)
           s.responds u b opEncodeOpen stOk (leBytes 4 (gen * 65536 + i)) []
             ∧ tget i u.churn.streams = some { job := some (gen, customer), opts := optionsOf options.toNat }
             ∧ tget i u.churn.jobGens = some gen)
      ∧ s.onlyChanges [.clk, .churn, .skim, .mbox, .ports] u)
    ∧ (∀ (h : Handle) (flags : Byte) (addr : BitVec 64) (len : Word) (src : Option (List Byte)), s.serves b opAppendInput →
      let d := if 16 ≤ flags.toNat ∨ bit flags.toNat 0 = true then s.at t else (s.at t).useRecord h
      let refused := fun (st : Nat) => exec (.appendInput t b h flags addr len src) s
        = .next (d.answerFirst b (fun k => k.isFor b.tag opAppendInput && !k.accepted) opAppendInput st [])
      (16 ≤ flags.toNat → refused stCmdReserved)
      ∧ (flags.toNat < 16 →
        (∀ st, d.target h (bit flags.toNat 0) = .refused st → refused st)
        ∧ (∀ r, d.target h (bit flags.toNat 0) = .first r → Config.streamContexts ≤ lowestFree s.churn.streams 0 → refused stEncStreams)
        ∧ (∀ i x, d.target h (bit flags.toNat 0) = .stream i → tget i s.churn.streams = some x → x.ended = true → refused stEncStream)
        ∧ (∀ i x, d.target h (bit flags.toNat 0) = .stream i → tget i s.churn.streams = some x → x.ended = false → 16 ≤ x.queue.length → refused stEncQueue)
        ∧ ∀ i x all, (d.target h (bit flags.toNat 0) = .stream i ∧ tget i s.churn.streams = some x ∧ x.ended = false ∧ x.queue.length < 16 ∧ all = s.churn.streams)
            ∨ (∃ r, d.target h (bit flags.toNat 0) = .first r ∧ i = lowestFree s.churn.streams 0 ∧ i < Config.streamContexts
                ∧ x = { job := none, req := h, opts := r.opts } ∧ all = tput i x s.churn.streams) →
          let ids := bit flags.toNat 1
          (lengthOk ids (bit flags.toNat 2) len.toNat = false → refused stEncInput)
          ∧ (lengthOk ids (bit flags.toNat 2) len.toNat = true → ids = true → src = none → refused stSource)
          ∧ (∀ bs, lengthOk ids (bit flags.toNat 2) len.toNat = true → ids = true → src = some bs → idsOf (s.streamVocab x) (slice bs 0 len.toNat) = none →
            refused stEncInput)
          ∧ ∀ l, lengthOk ids (bit flags.toNat 2) len.toNat = true →
            (ids = false ∧ l = none ∨ ids = true ∧ l.isSome = true ∧ ∃ bs, src = some bs ∧ idsOf (s.streamVocab x) (slice bs 0 len.toNat) = l) →
            ∃ u, exec (.appendInput t b h flags addr len src) s = .next u ∧ u.ports = d.ports ∧ u.reqs = d.reqs
            ∧ u.churn = Churn.schedule { s.churn with streams := tmod i (fun x =>
                { x with queue := x.queue ++ [{ ids := l, ended := bit flags.toNat 2, host := bit flags.toNat 3, addr := addr, len := len.toNat, by_ := b }],
                         ended := x.ended || bit flags.toNat 2 }) all } (max s.clk.eng t.eng)
            ∧ s.onlyChanges [.clk, .churn, .skim, .reqs, .mbox, .ports] u))
    ∧ ∀ (job : Handle), s.serves b opEncodeClose → ∃ u, exec (.encodeClose t b job) s = .next u
      ∧ (match s.jobOf job with
        | none => s.responds u b opEncodeClose stEncStream [] [] ∧ u.churn = s.churn
        | some i => ∀ x gen cust, tget i s.churn.streams = some x → x.job = some (gen, cust) →
            u = (((((s.at t).chargeJob i x cust).answerBuffers i stEncStream).freeStream i).schedule).answer b opEncodeClose stOk (x.body true)
              ∧ u.rat = ((s.at t).chargeJob i x cust).rat)
      ∧ s.onlyChanges [.clk, .churn, .skim, .reqs, .rat, .mbox, .ports] u

/-- BANK POWER (R58, R60, R398): the acknowledge of a bank rises; a GOING_ON bank with its acknowledge ends its
initialisation ON with every byte of its rows 0, every tag 0 and their check and parity bits 0, and a power-down asked meanwhile then takes effect; a
GOING_OFF bank that has completed its accesses drops its request; its falling acknowledge then takes it OFF, where a
power-up asked meanwhile takes effect, and an acknowledge that falls while a bank is ON takes it OFF at once, is logged,
and firmware asks for the bank again. No other unit and no other byte changes.

STRAINER POWER (R110, R394, R398): as a bank's, but that nothing is zeroed in the vat, and that an ON strainer asked
down enters GOING_OFF and drops its request only once no row in progress or retained holds it; when its acknowledge falls
while it is ON its rows in progress end.

ACK_TIMEOUT (R398), 20 µs of AON time after the request changed: a unit whose acknowledge has not risen drops its
request and is OFF, no longer asked ON; one whose acknowledge has not fallen counts as OFF, and a later power-up waits for
the fall. Both are logged. Before that time nothing happens. -/
def Obligations.UnitPowerCycles : Prop :=
  (∀ (s : State) (t : Time) (b : BitVec 6), s.counted → s.canonical = true →
      (∃ u, exec (.bankAckRise t b) s = .next u ∧ u.unit b.toNat = { s.unit b.toNat with ack := true }
        ∧ (∀ j, j ≠ b.toNat → u.unit j = s.unit j) ∧ s.onlyChanges [.clk, .vat, .str] u)
      ∧ ((s.unit b.toNat).st = .goingOn → (s.unit b.toNat).ack = true → ∃ u, exec (.bankInitDone t b) s = .next u
        ∧ u.unit b.toNat = (s.unit b.toNat).marked (max s.clk.ctl t.ctl) (if (s.unit b.toNat).later = some false then
            { s.unit b.toNat with st := .goingOff, want := false, later := none, release := false }
          else { s.unit b.toNat with st := .on, later := none, release := false })
        ∧ (∀ a, Memory.read a u.vat.mem = if a / 262144 = b.toNat then 0 else Memory.read a s.vat.mem)
        ∧ (∀ r, u.vat.tag r = if r / 2048 = b.toNat then 0 else s.vat.tag r)
        ∧ (∀ a, Memory.read a u.vat.checks = if a / 32768 = b.toNat then 0 else Memory.read a s.vat.checks)
        ∧ (∀ r, Memory.read r u.vat.parity = if r / 2048 = b.toNat then 0 else Memory.read r s.vat.parity)
        ∧ (∀ j, j ≠ b.toNat → u.unit j = s.unit j) ∧ s.onlyChanges [.clk, .vat, .vatMem, .str, .skim, .mbox, .ports] u)
      ∧ ((s.unit b.toNat).st = .goingOff → (s.unit b.toNat).req = true → ∃ u, exec (.bankDrainDone t b) s = .next u
        ∧ u.unit b.toNat = { s.unit b.toNat with req := false, since := max s.now t.aon }
        ∧ (∀ j, j ≠ b.toNat → u.unit j = s.unit j) ∧ s.onlyChanges [.clk, .vat, .str] u)
      ∧ ((s.unit b.toNat).ack = true → (s.unit b.toNat).st = .goingOff → (s.unit b.toNat).req = false →
        ∃ u, exec (.bankAckFall t b) s = .next u
        ∧ u.unit b.toNat = (s.unit b.toNat).marked (max s.clk.ctl t.ctl) (({ s.unit b.toNat with ack := false } : PowerUnit).toOff (max s.now t.aon))
        ∧ ((s.unit b.toNat).later = none → (u.unit b.toNat).st = .off)
        ∧ (∀ j, j ≠ b.toNat → u.unit j = s.unit j) ∧ s.onlyChanges [.clk, .shell, .vat, .str, .ren, .skim, .coll, .reqs, .mbox, .regs, .log, .ports] u)
      ∧ ((s.unit b.toNat).ack = true → (s.unit b.toNat).st = .on → ∃ u, exec (.bankAckFall t b) s = .next u
        ∧ (u.unit b.toNat).ack = false
        ∧ (u.unit b.toNat).st = (if (s.fw && (s.unit b.toNat).want) = true then .goingOn else .off)
        ∧ u.log = (s.at t |>.logErr errAckFell none b.toNat 0 0).log
        ∧ (∀ j, j ≠ b.toNat → u.unit j = s.unit j) ∧ s.onlyChanges [.clk, .shell, .vat, .str, .ren, .skim, .coll, .reqs, .mbox, .regs, .log, .ports] u))
    ∧
  (∀ (s : State) (t : Time) (i : BitVec 4), s.counted →
      (∃ u, exec (.strainerAckRise t i) s = .next u ∧ u.unit (64 + i.toNat) = { s.unit (64 + i.toNat) with ack := true }
        ∧ (∀ j, j ≠ 64 + i.toNat → u.unit j = s.unit j) ∧ s.onlyChanges [.clk, .vat, .str] u)
      ∧ ((s.unit (64 + i.toNat)).st = .goingOn → (s.unit (64 + i.toNat)).ack = true → ∃ u, exec (.strainerInitDone t i) s = .next u
        ∧ u.unit (64 + i.toNat) = (s.unit (64 + i.toNat)).marked (max s.clk.ctl t.ctl) (if (s.unit (64 + i.toNat)).later = some false then
            { s.unit (64 + i.toNat) with st := .on, want := false, later := none, release := true }
          else { s.unit (64 + i.toNat) with st := .on, later := none, release := false })
        ∧ u.vat = s.vat
        ∧ (∀ j, j ≠ 64 + i.toNat → u.unit j = s.unit j) ∧ s.onlyChanges [.clk, .vat, .vatMem, .str, .skim, .mbox, .ports] u)
      ∧ ((s.unit (64 + i.toNat)).st = .on → (s.unit (64 + i.toNat)).release = true → ∃ u, exec (.strainerReleased t i) s = .next u
        ∧ u.unit (64 + i.toNat) = (if s.strainerHolds i.toNat = true then s.unit (64 + i.toNat)
          else (s.unit (64 + i.toNat)).marked (max s.clk.ctl t.ctl) { s.unit (64 + i.toNat) with st := .goingOff, req := false, release := false, since := max s.now t.aon })
        ∧ (∀ j, j ≠ 64 + i.toNat → u.unit j = s.unit j) ∧ s.onlyChanges [.clk, .vat, .str] u)
      ∧ ((s.unit (64 + i.toNat)).ack = true → (s.unit (64 + i.toNat)).st = .goingOff → (s.unit (64 + i.toNat)).req = false →
        ∃ u, exec (.strainerAckFall t i) s = .next u
        ∧ u.unit (64 + i.toNat) = (s.unit (64 + i.toNat)).marked (max s.clk.ctl t.ctl) (({ s.unit (64 + i.toNat) with ack := false } : PowerUnit).toOff (max s.now t.aon))
        ∧ (∀ j, j ≠ 64 + i.toNat → u.unit j = s.unit j) ∧ s.onlyChanges [.clk, .shell, .vat, .str, .ren, .skim, .coll, .reqs, .mbox, .regs, .log, .ports] u)
      ∧ ((s.unit (64 + i.toNat)).ack = true → (s.unit (64 + i.toNat)).st = .on → ∃ u, exec (.strainerAckFall t i) s = .next u
        ∧ (u.unit (64 + i.toNat)).ack = false
        ∧ (u.unit (64 + i.toNat)).st = (if (s.fw && (s.unit (64 + i.toNat)).want) = true then .goingOn else .off)
        ∧ u.strainerHolds i.toNat = false
        ∧ (∀ j, j ≠ 64 + i.toNat → u.unit j = s.unit j)
        ∧ s.onlyChanges [.clk, .shell, .vat, .str, .ren, .skim, .coll, .reqs, .mbox, .regs, .log, .ports] u))
    ∧
  (∀ (s : State) (t : Time) (n : Nat), s.counted → n < 80 →
      ∃ u, exec (.ackTimeout t n) s = .next u
        ∧ (if max s.now t.aon < (s.unit n).since + 2000 then u = s.at t
          else if (s.unit n).st = .goingOn ∧ (s.unit n).req = true ∧ (s.unit n).ack = false then
            u.unit n = (s.unit n).marked (max s.clk.ctl t.ctl) { s.unit n with st := .off, req := false, want := false, later := none }
              ∧ u.log = ((s.at t).logErr errAckTimeout none n 1 0).log
          else if (s.unit n).st = .goingOff ∧ (s.unit n).req = false ∧ (s.unit n).ack = true then
            u.unit n = (s.unit n).marked (max s.clk.ctl t.ctl) { s.unit n with st := .off, stuck := true } ∧ u.log = ((s.at t).logErr errAckTimeout none n 2 0).log
          else u = s.at t)
        ∧ (∀ j, j ≠ n → u.unit j = s.unit j) ∧ s.onlyChanges [.clk, .vat, .str, .skim, .mbox, .regs, .log, .ports] u)

/-- POWER REQUESTS (R59, R377 to R379, R396, R397): a register write or SET_POWER that meets no refusal asks each named unit
up or down where that changes what was asked of it; one refused changes no unit and shows ST_VAT_BANK_BUSY or ST_STR_LAST.
A register write before READY or in a halt is dropped with ACCESS. A register write and a SET_POWER of one CTL cycle, in
whose context no DETACH waits, leave the units, the status and the log as the SET_POWER first and the write after it would,
whichever the block met first. -/
def Obligations.PowerRequestsApplied : Prop :=
  ∀ (s : State) (t : Time), s.counted →
    (∀ (c : Instr) (ask : List (Nat × Bool)), (∃ half value, c = .vatPwr t half value ∧ ask = vatPwrAsk half value) ∨ (∃ value, c = .strPwr t value ∧ ask = strPwrAsk value) →
      s.inRst 4 = false →
      (s.boot.stage = 8 → s.boot.halt = false → ∃ u, exec c s = .next u
        ∧ (let ask := ask.filter (fun p => !s.unitAbsent p.1)
           match s.powerRefusal ask with
           | some r => (∀ j, u.unit j = s.unit j) ∧ u.regs.pwrStatus = r.2 ∧ (r.2 = stVatBankBusy ∨ r.2 = stStrLast)
           | none => s.powerAsked u (max s.clk.ctl t.ctl) (max s.now t.aon) ask ∧ u.regs.pwrStatus = 0)
        ∧ s.onlyChanges [.clk, .vat, .str, .skim, .mbox, .regs, .log, .ports] u)
      ∧ (s.boot.stage ≠ 8 ∨ s.boot.halt = true → ∃ u, exec c s = .next u ∧ bit u.regs.errStatus.toNat 5 = true ∧ u.regs.pwrStatus = s.regs.pwrStatus
        ∧ s.onlyChanges [.clk, .regs, .log] u)
      ∧ ∀ (b : Sender) (banks : BitVec 64) (strainers : BitVec 16), s.serves b opSetPower →
        s.mbox.detaches.all (fun d => d.ctx.toNat != b.ctx.toNat) = true → (∀ x, s.clk.power = some x → x.ctl ≠ max s.clk.ctl t.ctl) →
        ∃ u1 u2 v1 v2, exec c s = .next u1 ∧ exec (.setPower t b banks strainers) u1 = .next u2
          ∧ exec (.setPower t b banks strainers) s = .next v1 ∧ exec c v1 = .next v2
          ∧ (∀ j, u2.unit j = v2.unit j) ∧ u2.regs.pwrStatus = v2.regs.pwrStatus ∧ u2.log = v2.log)
    ∧ ∀ (b : Sender) (banks : BitVec 64) (strainers : BitVec 16), s.ringFree b.ctx.toNat → s.serves b opSetPower →
      (∀ x, s.clk.power = some x → x.ctl ≠ max s.clk.ctl t.ctl) →
      ∃ u, exec (.setPower t b banks strainers) s = .next u
      ∧ (match s.powerRefusal (s.asked banks strainers) with
        | some r => s.responds u b opSetPower r.2 [] [] ∧ (∀ j, u.unit j = s.unit j)
        | none => s.powerAsked u (max s.clk.ctl t.ctl) (max s.now t.aon) (s.asked banks strainers)
            ∧ ((s.asked banks strainers).all u.unitReached = false → (⟨b, banks, strainers⟩ : PowerWait) ∈ u.mbox.power)
            ∧ ((s.asked banks strainers).all u.unitReached = true → s.mbox.power = [] → s.responds u b opSetPower stOk u.powerBody []))
      ∧ s.onlyChanges [.clk, .vat, .str, .skim, .mbox, .ports] u

/-- GOOD ROWS (R45): a PRA names bank PRA[16:11] and its physical row PRA[10:0]. The good indices 0, 1, 2, … of a bank name, in
ascending physical order, exactly the rows of the bank that are not mapped out. -/
def Obligations.GoodIndexNumbersGoodRows : Prop :=
  ∀ (v : Vat) (bank : Nat), v.mapOut.Pairwise (· < ·) → bank ∉ v.dead →
    (∀ g, g < v.goodRows bank → v.pra bank g / 2048 = bank ∧ v.pra bank g ∉ v.mapOut)
    ∧ (∀ g h, g < h → v.pra bank g < v.pra bank h)
    ∧ ∀ p, p / 2048 = bank → p ∉ v.mapOut → ∃ g, g < v.goodRows bank ∧ v.pra bank g = p

/-- AREA ROWS (R46): below its capacity an area's rows lie in its own banks, and two of them never share a physical row. -/
def Obligations.AreaRowsDistinct : Prop :=
  ∀ (v : Vat) (first n a b : Nat), v.mapOut.Pairwise (· < ·) → 0 < n → a < v.capacity first n →
    first ≤ v.areaPra first n a / 2048 ∧ v.areaPra first n a / 2048 < first + n
      ∧ (b < v.capacity first n → v.areaPra first n a = v.areaPra first n b → a = b)

/-- INBOUND WRITES (R54 to R56, R60): a write that passes every check of Table 3-3 is answered with 0, puts its 64 bytes
in its half of the row of its window under check bits of each of its eight words, and raises that row's tag by 1 under its
parity bit (the codes themselves are free); one that fails a check is answered with the first
failure's code and counted, writes no byte, and moves no tag but one with bad parity, which reads 0 under good parity. Every
other byte, check byte, tag and parity bit stays. -/
def Obligations.InboundWriteDecided : Prop :=
  ∀ (s : State) (t : Time) (addr : BitVec 64) (data : BitVec 512) (tagBad : Bool), s.canonical = true → s.inRst 1 = false →
    ∃ u, exec (.inboundWrite t addr data tagBad) s = .next u
      ∧ u.ports.rxResp = s.vat.inboundResp addr tagBad
      ∧ (s.vat.inboundResp addr tagBad = 0 → ∃ pra, s.vat.windowPra (s.vat.window (inboundWindow addr)) (inboundOffset addr / 128) = some pra
          ∧ (∀ a, Memory.read a u.vat.mem =
              if pra * 128 + inboundOffset addr % 128 ≤ a ∧ a < pra * 128 + inboundOffset addr % 128 + 64 then
                (leBytes 64 data.toNat).getD (a - (pra * 128 + inboundOffset addr % 128)) 0
              else Memory.read a s.vat.mem)
          ∧ (∀ a, Memory.read a u.vat.checks =
              if pra * 16 + inboundOffset addr % 128 / 8 ≤ a ∧ a < pra * 16 + inboundOffset addr % 128 / 8 + 8 then
                checkOf (BitVec.ofNat 64 (data.toNat / 2 ^ (64 * (a - (pra * 16 + inboundOffset addr % 128 / 8)))))
              else Memory.read a s.vat.checks)
          ∧ (∀ r, u.vat.tag r = if r = pra then s.vat.tag r + 1 else s.vat.tag r)
          ∧ (∀ r, Memory.read r u.vat.parity = if r = pra then parityOf (s.vat.tag r + 1) else Memory.read r s.vat.parity) ∧ u.log = s.log)
      ∧ (s.vat.inboundResp addr tagBad ≠ 0 → u.vat.mem = s.vat.mem ∧ u.vat.checks = s.vat.checks
          ∧ (∀ r, u.vat.tag r = if s.vat.inboundResp addr tagBad = 3
                ∧ s.vat.windowPra (s.vat.window (inboundWindow addr)) (inboundOffset addr / 128) = some r then 0 else s.vat.tag r)
          ∧ (∀ r, Memory.read r u.vat.parity = if s.vat.inboundResp addr tagBad = 3
                ∧ s.vat.windowPra (s.vat.window (inboundWindow addr)) (inboundOffset addr / 128) = some r then 0 else Memory.read r s.vat.parity)
          ∧ (inboundWindow addr < s.vat.windows.length →
              (u.vat.window (inboundWindow addr)).rejects = (s.vat.window (inboundWindow addr)).rejects + 1))
      ∧ s.onlyChanges [.clk, .vat, .vatMem, .regs, .log, .ports] u

/-- SCRUB AND WRITE-BACK (R56, R62, R64, R65): a visit reads the next good row of an ON bank and moves on to the following
one; a correctable error there is counted against the row and queues its write-back, the fourth naming the row a repair
candidate; an uncorrectable one is logged once a step, and names the row a candidate the first time; a tag with bad parity is
logged once a step and rewritten as 0 (that it names no candidate is the model's choice, notes/assumptions/139.md). A write-back that finds its port free in time changes no byte and raises the row's tag; one that does not is
dropped and counted. -/
def Obligations.ScrubAndWriteBack : Prop :=
  ∀ (s : State) (t : Time), s.canonical = true →
    (∀ (bank : BitVec 6) (e : Ecc), s.vat.bankOn bank.toNat = true → 0 < s.vat.goodRows bank.toNat → bank.toNat < s.vat.scrub.length →
      ∃ u, exec (.scrubVisit t bank e) s = .next u
      ∧ u.vat.scrub.getD bank.toNat 0 = (s.vat.scrub.getD bank.toNat 0 % s.vat.goodRows bank.toNat + 1) % s.vat.goodRows bank.toNat
      ∧ u.vat.mem = s.vat.mem ∧ u.vat.checks = s.vat.checks
      ∧ (let pra := s.vat.pra bank.toNat (s.vat.scrub.getD bank.toNat 0 % s.vat.goodRows bank.toNat)
         match e with
         | .clean => u.vat.tags = s.vat.tags ∧ u.vat.writeBacks = s.vat.writeBacks ∧ u.log = s.log
         | .correctable => u.vat.tags = s.vat.tags ∧ tget pra u.vat.correctable = some ((tget pra s.vat.correctable).getD 0 + 1)
             ∧ (u.vat.waitingBack pra).isSome = true
             ∧ u.log = (if (tget pra s.vat.correctable).getD 0 = 3 then (s.at t |>.logErr errRepairCandidate none pra 2 0).log else s.log)
         | .uncorrectable => u.vat.tags = s.vat.tags ∧ u.vat.parity = s.vat.parity ∧ pra ∈ u.vat.uncorrectable ∧ pra ∈ u.vat.poisonLogged
             ∧ u.log = ((if s.vat.poisonLogged.contains pra then [] else [(⟨max s.now t.aon, errRowUe, none, BitVec.ofNat 32 pra,
                  BitVec.ofNat 32 (s.vat.areaOfPra pra), BitVec.ofNat 32 s.shell.step⟩ : LogReq)])
                ++ (if s.vat.uncorrectable.contains pra then [] else [(⟨max s.now t.aon, errRepairCandidate, none, BitVec.ofNat 32 pra, 1, 0⟩ : LogReq)])).foldl Log.ask s.log
         | .tagParity => (∀ r, u.vat.tag r = if r = pra then 0 else s.vat.tag r)
             ∧ (∀ r, Memory.read r u.vat.parity = if r = pra then 0 else Memory.read r s.vat.parity) ∧ pra ∈ u.vat.poisonLogged
             ∧ u.log = (if s.vat.poisonLogged.contains pra then s.log
                else ((s.at t).logErr errTagParity none pra (s.vat.areaOfPra pra) s.shell.step).log))
      ∧ s.onlyChanges [.clk, .vat, .vatMem, .regs, .log] u)
    ∧ (∀ (pra : BitVec 17) (since : Nat), s.vat.waitingBack pra.toNat = some since → max s.clk.eng t.eng ≤ since + 64 →
      s.vat.bankOn (pra.toNat / 2048) = true → ∃ u, exec (.writeBack t pra) s = .next u
      ∧ u.vat.mem = s.vat.mem ∧ u.vat.checks = s.vat.checks ∧ (∀ r, u.vat.tag r = if r = pra.toNat then s.vat.tag r + 1 else s.vat.tag r)
      ∧ (∀ r, Memory.read r u.vat.parity = if r = pra.toNat then parityOf (s.vat.tag r + 1) else Memory.read r s.vat.parity)
      ∧ u.vat.waitingBack pra.toNat = none ∧ u.vat.dropped = s.vat.dropped ∧ s.onlyChanges [.clk, .vat, .vatMem] u)
    ∧ ∀ (pra : BitVec 17) (since : Nat), s.vat.waitingBack pra.toNat = some since → since + 64 ≤ max s.clk.eng t.eng →
      ∃ u, exec (.writeBackDrop t pra) s = .next u
      ∧ u.vat.waitingBack pra.toNat = none ∧ u.vat.dropped = s.vat.dropped + 1 ∧ s.onlyChanges [.clk, .vat] u

/-- REGISTER READS (R9, R365, R366, R368, R375): a 4 B read at an aligned offset returns the register's value, 0 where none is
named, and out of reset clears what the register clears on read and nothing else: the drop counters at 0x028, FCHG at 0x030,
ERR_COUNT at 0x08C, a context's CTX_DROPS. A read of TS_LO returns the low half of the AON time and holds the high half in
TS_HI. An 8 B read of BANKS_OK, VAT_PWR, ERR_TIME or TS returns both halves as one sample and leaves TS_HI; any other 8 B read of
the block or context registers, and a read of a defined register that is not of an aligned word, returns 0 and sets ACCESS;
a read of any other size or place returns 0.

ERROR CAPTURE (R381): in a CTL cycle's first error its bit is set, ERR_COUNT rises, and the capture registers take it
exactly where ERR_STATUS was 0. A write of ones clears those bits and no others, but for the bits of errors of the very
cycle of the write, which stay. -/
def Obligations.RegisterReadsAndErrorCapture : Prop :=
  (∀ (s : State) (t : Time), s.inRst 4 = false →
      (∀ o : Nat, o % 4 = 0 → ∃ u, exec (.readClear t ⟨o, 4⟩) s = .next u
        ∧ u.regs.readData = BitVec.ofNat 64 (((s.at t).regValue false o).getD 0)
        ∧ (s.inRst 2 = false →
            u.regs = { s.regs with readData := u.regs.readData, stageDrops := if o = 0x028 then 0 else s.regs.stageDrops,
                                   windowDrops := if o = 0x028 then 0 else s.regs.windowDrops, errCount := if o = 0x08C then 0 else s.regs.errCount }
            ∧ u.clk.fchg = (if o = 0x030 then false else s.clk.fchg)
            ∧ u.clk.tsLatch = (if o = 0x0C0 then BitVec.ofNat 32 (max s.now t.aon / 2 ^ 32) else s.clk.tsLatch)
            ∧ ∀ c, c < s.mbox.ctxs.length → c < 256 → u.ctx c = (if o = 0x10008 + 16 * c then { s.ctx c with dropped := 0, ignored := 0 } else s.ctx c))
        ∧ (s.inRst 2 = true → u.regs = { s.regs with readData := u.regs.readData } ∧ u.mbox = s.mbox ∧ u.clk.fchg = s.clk.fchg ∧ u.clk.tsLatch = s.clk.tsLatch)
        ∧ s.onlyChanges [.clk, .mbox, .regs] u)
      ∧ (s.inRst 2 = false → ∃ u, exec (.tsLo t) s = .next u
        ∧ u.regs = { s.regs with readData := BitVec.ofNat 64 (max s.now t.aon % 2 ^ 32) } ∧ u.clk.tsLatch = BitVec.ofNat 32 (max s.now t.aon / 2 ^ 32)
        ∧ s.onlyChanges [.clk, .regs] u)
      ∧ (∀ o ∈ [0x008, 0x040, 0x090, 0x0C0], ∃ u, exec (.readClear t ⟨o, 8⟩) s = .next u
        ∧ u.regs = { s.regs with readData := if o = 0x0C0 then BitVec.ofNat 64 (max s.now t.aon) else BitVec.ofNat 64 (((s.at t).regValue false o).getD 0 + 2 ^ 32 * ((s.at t).regValue false (o + 4)).getD 0) }
        ∧ u.clk.tsLatch = s.clk.tsLatch ∧ u.clk.fchg = s.clk.fchg ∧ s.onlyChanges [.clk, .regs] u)
      ∧ (∀ o size : Nat, (size ≠ 4 ∨ o % 4 ≠ 0) → (size ≠ 8 ∨ o ∉ [0x008, 0x040, 0x090, 0x0C0]) →
        ((size = 8 ∧ (o < 0x1000 ∨ 0x10000 ≤ o ∧ o < 0x11000)) ∨ ((s.at t).regValue false (o / 4 * 4)).isSome = true) →
        ∃ u, exec (.readClear t ⟨o, size⟩) s = .next u
        ∧ u.regs.readData = 0 ∧ bit u.regs.errStatus.toNat 5 = true ∧ u.clk.tsLatch = s.clk.tsLatch ∧ u.clk.fchg = s.clk.fchg
        ∧ s.onlyChanges [.clk, .regs, .log] u)
      ∧ ∀ o size : Nat, (size ≠ 4 ∨ o % 4 ≠ 0) → ¬(size = 8 ∧ (o < 0x1000 ∨ 0x10000 ≤ o ∧ o < 0x11000)) → (s.at t).regValue false (o / 4 * 4) = none →
        ∃ u, exec (.readClear t ⟨o, size⟩) s = .next u ∧ u.regs = { s.regs with readData := 0 } ∧ u.clk.tsLatch = s.clk.tsLatch ∧ u.clk.fchg = s.clk.fchg
          ∧ s.onlyChanges [.clk, .regs] u)
    ∧
  ((∀ (r : Regs) (ctl aon code n : Nat) (d0 : Word), (r.errCycle ≠ ctl ∨ r.errCand = none) →
      (r.record ctl aon code n d0).errStatus = r.errStatus ||| BitVec.ofNat 32 (2 ^ n)
        ∧ (r.record ctl aon code n d0).errCount = min 0xFFFFFFFF (r.errCount + 1)
        ∧ ((r.record ctl aon code n d0).errBit, (r.record ctl aon code n d0).errCode, (r.record ctl aon code n d0).errInfo, (r.record ctl aon code n d0).errTime)
          = if r.errStatus = 0 then (n, code, d0, aon) else (r.errBit, r.errCode, r.errInfo, r.errTime))
      ∧ ∀ (s : State) (t : Time) (v : Word), s.inRst 4 = false → s.inRst 2 = false → ∃ u, exec (.errStatus t v) s = .next u
        ∧ (s.regs.errCand.isSome = true → s.regs.errCycle = max s.clk.ctl t.ctl →
            u.regs.errStatus = (s.regs.errOld &&& ~~~v) ||| s.regs.errBits)
        ∧ (s.regs.errCand = none ∨ s.regs.errCycle ≠ max s.clk.ctl t.ctl → u.regs = { s.regs with errStatus := s.regs.errStatus &&& ~~~v })
        ∧ u.regs.errCount = s.regs.errCount ∧ s.onlyChanges [.clk, .regs] u)

/-- FUSES (R382, R417): at stage 4 or 9 or in a halt, with no fuse write under way, FUSE_SVN begins to raise the minimum
SVN to a greater value and FUSE_KEYREV to blow the bits given; any other value does nothing, and the old values read until
the write is done. Outside those conditions the write is dropped. When it is done the new values stand.

TEST WRAPPER (R414 to R416): an update of the WIR puts its code in force; a wrapper reset clears the wrapper; with
SK_REG selected a register access is done as from the host link and its data and status captured, and it comes before a
host-link write of the same CTL cycle; with SK_MBIST selected, while a reset is held
low, a START begins the test and empties the log; its end records the failing rows in ascending PRA; each capture then
loads the register and pops one row. -/
def Obligations.FusesAndWrapper : Prop :=
  (∀ (s : State) (t : Time),
      (∀ v : Word, s.inRst 2 = false → s.fuseOpen = true → s.fuses.writing = none →
        (∃ u, exec (.fuseSvn t v) s = .next u
          ∧ u.fuses = (if s.fuses.minSvn < bits v.toNat 8 8 then { s.fuses with writing := some (0, bits v.toNat 8 8) } else s.fuses)
          ∧ s.onlyChanges [.clk, .fuses, .regs, .log] u)
        ∧ ∃ u, exec (.fuseKeyrev t v) s = .next u
          ∧ u.fuses = (if bits v.toNat 4 4 ≠ 0 then { s.fuses with writing := some (1, bits v.toNat 4 4) } else s.fuses)
          ∧ s.onlyChanges [.clk, .fuses, .regs, .log] u)
      ∧ (∀ v : Word, s.inRst 2 = false → s.fuseOpen = false →
        (∃ u, exec (.fuseSvn t v) s = .next u ∧ u.fuses = s.fuses ∧ bit u.regs.errStatus.toNat 5 = true)
        ∧ ∃ u, exec (.fuseKeyrev t v) s = .next u ∧ u.fuses = s.fuses ∧ bit u.regs.errStatus.toNat 5 = true)
      ∧ (∀ v : Nat, s.fuses.writing = some (0, v) → ∃ u, exec (.fuseWriteDone t) s = .next u
        ∧ u.fuses = { s.fuses with minSvn := max s.fuses.minSvn v, writing := none } ∧ s.onlyChanges [.clk, .fuses] u)
      ∧ ∀ v : Nat, s.fuses.writing = some (1, v) → ∃ u, exec (.fuseWriteDone t) s = .next u
        ∧ u.fuses = { s.fuses with revoked := s.fuses.revoked ||| BitVec.ofNat 4 v, writing := none } ∧ s.onlyChanges [.clk, .fuses] u)
    ∧
  (∀ (s : State) (t : Time),
      (∀ c : BitVec 4, ∃ u, exec (.wirUpdate t c) s = .next u ∧ u.wrap = { s.wrap with wir := c.toNat } ∧ s.onlyChanges [.clk, .wrap] u)
      ∧ (∃ u, exec (.wrapperReset t) s = .next u ∧ u.wrap = { spoiled := s.wrap.spoiled || s.wrap.running } ∧ s.onlyChanges [.clk, .wrap] u)
      ∧ (∀ v : BitVec 64, s.wrapperSel = 3 → s.inRst 2 = false → bit v.toNat 0 = false → (s.at t).hostFirst = none →
        ∃ u, exec (.skReg t v) s = .next u
        ∧ u.wrap = { s.wrap with regStatus := 0, regData := BitVec.ofNat 32 (((s.at t).regValue true (4 * bits v.toNat 2 18)).getD 0) }
        ∧ s.onlyChanges [.clk, .mbox, .regs, .wrap] u)
      ∧ (∀ (v : BitVec 64) (w : Word), s.wrapperSel = 3 → s.inRst 2 = false → s.inRst 4 = false → bit v.toNat 0 = true → w.toNat = bits v.toNat 24 32 →
        4 * bits v.toNat 2 18 ∉ [0xF00, 0xF04] → (s.at t).hostFirst = none →
        ∃ u x, exec (.skReg t v) s = .next u ∧ exec (.registerWrite t (4 * bits v.toNat 2 18) 4 (w.setWidth 64)) s = .next x
          ∧ u.boot = x.boot ∧ u.mbox = x.mbox ∧ u.vat = x.vat ∧ u.str = x.str ∧ u.log = x.log ∧ u.regs.errStatus = x.regs.errStatus
          ∧ u.wrap.regData = s.wrap.regData ∧ u.wrap.regStatus = b2n u.regs.accDropped
          ∧ s.onlyChanges [.clk, .vat, .str, .skim, .boot, .mbox, .regs, .log, .wrap, .ports] u)
      ∧ (∀ (v : BitVec 64) (o : Nat) (a : Word), s.wrapperSel = 3 → s.inRst 2 = false → s.inRst 4 = false → o < 0x100000 →
        (∀ x, s.clk.host = some x → x.ctl ≠ max s.clk.ctl t.ctl) →
        ∃ u1 u2 x1 x2, exec (.registerWrite t o 4 (a.setWidth 64)) s = .next u1 ∧ exec (.skReg t v) u1 = .next u2
          ∧ exec (.skReg t v) s = .next x1 ∧ exec (.registerWrite t o 4 (a.setWidth 64)) x1 = .next x2
          ∧ u2.boot = x2.boot ∧ u2.regs = x2.regs ∧ u2.log = x2.log ∧ u2.wrap = x2.wrap ∧ u2.fuses = x2.fuses ∧ ∀ j, u2.unit j = x2.unit j)
      ∧ (∀ v : BitVec 64, s.wrapperSel = 3 → s.inRst 2 = true → (s.at t).hostFirst = none → ∃ u, exec (.skReg t v) s = .next u
        ∧ u.wrap = { s.wrap with regStatus := 2 } ∧ u.regs = s.regs)
      ∧ (∀ v : Word, s.wrapperSel = 4 → bit v.toNat 0 = true → (s.clk.coldLow || s.clk.warmLow) = true → s.wrap.running = false →
        ∃ u, exec (.skMbist t v) s = .next u ∧ u.wrap.running = true ∧ u.wrap.done = false ∧ u.wrap.spoiled = true
          ∧ u.log.entries = [] ∧ u.log.next = 0 ∧ s.onlyChanges [.clk, .log, .wrap] u)
      ∧ (∀ (failing : List (BitVec 17)) (other : Bool), s.wrap.running = true → ∃ u, exec (.mbistDone t failing other) s = .next u
        ∧ u.wrap.running = false ∧ u.wrap.done = true ∧ u.wrap.failing.Pairwise (· < ·)
        ∧ (∀ p, p ∈ u.wrap.failing ↔ ∃ q ∈ failing, q.toNat = p) ∧ u.wrap.found = min 2047 u.wrap.failing.length ∧ u.wrap.other = other
        ∧ s.onlyChanges [.clk, .wrap] u)
      ∧ (s.wrapperSel = 4 → ∃ u, exec (.mbistCapture t) s = .next u
        ∧ u.wrap.capture = BitVec.ofNat 32 s.wrap.mbistWord
        ∧ u.wrap.failing = (if s.wrap.done then s.wrap.failing.drop 1 else s.wrap.failing) ∧ s.onlyChanges [.clk, .wrap] u))

/-- DOORBELL (R348, R352, R374 to R376), at READY with CC0's core running and in skim mode: a value that leaves at most 8 commands taken and
unanswered has the commands from TAKEN on taken from their slots, those other than ATTACH dropped and counted in a DETACHED
context; any other value is ignored, counted and logged; one with its upper half not 0 is dropped with ACCESS at any stage.
While CC0's role is being taken over, a value waits for the new core, behind those that wait. -/
def Obligations.DoorbellTakesCommands : Prop :=
  ∀ (s : State) (t : Time) (c : BitVec 8) (v : Word), s.counted → s.inRst 4 = false → s.inRst 2 = false →
    let takes := s.duty 0 = true ∨ s.skimServes = true
    (takes → v.toNat < 65536 → (v.toNat + 65536 - (s.ctx c.toNat).taken) % 65536 + (s.ctx c.toNat).unanswered ≤ 8 →
      ∃ u, exec (.doorbell t c v) s = .next u
        ∧ (let n := (v.toNat + 65536 - (s.ctx c.toNat).taken) % 65536
           let new := s.slotCmds c.toNat v.toNat
           let keep := if (s.ctx c.toNat).attached then new else new.filter (fun k => k.opcode == opAttach)
           new.length = n
             ∧ (∀ i, i < n → new[i]?.map (fun k => k.bytes) = some (Memory.readRun (4096 * c.toNat + 256 * (((s.ctx c.toNat).taken + i) % 8)) 256 s.mbox.windows))
             ∧ u.ctx c.toNat = { s.ctx c.toNat with
                 cmds := (s.ctx c.toNat).cmds ++ keep, dropped := min 65535 ((s.ctx c.toNat).dropped + (n - keep.length)),
                 taken := v.toNat, doorbell := v.toNat })
        ∧ (∀ d, d ≠ c.toNat → u.ctx d = s.ctx d) ∧ s.onlyChanges [.clk, .mbox] u)
    ∧ (takes → v.toNat < 65536 → 8 < (v.toNat + 65536 - (s.ctx c.toNat).taken) % 65536 + (s.ctx c.toNat).unanswered →
      ∃ u, exec (.doorbell t c v) s = .next u
        ∧ u.ctx c.toNat = { s.ctx c.toNat with ignored := min 65535 ((s.ctx c.toNat).ignored + 1) }
        ∧ u.log = ((s.at t).logErr errDoorbellIgnored none c.toNat v.toNat (s.ctx c.toNat).taken).log
        ∧ (∀ d, d ≠ c.toNat → u.ctx d = s.ctx d) ∧ s.onlyChanges [.clk, .mbox, .regs, .log] u)
    ∧ (65536 ≤ v.toNat → ∃ u, exec (.doorbell t c v) s = .next u ∧ bit u.regs.errStatus.toNat 5 = true ∧ s.onlyChanges [.clk, .regs, .log] u)
    ∧ (s.fw = true → s.boot.stage = 8 → s.roleUp 0 = false → v.toNat < 65536 → ∃ u, exec (.doorbell t c v) s = .next u
        ∧ u.ctx c.toNat = { s.ctx c.toNat with rung := (s.ctx c.toNat).rung ++ [v.toNat] }
        ∧ (∀ d, d ≠ c.toNat → u.ctx d = s.ctx d) ∧ s.onlyChanges [.clk, .mbox] u)

/-- WINDOWS AND INTAKE (R364, R365, R373, R374): at READY, and in skim mode for context 0's slots, a command-window write of
whole aligned words within one slot puts its bytes there and no other byte changes; in AWAIT_IMAGE a staging write puts its
bytes in the same region, which backs both windows, and a repair entry joins the intake while it holds fewer than 1,024, and
otherwise sets OVF with ACCESS. At any other stage each of them changes no byte and no entry and is counted. A window write of
another shape is dropped with ACCESS. -/
def Obligations.WindowAndIntakeWrites : Prop :=
  ∀ (s : State) (t : Time), s.canonical = true → s.inRst 4 = false →
    (∀ (o : Nat) (data : List Byte), slotWriteOk o data.length = true → ∃ u, exec (.commandWindowWrite t o data) s = .next u
      ∧ (∀ a, Memory.read a u.mbox.windows =
          if (s.boot.stage = 8 ∨ s.boot.stage = 9 ∧ o < 4096) ∧ o ≤ a ∧ a < o + data.length then data.getD (a - o) 0 else Memory.read a s.mbox.windows)
      ∧ (¬(s.boot.stage = 8 ∨ s.boot.stage = 9 ∧ o < 4096) →
          u.regs.windowDrops = min 65535 (s.regs.windowDrops + 1) ∧ bit u.regs.errStatus.toNat 6 = true)
      ∧ s.onlyChanges [.clk, .cmdWin, .regs, .log] u)
    ∧ (∀ (o : Nat) (data : List Byte), slotWriteOk o data.length = false → ∃ u, exec (.commandWindowWrite t o data) s = .next u
      ∧ bit u.regs.errStatus.toNat 5 = true ∧ s.onlyChanges [.clk, .regs, .log] u)
    ∧ (∀ (o : Nat) (data : List Byte), o % 4 = 0 → data.length % 4 = 0 → o + data.length ≤ 1048576 → ∃ u, exec (.stagingWindowWrite t o data) s = .next u
      ∧ (∀ a, Memory.read a u.mbox.windows =
          if s.boot.stage = 4 ∧ o ≤ a ∧ a < o + data.length then data.getD (a - o) 0 else Memory.read a s.mbox.windows)
      ∧ (s.boot.stage ≠ 4 → u.regs.stageDrops = min 65535 (s.regs.stageDrops + 1) ∧ bit u.regs.errStatus.toNat 6 = true)
      ∧ s.onlyChanges [.clk, .cmdWin, .regs, .log] u)
    ∧ (∀ (o : Nat) (data : List Byte), ¬(o % 4 = 0 ∧ data.length % 4 = 0 ∧ o + data.length ≤ 1048576) →
      ∃ u, exec (.stagingWindowWrite t o data) s = .next u ∧ bit u.regs.errStatus.toNat 5 = true ∧ s.onlyChanges [.clk, .regs, .log] u)
    ∧ ∀ e : Word, s.inRst 2 = false → ∃ u, exec (.repairData t e) s = .next u
      ∧ (if s.boot.stage = 4 ∧ s.boot.repair.length < 1024 then u.boot = { s.boot with repair := s.boot.repair ++ [e] } ∧ u.regs = s.regs ∧ u.log = s.log
        else u.boot = (if s.boot.stage = 4 then { s.boot with repairOvf := true } else s.boot) ∧ bit u.regs.errStatus.toNat 5 = true
          ∧ u.regs.stageDrops = (if s.boot.stage = 4 then s.regs.stageDrops else min 65535 (s.regs.stageDrops + 1)))
      ∧ s.onlyChanges [.clk, .boot, .regs, .log] u

/-- BOOT_CTL (R343, R371 to R373, R68): a write without the key or with reserved bits set is dropped with ACCESS; CLEAR sets
the failure counter to 0; GO, after it, in AWAIT_IMAGE without a halt enters AUTH, raises the counter to at most 3, sets BIP,
takes the GO length and the repair list, and rejects a list that R68 rules out; GO elsewhere, in skim mode and in a halt, sets
ACCESS and does no more than what CLEAR in the same write does. CLEAR leaves BIP, and acts in every stage. -/
def Obligations.BootControlWrites : Prop :=
  ∀ (s : State) (t : Time) (v : Word), s.inRst 4 = false → s.inRst 2 = false →
    (bits v.toNat 16 16 = 0xA5C3 → bits v.toNat 2 14 = 0 →
      (bit v.toNat 0 = true → s.boot.stage = 4 → s.boot.halt = false → ∃ u, exec (.go t v) s = .next u
        ∧ u.boot.stage = 5 ∧ u.boot.bip = true ∧ u.boot.fcount = min 3 ((if bit v.toNat 1 then 0 else s.boot.fcount) + 1)
        ∧ u.boot.goLen = s.boot.imageLen ∧ u.boot.taken = s.boot.repair
        ∧ (u.boot.repairSt = 0 ↔ s.boot.repairOvf = false ∧ ∀ e ∈ s.boot.repair, bit e.toNat 31 = true ∧ bits e.toNat 17 14 = 0)
        ∧ s.onlyChanges [.clk, .boot, .regs, .log] u)
      ∧ (bit v.toNat 0 = true → s.boot.stage ≠ 4 ∨ s.boot.halt = true → ∃ u, exec (.go t v) s = .next u
        ∧ u.boot = { s.boot with fcount := if bit v.toNat 1 then 0 else s.boot.fcount } ∧ bit u.regs.errStatus.toNat 5 = true
        ∧ s.onlyChanges [.clk, .boot, .regs, .log] u)
      ∧ (bit v.toNat 1 = true → bit v.toNat 0 = false → ∃ u, exec (.clear t v) s = .next u
        ∧ u.boot = { s.boot with fcount := 0 } ∧ u.regs = s.regs ∧ s.onlyChanges [.clk, .boot, .regs, .log] u))
    ∧ (bits v.toNat 16 16 ≠ 0xA5C3 ∨ bits v.toNat 2 14 ≠ 0 →
        (∃ u, exec (.go t v) s = .next u ∧ u.boot = s.boot ∧ bit u.regs.errStatus.toNat 5 = true)
        ∧ ∃ u, exec (.clear t v) s = .next u ∧ u.boot = s.boot ∧ bit u.regs.errStatus.toNat 5 = true)

/-- REGISTER WRITES (R9, R364 to R366, R375, R378): out of reset a 4 B write acts as the command that its offset names (BOOT_CTL,
REPAIR_DATA, ERR_STATUS, the power registers, a context's doorbell) and IMAGE_LEN takes its value; an 8 B write of VAT_PWR
is one power request; a write to a read-only register changes nothing that the spec names, and one to a reserved offset or of
another size or alignment changes nothing but ACCESS. (That an access is kept for its CTL cycle, in clk.host, is the model's
way to let a wrapper access of the same cycle come first.) -/
def Obligations.RegisterWritesAct : Prop :=
  ∀ (s : State) (t : Time), s.inRst 4 = false → s.inRst 2 = false →
    (∀ v : Word, exec (.registerWrite t 0x014 4 (v.setWidth 64)) s = exec (.go t v) s
      ∧ exec (.registerWrite t 0x020 4 (v.setWidth 64)) s = exec (.repairData t v) s
      ∧ exec (.registerWrite t 0x080 4 (v.setWidth 64)) s = exec (.errStatus t v) s
      ∧ exec (.registerWrite t 0x040 4 (v.setWidth 64)) s = exec (.vatPwr t .lo (v.setWidth 64)) s
      ∧ exec (.registerWrite t 0x044 4 (v.setWidth 64)) s = exec (.vatPwr t .hi (v.setWidth 64)) s
      ∧ exec (.registerWrite t 0x048 4 (v.setWidth 64)) s = exec (.strPwr t v) s
      ∧ ∀ c : BitVec 8, exec (.registerWrite t (0x10000 + 16 * c.toNat) 4 (v.setWidth 64)) s = exec (.doorbell t c v) s)
    ∧ (∀ v : BitVec 64, exec (.registerWrite t 0x040 8 v) s = exec (.vatPwr t .both v) s)
    ∧ (∀ v : Word, ∃ u, exec (.registerWrite t 0x018 4 (v.setWidth 64)) s = .next u ∧ u.boot = { s.boot with imageLen := v } ∧ s.onlyChanges [.clk, .boot] u)
    ∧ (∀ (o : Nat) (v : Word), o ∈ [0x000, 0x004, 0x008, 0x00C, 0x010, 0x01C, 0x024, 0x028, 0x02C, 0x030, 0x04C, 0x050, 0x054, 0x058, 0x05C, 0x060,
        0x084, 0x088, 0x08C, 0x090, 0x094, 0x0C0, 0x0C4] ∨ (0x10000 ≤ o ∧ o < 0x11000 ∧ (o % 16 = 4 ∨ o % 16 = 8 ∨ o % 16 = 12)) →
      ∃ h, exec (.registerWrite t o 4 (v.setWidth 64)) s = .next ((s.at t).modClk (fun c => { c with host := h })))
    ∧ ∀ (o size : Nat) (v : BitVec 64), (o < 0x100000 ∨ 0x300000 ≤ o) →
      (o % 4 ≠ 0 ∨ (size ≠ 4 ∧ (size ≠ 8 ∨ o ≠ 0x040))
        ∨ (size = 4 ∧ ¬(0x10000 ≤ o ∧ o < 0x11000) ∧ o ∉ [0x000, 0x004, 0x008, 0x00C, 0x010, 0x014, 0x018, 0x01C, 0x020, 0x024, 0x028, 0x02C, 0x030,
            0x040, 0x044, 0x048, 0x04C, 0x050, 0x054, 0x058, 0x05C, 0x060, 0x080, 0x084, 0x088, 0x08C, 0x090, 0x094, 0x0C0, 0x0C4])) →
      ∃ u, exec (.registerWrite t o size v) s = .next u ∧ bit u.regs.errStatus.toNat 5 = true ∧ s.onlyChanges [.clk, .regs, .log] u

/-- RESETS (R389 to R393, Table 16-5): the assertion of a reset holds every domain in reset, drops every power request and
zeroes the vat, and keeps the fuses, the wrapper, the trouble log's entries and NEXT, the boot-failure counter, BIP and the
failure records, but for a GO of the same CTL and AON counts, which is lost; every other unit is as at reset. A warm reset during a
cold sequence is ignored. Once released, the steps of Table 16-4 follow, up to the one reached: the resets are high, the
fuses are read and their map-outs in force, and the domains leave reset in the table's order (that AON's bit clears with
HLK's is the model's choice, notes/assumptions/151.md); the last one begins boot stage 1. A loss of power keeps the fuses
alone. -/
def Obligations.ResetsKeepAndLose : Prop :=
  ∀ (s : State) (t : Time),
    (∃ u, exec (.coldReset t) s = .next u ∧ (s.at t).resetLeaves u ∧ u.clk.cold = true ∧ u.clk.coldLow = true ∧ u.boot.resetKind = 2)
    ∧ ((s.clk.cold && !s.clk.rstDone) = false → ∃ u, exec (.warmReset t) s = .next u
        ∧ (s.at t).resetLeaves u ∧ u.clk.cold = false ∧ u.clk.warmLow = true ∧ u.boot.resetKind = 1)
    ∧ ((s.clk.cold && !s.clk.rstDone) = true → exec (.warmReset t) s = .next (s.at t))
    ∧ (∀ k : Nat, s.clk.seq = 0 → s.clk.inReset = 0x3F → 1 ≤ k → k ≤ 9 → ∃ u, exec (.resetRelease ⟨t, k⟩) s = .next u
        ∧ u.clk.seq = k ∧ u.clk.alive = 0x3F ∧ u.clk.coldLow = false ∧ u.clk.warmLow = false
        ∧ u.clk.inReset = (if k ≤ 3 then 0x3F else if k = 4 then 0x0F else if k = 5 then 0x0B else if k = 6 then 0x03 else if k = 7 then 0x01 else 0)
        ∧ (2 ≤ k → u.fuses = s.fuses.finish
          ∧ u.str.usable = s.fuses.strainers ∧ u.churn.lanes = s.fuses.lanes
          ∧ (∀ p, p ∈ u.vat.mapOut ↔ ∃ r ∈ s.fuses.rows, r.toNat = p) ∧ u.vat.mapOut.Pairwise (· < ·)
          ∧ (∀ b, b ∈ u.vat.dead ↔ b < 64 ∧ 64 < (u.vat.mapOut.filter (fun p => p / 2048 == b)).length))
        ∧ (k = 9 → u.clk.rstDone = true ∧ u.boot.stage = 1)
        ∧ (k < 9 → u.clk.rstDone = s.clk.rstDone ∧ u.boot.stage = s.boot.stage)
        ∧ s.onlyChanges [.clk, .vat, .str, .churn, .fuses, .boot, .regs, .wrap] u)
    ∧ ∃ u, exec (.powerLoss t) s = .next u ∧ u.fuses = { s.fuses with writing := none }
        ∧ (u.clk, u.shell, u.drw, u.ren, u.churn, u.skim, u.coll, u.reqs, u.rat, u.stw, u.boot, u.regs, u.log, u.wrap)
          = (({}, {}, {}, {}, {}, {}, {}, {}, {}, {}, {}, {}, {}, {}) :
              Clocks × Shell × DrawUnit × Rennet × Churn × Skimmer × Collective × Requests × Rations × Steward × Boot × Regs × Log × Wrapper)
        ∧ u.vat.mem = [] ∧ u.vat.tags = [] ∧ u.vat.checks = [] ∧ u.vat.parity = [] ∧ u.mbox.windows = []
        ∧ (∀ c, u.ctx c = {}) ∧ ∀ j, u.unit j = {}

/-- BOOT, STAGES 1 TO 5 (R337, R342 to R348, R373, R392, R405), where a core runs the ROM: with four or more cores passing, the roles go to them in
ascending order and the boot goes on, in skim mode at a counter of 3; with fewer, the failure is recorded and counted, and
with none the SK9 halts. The SRAMs initialised, AWAIT_IMAGE is entered with an empty intake and an empty shared SRAM (an
unwritten byte reading 0 is the model's choice, notes/assumptions/149.md), the log kept on a warm boot
with its bad entries made void and cleared on a cold one; an SRAM error is a failure that restarts the boot. An image that passes every check goes on; one that fails is
recorded and awaited again, in skim mode at a counter of 3. -/
def Obligations.EarlyBootStages : Prop :=
  ∀ (s : State) (t : Time), s.boot.halt = false →
    (∀ m : BitVec 5, s.boot.stage = 1 → ∃ u, exec (.selftestDone t m) s = .next u
      ∧ (if 4 ≤ (passing m).length then
          u.boot.roles = (List.range 5).map (fun i => (passing m)[i]?) ∧ u.boot.stage = (if 3 ≤ s.boot.fcount then 9 else 3)
            ∧ u.boot.fcount = s.boot.fcount
            ∧ (s.boot.bip = true → u.boot.bip = false
                ∧ u.boot.fails = (⟨max s.now t.aon, causeResetDuringBoot, 2, 0, BitVec.ofNat 32 s.boot.reached, 0⟩ :: s.boot.fails).take 3)
        else u.boot.fcount = min 3 (s.boot.fcount + 1)
            ∧ u.boot.fails = (⟨max s.now t.aon, causeSelftest, 1, 0, BitVec.ofNat 32 (31 - m.toNat), 0⟩ :: s.boot.fails).take 3
            ∧ (passing m = [] → u.boot.halt = true))
      ∧ s.onlyChanges [.clk, .boot, .regs, .log] u)
    ∧ (∀ bad : List Nat, s.boot.stage = 3 → s.romRuns = true → ∃ u, exec (.sramInitDone t none bad) s = .next u
      ∧ u.boot.stage = 4 ∧ u.boot.repair = [] ∧ u.boot.repairOvf = false
      ∧ u.mbox.windows = [] ∧ u.boot.core = [] ∧ u.boot.data = [] ∧ u.mbox.ctxs = s.mbox.ctxs
      ∧ (if s.clk.cold then u.log.entries = [] ∧ u.log.next = 0
        else u.log.next = s.log.next ∧ u.log.entries = s.log.entries.map (fun e =>
          if bad.contains e.seq then ⟨e.seq, { time := max s.now t.aon, code := errLogVoid }⟩ else e))
      ∧ s.onlyChanges [.clk, .boot, .bootMem, .mbox, .cmdWin, .log] u)
    ∧ (∀ (a : Word) (bad : List Nat), s.boot.stage = 3 → s.romRuns = true → ∃ u, exec (.sramInitDone t (some a) bad) s = .next u
      ∧ u.boot.stage = 1 ∧ u.boot.fcount = min 3 (s.boot.fcount + 1) ∧ u.log.entries = s.log.entries
      ∧ u.boot.fails = (⟨max s.now t.aon, causeSramInit, 3, 0, BitVec.ofNat 32 a.toNat, 3⟩ :: s.boot.fails).take 3
      ∧ s.onlyChanges [.clk, .boot, .regs, .log] u)
    ∧ (s.boot.stage = 5 → s.romRuns = true → ∃ u, exec (.authDone t) s = .next u
      ∧ (match bootImageFault s.fuses s.boot.goLen.toNat s.imageBytes with
        | none => u.boot = { s.boot with stage := 6, goUndo := none }
        | some (c, d0, d1) => u.boot.stage = (if 3 ≤ s.boot.fcount then 9 else 4) ∧ u.boot.fcount = s.boot.fcount ∧ u.boot.bip = false
            ∧ u.boot.fails = (⟨max s.now t.aon, c, 5, BitVec.ofNat 32 (leAt s.imageBytes 0x00C 4), BitVec.ofNat 32 d0, BitVec.ofNat 32 d1⟩
                :: s.boot.fails).take 3)
      ∧ s.onlyChanges [.clk, .boot, .regs, .log] u)

/-- BOOT, STAGES 6 TO 8 (R68, R343, R344, R350, R370, R393): the cores start with the image's version and entry point; at
READY the counter and BIP are cleared, every context is DETACHED with its counts at 0, the fuses' and the accepted repair
list's rows are out, and the RESET entry is asked for under the time of its reset; a boot that does not reach READY in
time is recorded and restarts at stage 1 with every core in reset, and so does one whose engine SRAM meets an error. -/
def Obligations.LateBootStages : Prop :=
  ∀ (s : State) (t : Time),
    (s.boot.stage = 6 → s.romRuns = true → ∃ u, exec (.loadDone t) s = .next u
      ∧ u.boot.stage = 7 ∧ u.boot.running = true ∧ u.boot.fwVersion = BitVec.ofNat 32 (leAt s.imageBytes 0x00C 4)
      ∧ u.boot.entry = BitVec.ofNat 32 (leAt s.imageBytes 0x018 4)
      ∧ u.boot.core = copySegments s.imageBytes 0 ∧ u.boot.data = copySegments s.imageBytes 1
      ∧ u.boot.fcount = s.boot.fcount ∧ u.boot.bip = s.boot.bip ∧ s.onlyChanges [.clk, .boot, .bootMem] u)
    ∧ (s.boot.stage = 7 → s.fw = true → ∃ u, exec (.ready t) s = .next u
      ∧ u.boot.stage = 8 ∧ u.boot.fcount = 0 ∧ u.boot.bip = false ∧ (∀ c, u.ctx c = {})
      ∧ (∀ p, p ∈ u.vat.mapOut ↔ (∃ r ∈ s.fuses.rows, r.toNat = p) ∨ (s.boot.repairSt = 0 ∧ ∃ e ∈ s.boot.taken, bits e.toNat 0 17 = p))
      ∧ u.regs.mapoutRows = mapoutCount u.vat.mapOut u.vat.dead ∧ u.regs.banksOk = banksOkOf u.vat.dead
      ∧ u.mbox.windows = s.mbox.windows
      ∧ u.log = ((deadBanks s.bootRows).map (fun b => (⟨max s.now t.aon, errBankOut, none, BitVec.ofNat 32 b, BitVec.ofNat 32 (rowsOut s.bootRows b), 0⟩ : LogReq))
          ++ s.boot.stuckAcks.map (fun x => (⟨max s.now t.aon, errBankOut, none, BitVec.ofNat 32 x, 0xFFFFFFFF, 0⟩ : LogReq))
          ++ [(⟨s.boot.resetAon, errReset, none, BitVec.ofNat 32 s.boot.resetKind, BitVec.ofNat 32 s.boot.voided, 0⟩ : LogReq)]).foldl Log.ask s.log
      ∧ s.onlyChanges [.clk, .vat, .str, .boot, .mbox, .regs, .log] u)
    ∧ (∀ (a : Word) (bad : List Nat), s.boot.stage = 7 → s.fw = true → ∃ u, exec (.sramInitDone t (some a) bad) s = .next u
      ∧ u.boot.stage = 1 ∧ u.boot.running = false ∧ u.boot.fcount = s.boot.fcount ∧ (∀ r ∈ u.boot.roles, r = none)
      ∧ u.boot.fails = (⟨max s.now t.aon, causeSramInit, 7, s.boot.fwVersion, BitVec.ofNat 32 a.toNat, 7⟩ :: s.boot.fails).take 3
      ∧ s.onlyChanges [.clk, .boot, .regs, .log] u)
    ∧ (s.boot.stage = 7 → s.boot.halt = false → ∃ u, exec (.fwInitTimeout t) s = .next u
      ∧ u.boot.stage = 1 ∧ u.boot.running = false ∧ u.boot.fcount = s.boot.fcount ∧ (∀ r ∈ u.boot.roles, r = none)
      ∧ u.boot.fails = (⟨max s.now t.aon, causeFwTimeout, 7, s.boot.fwVersion, (s.at t).progress, 0⟩ :: s.boot.fails).take 3
      ∧ s.onlyChanges [.clk, .boot, .regs, .log] u)

/-- CORE FAILURES (R338 to R341, R344): while cores run and no role waits, a core that holds a role of CC0 to CC3 and fails by
its watchdog, an unhandled trap (other than one in FW_INIT) or its private SRAM leaves that role and is logged with its cause,
and the role waits for the spare; without a spare, and in skim mode, where the ROM's core alone runs, the SK9 halts. The spare
itself failing is logged and changes nothing else, and a failure while a role waits halts the SK9. The spare then takes the
role and CORE_FAILOVER is sent. An unhandled trap in FW_INIT is a boot failure that restarts the boot. (That the spare takes
a role in the boot stages before READY too is the model's choice, notes/assumptions/152.md.) -/
def Obligations.CoreFailuresHandled : Prop :=
  ∀ (s : State) (t : Time),
    (∀ (c : Instr) (core cause i : Nat),
      ((c = .watchdogExpiry t core ∧ cause = 1 ∧ bit s.clk.alive.toNat 2 = true) ∨ (∃ a k, c = .unhandledTrap t core a k ∧ cause = 2 ∧ ¬(s.fw = true ∧ s.boot.stage = 7))
        ∨ (c = .privateSramError t core ∧ cause = 3)) →
      1 ≤ s.boot.stage → s.boot.halt = false → s.boot.roles.findIdx? (fun r => r == some core) = some i → (s.boot.stage = 9 → i = 0) →
      ∃ u, exec c s = .next u
        ∧ (match s.boot.failedRole with
          | none =>
            if i = 4 then
              u.boot = { s.boot with roles := lmod 4 (fun _ => none) s.boot.roles } ∧ u.log = ((s.at t).logErr errCoreFailed none core cause 0xFF).log
            else if (s.boot.roles.getD 4 none).isSome = true ∧ s.boot.stage ≠ 9 then
              u.boot = { s.boot with roles := lmod i (fun _ => none) s.boot.roles, failedRole := some (i, core, cause) }
                ∧ u.log = ((s.at t).logErr errCoreFailed none core cause i).log
            else u.boot = { s.boot with roles := lmod i (fun _ => none) s.boot.roles, halt := true, progress := (s.at t).progress }
              ∧ u.log = (((s.at t).logErr errCoreFailed none core cause i).logErr errHalt none i 0 0).log
          | some f => u.boot.halt = true ∧ u.boot.failedRole = none
              ∧ u.log = (((s.at t).logErr errCoreFailed none core cause (if i = 4 then 0xFF else i)).logErr errHalt none f.1 0 0).log)
        ∧ s.onlyChanges [.clk, .skim, .boot, .mbox, .regs, .log, .ports] u)
    ∧ (∀ (core : Nat) (a : Word) (k : Byte), s.fw = true → s.boot.stage = 7 → ∃ u, exec (.unhandledTrap t core a k) s = .next u
      ∧ u.boot.stage = 1 ∧ u.boot.running = false ∧ u.boot.fcount = s.boot.fcount
      ∧ u.boot.fails = (⟨max s.now t.aon, causeFwTrap, 7, s.boot.fwVersion, BitVec.ofNat 32 a.toNat, BitVec.ofNat 32 (k.toNat + 256 * core)⟩
          :: s.boot.fails).take 3
      ∧ s.onlyChanges [.clk, .boot, .regs, .log] u)
    ∧ ∀ r core cause q : Nat, s.boot.halt = false → s.boot.failedRole = some (r, core, cause) → s.boot.roles.getD 4 none = some q →
      ∃ u, exec (.coreFailover t) s = .next u
      ∧ u.boot = { s.boot with roles := lmod 4 (fun _ => none) (lmod r (fun _ => some q) s.boot.roles), failedRole := none }
      ∧ s.onlyChanges [.clk, .skim, .boot, .mbox, .regs, .log, .ports] u

/-- CLOCKS AND CELLAR (R40, R384, R385, R390): a clock lost out of reset shows in CLK_ALIVE; that of ENG, CTL, CEL or HLK halts
the SK9, logged at once where CTL still runs and otherwise when it runs again, while a stop of clk_fab does no more; the halt
stays. A stretch is counted, a change of FAB's frequency noted, and a failed cellar command logged. -/
def Obligations.ClockAndCellarEvents : Prop :=
  ∀ (s : State) (t : Time),
    (∀ d : Nat, 1 ≤ d → d ≤ 4 → s.inRst d = false → bit s.clk.alive.toNat d = true → ∃ u, exec (.clockLoss t d) s = .next u
      ∧ bit u.clk.alive.toNat d = false ∧ (∀ e, e ≠ d → e < 6 → bit u.clk.alive.toNat e = bit s.clk.alive.toNat e)
      ∧ u.boot = { s.boot with halt := true, failedRole := none, progress := (s.at t).progress }
      ∧ (d = 2 ∨ bit s.clk.alive.toNat 2 = false → u.clk.lost = s.clk.lost ++ [d])
      ∧ (d ≠ 2 → bit s.clk.alive.toNat 2 = true → u.clk.lost = s.clk.lost)
      ∧ u.log = ((if s.boot.halt then [] else [(⟨max s.now t.aon, errHalt, none, 0xFF, 0, 0⟩ : LogReq)])
          ++ (if d ≠ 2 ∧ bit s.clk.alive.toNat 2 = true then [(⟨max s.now t.aon, errClockLost, none, BitVec.ofNat 32 d, 0, 0⟩ : LogReq)] else [])).foldl Log.ask s.log
      ∧ s.onlyChanges [.clk, .boot, .regs, .log] u)
    ∧ (s.inRst 0 = false → bit s.clk.alive.toNat 0 = true → ∃ u, exec (.clockLoss t 0) s = .next u
      ∧ bit u.clk.alive.toNat 0 = false ∧ (∀ e, e ≠ 0 → e < 6 → bit u.clk.alive.toNat e = bit s.clk.alive.toNat e) ∧ s.onlyChanges [.clk] u)
    ∧ (∀ d : Nat, d ≤ 4 → s.inRst d = false → ∃ u, exec (.clockRunsAgain t d) s = .next u
      ∧ bit u.clk.alive.toNat d = true ∧ (d = 2 ∨ bit s.clk.alive.toNat 2 = true → u.clk.lost = []
        ∧ u.log = (s.clk.lost.map (fun x => (⟨max s.now t.aon, errClockLost, none, BitVec.ofNat 32 x, 0, 0⟩ : LogReq))).foldl Log.ask s.log)
      ∧ s.onlyChanges [.clk, .regs, .log] u)
    ∧ (∃ u, exec (.stretch t) s = .next u ∧ u.shell = { s.shell with stretches := s.shell.stretches + 1 } ∧ s.onlyChanges [.clk, .shell] u)
    ∧ (∀ mhz : Nat, ∃ u, exec (.frequencyChange t mhz) s = .next u ∧ u.clk = { s.clk.at t with fabMHz := mhz, fchg := true } ∧ s.onlyChanges [.clk] u)
    ∧ ∀ (a : BitVec 48) (cls : Nat), s.inRst 3 = false → ∃ u, exec (.cellarError t a cls) s = .next u
      ∧ u.log = ((s.at t).logErr errCellarError none (a.toNat % 2 ^ 32) (a.toNat / 2 ^ 32) cls).log
      ∧ bit u.regs.errStatus.toNat 3 = true ∧ s.onlyChanges [.clk, .regs, .log] u

/-- TROUBLE LOG (R401 to R403): with CTL running, CC0's core up and eight CTL cycles gone since the last entry, the oldest
pending request is written under NEXT, or LOG_LOST with the number of requests lost once room has returned; NEXT rises by 1
modulo 2^32, and an entry written into a full log replaces the oldest. -/
def Obligations.LogWriterWrites : Prop :=
  ∀ (s : State) (t : Time), s.inRst 2 = false → bit s.clk.alive.toNat 2 = true → s.roleUp 0 = true →
    (match s.log.wrote with | none => True | some c => c + 8 ≤ max s.clk.ctl t.ctl) → (s.log.pending ≠ [] ∨ 0 < s.log.lost) →
    s.log.pending.length ≤ Config.logPending →
    ∃ u, exec (.logWrite t) s = .next u
      ∧ u.log.next = (s.log.next + 1) % 2 ^ 32
      ∧ (∃ q : LogReq, u.log.entries = (if s.log.entries.length < Config.logSize then s.log.entries else s.log.entries.drop 1) ++ [⟨s.log.next, q⟩]
          ∧ (if 0 < s.log.lost ∧ s.log.pending.length < Config.logPending then
              q = { time := max s.now t.aon, code := errLogLost, d0 := BitVec.ofNat 32 s.log.lost } ∧ u.log.lost = 0 ∧ u.log.pending = s.log.pending
            else s.log.pending = q :: u.log.pending ∧ u.log.lost = s.log.lost))
      ∧ s.onlyChanges [.clk, .log] u

/-- STEPS BEGIN (R42, R418): before a shape the pulse changes nothing. The first pulse after it begins the step that the
serving buffer holds, with the count at 0. A later one, the freeze made, begins the next step with the frozen buffer and
records the difference from S; when it is more than A early, every slot 0 to N - 1 is issued DRY with STEP_EARLY, its REQ,
POS, STEP and PASS words kept and its record IDLE content, and an error is pulsed; when it is more than A late,
STEP_LATE is logged with the cycles beyond S + A. A pulse before the freeze freezes at once: the build buffer's step begins. -/
def Obligations.StepsBegin : Prop :=
  ∀ (s : State) (t : Time),
    (s.shell.serving = none → exec (.stepStart t) s = .next (s.at t))
    ∧ (∀ b, s.shell.serving = some b → s.shell.current = none → ∃ u, exec (.stepStart t) s = .next u
      ∧ u.shell.current = some b ∧ u.shell.step = b.step ∧ u.shell.started = true ∧ u.shell.frozen = false ∧ u.clk.fab = 0
      ∧ s.onlyChanges [.clk, .shell, .vat, .str, .ren, .coll, .reqs, .rat, .regs, .log] u)
    ∧ (∀ sv b, s.shell.serving = some sv → s.shell.current = some b → s.shell.frozen = true → ∃ u, exec (.stepStart t) s = .next u
      ∧ u.shell.step = s.shell.step + 1 ∧ u.shell.frozen = false ∧ u.clk.fab = 0
      ∧ u.shell.startDiff = ((max s.clk.fab t.fab : Nat) : Int) - (b.shape.stepLen : Int)
      ∧ (b.shape.stepLen ≤ max s.clk.fab t.fab + b.shape.xallow → u.shell.current = some sv)
      ∧ (b.shape.stepLen + b.shape.xallow < max s.clk.fab t.fab → s.shell.groups = [] → u.log = s.log.ask ⟨max s.clk.aon t.aon,
          errStepLate, none, BitVec.ofNat 32 (max s.clk.fab t.fab - (b.shape.stepLen + b.shape.xallow)), BitVec.ofNat 32 (s.shell.step + 1), 0⟩)
      ∧ (max s.clk.fab t.fab + b.shape.xallow < b.shape.stepLen →
        s.shell.errPulses < u.shell.errPulses ∧ bit u.regs.errStatus.toNat 0 = true
        ∧ ∀ i, i < sv.shape.slots → (u.entry i).kind = .dry ∧ (u.entry i).dryCause = dryStepEarly ∧ (u.entry i).feed = 0
          ∧ (u.entry i).tok0 = tokNone ∧ (u.entry i).noAdapter = true ∧ (u.entry i).req = (sv.entryAt i).1.req
          ∧ (u.entry i).pos = (sv.entryAt i).1.pos ∧ (u.entry i).step = (sv.entryAt i).1.step
          ∧ (u.entry i).pass = (sv.entryAt i).1.pass ∧ u.tokRec i = { step := sv.step })
      ∧ s.onlyChanges [.clk, .shell, .vat, .str, .ren, .coll, .reqs, .rat, .regs, .log] u)
    ∧ ∀ sv b nb, s.shell.serving = some sv → s.shell.current = some b → s.shell.frozen = false → s.shell.building = some nb →
      ∃ u, exec (.stepStart t) s = .next u ∧ u.shell.step = s.shell.step + 1 ∧ u.clk.fab = 0
      ∧ (∃ c, u.shell.current = some c ∧ c.step = nb.step ∧ c.shape = nb.shape)
      ∧ (∃ d, u.shell.building = some d ∧ d.step = nb.step + 1 ∧ d.cells = [])
      ∧ s.onlyChanges [.clk, .shell, .vat, .str, .ren, .coll, .reqs, .rat, .regs, .log] u

/-- THE FREEZE AND THE DEFAULTS (R25, R27, R33): in cycle Dm or later of a step that is not frozen yet, the build buffer, with the
writes that waited for it, serves from then on, and a fresh one opens for the step after it under the shape that is due; a participant's slot for which no decision has come is frozen DRY with NO_DECISION (that its REQ,
POS and PASS words are 0 is the model's choice, notes/assumptions/132.md); at
any other time the event changes nothing. A build buffer opens with the defaults, slots 0 to N - 1 DRY with TOKEN_LATE and
every other IDLE, at the freeze, at a pulse that comes before it, and with the first shape; and a slot that was never written
is issued so. -/
def Obligations.FreezeOpensDefaults : Prop :=
  ∀ (s : State) (t : Time) (b : Buffer), s.shell.building = some b →
    (∀ f, s.shapeNow = some f → s.shell.started = true → s.shell.frozen = false → f.manDeadline ≤ max s.clk.fab t.fab → ∃ u, exec (.freeze t) s = .next u
      ∧ u.shell.frozen = true ∧ u.shell.cutoff = false ∧ u.shell.held = []
      ∧ (s.shell.held = [] → (s.rounds.isSome && s.duty 2) = false → u.shell.serving = some b)
      ∧ (s.shell.held = [] → s.rounds.isSome = true → s.duty 2 = true → b.early = false → ∀ i, i < b.shape.slots → s.homed i = false → (∀ c ∈ b.cells, c.1 ≠ i) →
          u.shell.serving.map (fun c => c.entryAt i) = some ({ kind := .dry, dryCause := dryNoDecision, step := b.step }, { step := b.step }))
      ∧ (∃ c, u.shell.serving = some c ∧ c.step = b.step ∧ c.shape = b.shape)
      ∧ (∃ d, u.shell.building = some d ∧ d.step = b.step + 1 ∧ d.opened
        ∧ d.shape = (match s.shell.pendingShape with | some (p, first) => if first ≤ b.step + 1 then p else b.shape | none => b.shape))
      ∧ s.onlyChanges [.clk, .shell, .reqs] u)
    ∧ (∀ f, s.shapeNow = some f → (s.shell.started = false ∨ s.shell.frozen = true ∨ max s.clk.fab t.fab < f.manDeadline) → exec (.freeze t) s = .next (s.at t))
    ∧ (s.shell.serving.isSome = true → s.shell.current.isSome = true → s.shell.frozen = false → ∃ u d, exec (.stepStart t) s = .next u
      ∧ u.shell.building = some d ∧ d.step = b.step + 1 ∧ d.opened)
    ∧ (∀ (h : Shell) (f : Shape) (first : Nat), h.building = none → ∃ d, (h.takeShape f first).building = some d ∧ d.opened)
    ∧ ∀ i, b.early = false → (∀ c ∈ b.cells, c.1 ≠ i) →
      b.entryAt i = (if i < b.shape.slots then { kind := .dry, dryCause := dryTokenLate, step := b.step } else { step := b.step }, { step := b.step })

/-- FIRMWARE WRITES ENTRIES (R18, R25, R26): an entry and its record are taken together or not at all. They take their place in
the build buffer when STEP names the step it serves, no other slot's changing; a write that names another step is dropped,
and one that names a step already frozen is reported. From a freeze to Dm + 8 a write is held, and goes in first with the
next write from then on. A slot of this SK9's own whose commit or dry result is not known takes none. (That a write of a slot
at or beyond N is dropped without a report is the model's choice, notes/assumptions/131.md.) -/
def Obligations.EntryWritesTaken : Prop :=
  ∀ (s : State) (t : Time) (slot : BitVec 12) (entry : BitVec 512) (record : BitVec 256) (e : Entry) (b : Buffer) (f : Shape),
    s.duty 2 = true → entryOf entry.toNat = some e → s.shapeNow = some f → s.shell.building = some b →
    (s.homed slot.toNat = false ∨ s.outcomeKnown slot.toNat = true →
      (s.shell.held = [] → s.shell.frozen = false ∨ f.manDeadline + 8 ≤ max s.clk.fab t.fab →
        (slot.toNat < b.shape.slots → e.step = b.step → ∃ u, exec (.manifestEntryWrite t slot entry record) s = .next u
          ∧ u.shell.building = some { b with cells := tput slot.toNat (e, tokRecordOf record.toNat) b.cells }
          ∧ u.shell.serving = s.shell.serving ∧ u.shell.missed = s.shell.missed ∧ s.onlyChanges [.clk, .shell] u)
        ∧ (slot.toNat < b.shape.slots → e.step ≠ b.step → ∃ u, exec (.manifestEntryWrite t slot entry record) s = .next u
          ∧ u.shell = { s.shell with missed := if 0 < e.step ∧ e.step < b.step then s.shell.missed ++ [(e.step, slot.toNat)] else s.shell.missed }
          ∧ s.onlyChanges [.clk, .shell] u)
        ∧ (b.shape.slots ≤ slot.toNat → ∃ u, exec (.manifestEntryWrite t slot entry record) s = .next u ∧ u.shell = s.shell ∧ s.onlyChanges [.clk, .shell] u))
      ∧ (∀ sl ew rw x, s.shell.held = [(sl, ew, rw)] → entryOf ew.toNat = some x → s.shell.frozen = false ∨ f.manDeadline + 8 ≤ max s.clk.fab t.fab →
        slot.toNat < b.shape.slots → e.step = b.step →
        ∃ u, exec (.manifestEntryWrite t slot entry record) s = .next u ∧ u.shell.held = [] ∧ u.shell.serving = s.shell.serving ∧ s.onlyChanges [.clk, .shell] u
          ∧ u.shell.building = some { b with cells := tput slot.toNat (e, tokRecordOf record.toNat) (if x.step = b.step ∧ sl < b.shape.slots then tput sl (x, tokRecordOf rw.toNat) b.cells else b.cells) })
      ∧ (s.shell.frozen = true → max s.clk.fab t.fab < f.manDeadline + 8 → ∃ u, exec (.manifestEntryWrite t slot entry record) s = .next u
        ∧ u.shell.building = s.shell.building ∧ u.shell.serving = s.shell.serving
        ∧ u.shell.held = s.shell.held ++ [(slot.toNat, BitVec.ofNat 512 e.toNat, BitVec.ofNat 256 (tokRecordOf record.toNat).toNat)]
        ∧ s.onlyChanges [.clk, .shell] u))
    ∧ (s.homed slot.toNat = true → s.outcomeKnown slot.toNat = false → exec (.manifestEntryWrite t slot entry record) s = .next (s.at t))

/-- THE PROGRAM'S READS (R28, R30, R34, R43, R418): a read returns the entry or the two records of the buffer that serves;
IDLE content beyond N, and with STEP 0 before a shape, in reset and in skim mode. An uncorrectable error of a slot below N
returns a DRY entry with BUFFER_ECC, or an IDLE record, then and in every later read of the step, is logged, and runs the slot
dry where its step is in flight; a correctable one is counted. A read in the guard band is served as any other, is logged, and
runs its slot dry, in the step whose entry it returned (a read of two records is logged once for each, the model's choice,
notes/assumptions/134.md). -/
def Obligations.ProgramReads : Prop :=
  ∀ (s : State) (t : Time),
    (s.readBuffer = none → ∀ (slot : BitVec 12) (pair : BitVec 11) (x y : Ecc),
      (∃ u, exec (.manifestRead t slot x) s = .next u ∧ u.shell = { s.shell with manData := BitVec.ofNat 512 ({} : Entry).toNat }
        ∧ s.onlyChanges [.clk, .shell] u)
      ∧ ∃ u, exec (.tokenPortRead t pair x y) s = .next u
        ∧ u.shell = { s.shell with tokData := BitVec.ofNat 512 (({} : TokRecord).toNat + 2 ^ 256 * ({} : TokRecord).toNat) }
        ∧ s.onlyChanges [.clk, .shell] u)
    ∧ ∀ b, s.readBuffer = some b →
      let guard : Shape → Nat → Nat → LogReq := fun f slot port => ⟨max s.now t.aon, errGuardRead, some slot,
        BitVec.ofNat 32 ((((max s.clk.fab t.fab : Nat) : Int) - (f.manDeadline : Int)) % 2 ^ 32).toNat, BitVec.ofNat 32 b.step, BitVec.ofNat 32 port⟩
      (∀ (slot : BitVec 12) (x : Ecc), ∃ u, exec (.manifestRead t slot x) s = .next u
        ∧ u.shell.manData = BitVec.ofNat 512 (if eccFatal x = true ∧ slot.toNat < b.shape.slots then
            { kind := .dry, dryCause := dryBufferEcc, noAdapter := false }
          else if slot.toNat < b.shape.slots then (b.entryAt slot.toNat).1 else { step := b.step } : Entry).toNat
        ∧ ((s.at t).inGuard = false → x = .clean ∨ b.shape.slots ≤ slot.toNat →
            u.shell = { s.shell with manData := u.shell.manData } ∧ s.onlyChanges [.clk, .shell] u)
        ∧ ((s.at t).inGuard = false → x = .correctable → slot.toNat < b.shape.slots →
            u.shell = { s.shell with manData := u.shell.manData, corrected := s.shell.corrected + 1 } ∧ s.onlyChanges [.clk, .shell] u)
        ∧ (eccFatal x = true → slot.toNat < b.shape.slots → bit u.regs.errStatus.toNat 0 = true
          ∧ u.shell.serving = some { b with cells := tput slot.toNat ({ kind := .dry, dryCause := dryBufferEcc, noAdapter := false }, {}) b.cells }
          ∧ (s.shell.started = true → b.step = s.shell.step → (s.entry slot.toNat).kind = .live → s.reqs.settled.contains slot.toNat = false →
              s.dryOf slot.toNat = none → u.dryOf slot.toNat = some dryBufferEcc))
        ∧ ((s.at t).inGuard = true →
          (x = .clean ∨ b.shape.slots ≤ slot.toNat → ∀ f, s.shapeNow = some f → u.log = s.log.ask (guard f slot.toNat 0))
          ∧ (b.step ≠ s.shell.step → (tget slot.toNat u.shell.dryNext).isSome = true)
          ∧ (b.step = s.shell.step → x = .clean ∨ x = .correctable → (s.entry slot.toNat).kind = .live → s.reqs.settled.contains slot.toNat = false →
              s.dryOf slot.toNat = none → u.dryOf slot.toNat = some dryCrossing))
        ∧ s.onlyChanges [.clk, .shell, .reqs, .regs, .log] u)
      ∧ ∀ (pair : BitVec 11) (x y : Ecc), ∃ u, exec (.tokenPortRead t pair x y) s = .next u
        ∧ u.shell.tokData = BitVec.ofNat 512
          ((if eccFatal x = true ∧ 2 * pair.toNat < b.shape.slots then {} else (b.readAt (2 * pair.toNat)).2 : TokRecord).toNat
            + 2 ^ 256 * (if eccFatal y = true ∧ 2 * pair.toNat + 1 < b.shape.slots then {} else (b.readAt (2 * pair.toNat + 1)).2 : TokRecord).toNat)
        ∧ ((s.at t).inGuard = false → x = .clean → y = .clean → u.shell = { s.shell with tokData := u.shell.tokData } ∧ s.onlyChanges [.clk, .shell] u)
        ∧ ((eccFatal x = true ∧ 2 * pair.toNat < b.shape.slots) ∨ (eccFatal y = true ∧ 2 * pair.toNat + 1 < b.shape.slots) → bit u.regs.errStatus.toNat 0 = true)
        ∧ ((s.at t).inGuard = true →
          (x = .clean → y = .clean → ∀ f, s.shapeNow = some f → u.log = (s.log.ask (guard f (2 * pair.toNat) 1)).ask (guard f (2 * pair.toNat + 1) 1))
          ∧ (b.step ≠ s.shell.step → (tget (2 * pair.toNat) u.shell.dryNext).isSome = true ∧ (tget (2 * pair.toNat + 1) u.shell.dryNext).isSome = true)
          ∧ (b.step = s.shell.step → x = .clean → y = .clean → ∀ i ∈ [2 * pair.toNat, 2 * pair.toNat + 1], (s.entry i).kind = .live →
              s.reqs.settled.contains i = false → s.dryOf i = none → u.dryOf i = some dryCrossing))
        ∧ s.onlyChanges [.clk, .shell, .reqs, .regs, .log] u

/-- HEADER BEATS (R35, R37, R41, R418): a header that passes the checks of R37 is queued and its position covers its
entries. One that fails a check is queued as refused: its group is dropped with what is stored of it, every LIVE slot of
the group that has no mark and no commit runs dry with TILE_ERROR, and TILE_REFUSED is logged and pulsed. A header of a
dropped group is queued as refused, and one later than E + A too: it and every later tile of its group are dropped, and what
the group has stored stands. With 256 pending it is discarded, logged and its slots run dry.
Before the first step after a shape a beat is counted and changes nothing else (after the shape's acceptance, the model's
choice, notes/assumptions/135.md). -/
def Obligations.HeaderBeatsQueued : Prop :=
  ∀ (s : State) (t : Time) (hdr : BitVec 512),
    (s.inRst 0 = true → exec (.headerBeat t hdr) s = .next (s.at t))
    ∧ (s.inRst 0 = false → s.ingests = none → ∃ u, exec (.headerBeat t hdr) s = .next u
      ∧ u.shell = { s.shell with dropped := s.shell.dropped + 1 } ∧ s.onlyChanges [.clk, .shell] u)
    ∧ ∀ f, s.ingests = some f → ∃ u, exec (.headerBeat t hdr) s = .next u ∧ s.onlyChanges [.clk, .shell, .str, .ren, .reqs, .regs, .log] u
      ∧ (256 ≤ s.shell.headers.length → u.shell.headers = s.shell.headers ∧ u.shell.errPulses = s.shell.errPulses + 1
        ∧ bit u.regs.errStatus.toNat 0 = true)
      ∧ (s.shell.headers.length < 256 →
        (f.ingestEnd + f.xallow < max s.clk.fab t.fab → (u.group (headerOf hdr.toNat).group).cut = true
          ∧ u.shell.tiles = s.shell.tiles ∧ u.shell.dry = s.shell.dry ∧ s.onlyChanges [.clk, .shell] u
          ∧ (u.group (headerOf hdr.toNat).group).late = some (max s.clk.fab t.fab - (f.ingestEnd + f.xallow))
          ∧ u.shell.headers = s.shell.headers ++ (if (headerOf hdr.toNat).beats = 0 then [] else [{ hdr := headerOf hdr.toNat, refused := true }]))
        ∧ (max s.clk.fab t.fab ≤ f.ingestEnd + f.xallow →
          ((s.group (headerOf hdr.toNat).group).dropped = true ∨ (s.group (headerOf hdr.toNat).group).cut = true → u.shell = { s.shell with
            headers := s.shell.headers ++ (if (headerOf hdr.toNat).beats = 0 then [] else [{ hdr := headerOf hdr.toNat, refused := true }]) })
          ∧ ((s.group (headerOf hdr.toNat).group).dropped = false → (s.group (headerOf hdr.toNat).group).cut = false → s.headerCheck f hdr.toNat = 0 →
            u.shell.headers = s.shell.headers ++ (if (headerOf hdr.toNat).beats = 0 then [] else [{ hdr := headerOf hdr.toNat }])
            ∧ (u.position (headerOf hdr.toNat).group ((headerOf hdr.toNat).kind == 2) (headerOf hdr.toNat).posn).covered
              = (headerOf hdr.toNat).chunkFirst + (headerOf hdr.toNat).chunkLen
            ∧ u.shell.tiles = s.shell.tiles ∧ u.shell.dry = s.shell.dry ∧ s.onlyChanges [.clk, .shell] u)
          ∧ ((s.group (headerOf hdr.toNat).group).dropped = false → (s.group (headerOf hdr.toNat).group).cut = false → s.headerCheck f hdr.toNat ≠ 0 →
            u.shell.headers = s.shell.headers ++ (if (headerOf hdr.toNat).beats = 0 then [] else [{ hdr := headerOf hdr.toNat, refused := true }])
            ∧ (u.group (headerOf hdr.toNat).group).dropped = true ∧ u.shell.errPulses = s.shell.errPulses + 1
            ∧ bit u.regs.errStatus.toNat 0 = true
            ∧ (∀ T ∈ u.shell.tiles, T ∈ s.shell.tiles ∧ ¬ (T.step = s.shell.step ∧ T.group = (headerOf hdr.toNat).group))
            ∧ (∀ i ∈ groupSlots f (headerOf hdr.toNat).group, (s.entry i).kind = .live → s.reqs.settled.contains i = false →
              s.dryOf i = none → u.dryOf i = some dryTileError))))

/-- DATA BEATS (R20, R35, R36, R38, R41, R48, R61): a beat belongs to the oldest queued header. Of a refused header or a dropped
group it is counted and stores nothing; later than E + A its tile and every later tile of the group are dropped. The first
beat of a tile with kept slots finds its rows, the lowest free run of the plan's areas, or the group finds no room: it is
dropped and its LIVE slots run dry with VAT_FULL. From then on the kept slots' bytes follow one another in the stored tile, each
row of a bank that is ON is written once, whole, under one rise of its tag, every other byte of the vat stays, and the last
beat lands the tile. A beat with no header queued is dropped, counted and logged. -/
def Obligations.DataBeatsStored : Prop :=
  ∀ (s : State) (t : Time) (data : BitVec 8192),
    (s.inRst 0 = true → exec (.dataBeat t data) s = .next (s.at t))
    ∧ (s.inRst 0 = false → s.ingests = none → ∃ u, exec (.dataBeat t data) s = .next u
      ∧ u.shell = { s.shell with dropped := s.shell.dropped + 1 } ∧ s.onlyChanges [.clk, .shell] u)
    ∧ ∀ f, s.ingests = some f → ∃ u, exec (.dataBeat t data) s = .next u
      ∧ s.onlyChanges [.clk, .shell, .vat, .vatMem, .str, .ren, .coll, .reqs, .regs, .log] u
      ∧ (s.shell.headers = [] → u.shell = { s.shell with orphans := s.shell.orphans + 1, errPulses := s.shell.errPulses + 1 }
        ∧ bit u.regs.errStatus.toNat 0 = true ∧ s.onlyChanges [.clk, .shell, .regs, .log] u)
      ∧ ∀ x r, s.shell.headers = x :: r →
        (max s.clk.fab t.fab ≤ f.ingestEnd + f.xallow → x.refused = true ∨ (s.group x.hdr.group).dropped = true ∨ (s.group x.hdr.group).cut = true →
          u.shell = { s.shell with headers := if x.beats + 1 < x.hdr.beats then { x with beats := x.beats + 1 } :: r else r } ∧ s.onlyChanges [.clk, .shell] u)
        ∧ (f.ingestEnd + f.xallow < max s.clk.fab t.fab →
          (u.group x.hdr.group).cut = true ∧ (u.group x.hdr.group).late = some (max s.clk.fab t.fab - (f.ingestEnd + f.xallow))
          ∧ u.shell.tiles = s.shell.tiles.filter (fun y => some y.num != x.tile) ∧ u.shell.dry = s.shell.dry
          ∧ u.shell.headers = (if x.beats + 1 < x.hdr.beats then { x with beats := x.beats + 1, refused := true, tile := none } :: r else r)
          ∧ s.onlyChanges [.clk, .shell] u)
        ∧ (x.refused = false → max s.clk.fab t.fab ≤ f.ingestEnd + f.xallow → (s.group x.hdr.group).dropped = false → (s.group x.hdr.group).cut = false →
          let kept := s.keptSlots f x.hdr.group (x.hdr.kind == 2) x.hdr.posn
          let rows := storedRows f.format x.hdr.chunkLen kept.length
          (x.beats ≠ 0 → x.tile = none → u.vat = s.vat)
          ∧ (x.beats = 0 → kept = [] → u.vat = s.vat
            ∧ ((s.group x.hdr.group).dealt.isSome = true ∨ s.dealable ≠ [] → u.shell.tiles = s.shell.tiles))
          ∧ (x.beats = 0 → kept ≠ [] → (s.group x.hdr.group).dealt.isSome = true → s.findRoom (x.hdr.kind == 2) rows = none →
            u.vat = s.vat ∧ (u.group x.hdr.group).dropped = true ∧ (u.group x.hdr.group).full = true ∧ bit u.regs.errStatus.toNat 0 = true
            ∧ ∀ i ∈ groupSlots f x.hdr.group, (s.entry i).kind = .live → s.reqs.settled.contains i = false → (u.dryOf i).isSome = true)
          ∧ ∀ n T a,
            ((x.beats ≠ 0 ∧ x.tile = some n ∧ s.shell.tiles.find? (fun y => y.num == n) = some T)
              ∨ (x.beats = 0 ∧ kept ≠ [] ∧ (s.group x.hdr.group).dealt.isSome = true ∧ n = s.shell.nextTile ∧ (∀ y ∈ s.shell.tiles, y.num ≠ n)
                ∧ s.findRoom (x.hdr.kind == 2) rows = some (a, T.firstRow)
                ∧ T = { num := n, step := s.shell.step, group := x.hdr.group, draft := x.hdr.kind == 2, posn := x.hdr.posn, chunkFirst := x.hdr.chunkFirst,
                        chunkLen := x.hdr.chunkLen, area := a.num, firstRow := T.firstRow, rows := rows, kept := kept })) →
            s.tileArea T = some a → s.vat.rangeOk a T.firstRow T.rows = true → Memory.wf s.vat.mem = true → Memory.wf s.vat.tags = true →
            let last := x.beats + 1 = x.hdr.beats
            let new := beatBytes f x.hdr T.kept x.beats (leBytes 1024 data.toNat)
            let bytes := T.pendingBytes new (decide last)
            let k := bytes.length / 128
            let pra := fun (i : Nat) => s.vat.areaPra a.firstBank a.nbanks (T.firstRow + T.written + i)
            (new.Pairwise (fun p q => p.1 < q.1) → (∀ p ∈ new, T.written * 128 + T.buf.length ≤ p.1) →
              ∀ p ∈ new, bytes.getD (p.1 - T.written * 128) 0 = p.2)
            ∧ (last → T.rows * 128 ≤ T.written * 128 + bytes.length)
            ∧ (∀ A, (∀ i, i < k → pra i ≠ A / 128) → Memory.read A u.vat.mem = Memory.read A s.vat.mem)
            ∧ (∀ i, i < k → (∀ j, j < k → j ≠ i → pra j ≠ pra i) →
              (∀ o, o < 128 → Memory.read (pra i * 128 + o) u.vat.mem =
                (if s.vat.bankOn (pra i / 2048) = true then bytes.getD (128 * i + o) 0 else Memory.read (pra i * 128 + o) s.vat.mem))
              ∧ u.vat.tag (pra i) = (if s.vat.bankOn (pra i / 2048) = true then s.vat.tag (pra i) + 1 else s.vat.tag (pra i)))
            ∧ u.shell.tiles.find? (fun y => y.num == n) = some (if last then { T with landed := true, written := T.rows, buf := [] }
                else { T with written := T.written + k, buf := bytes.drop (k * 128) })
            ∧ u.shell.headers = (if x.beats + 1 < x.hdr.beats then { x with beats := x.beats + 1, tile := some n } :: r else r))

/-- THE INGEST DEADLINE (R39): at E + A of the step, once, every group with a position that stores a value and is not
complete is dropped, and every LIVE slot of it that has no commit is dry; where every such position is complete nothing is
dropped and no slot runs dry. -/
def Obligations.DeadlineDecides : Prop :=
  ∀ (s : State) (t : Time) (f : Shape), s.ingests = some f →
    (s.shell.deadline = true ∨ max s.clk.fab t.fab < f.ingestEnd + f.xallow → exec (.ingestDeadline t) s = .next (s.at t))
    ∧ (s.shell.deadline = false → f.ingestEnd + f.xallow ≤ max s.clk.fab t.fab → ∃ u, exec (.ingestDeadline t) s = .next u
      ∧ u.shell.deadline = true ∧ s.onlyChanges [.clk, .shell, .str, .ren, .coll, .reqs] u
      ∧ (∀ g draft posn, g < f.slots / f.groupSize → posn < (if draft then f.draftRows else f.feedWidth) →
        (s.group g).dropped = false → s.keptSlots f g draft posn ≠ [] → (s.position g draft posn).landed < f.shardLen →
        (u.group g).dropped = true
        ∧ ∀ i ∈ groupSlots f g, (s.entry i).kind = .live → s.reqs.settled.contains i = false → (u.dryOf i).isSome = true)
      ∧ ((∀ g draft posn, g < f.slots / f.groupSize → posn < (if draft then f.draftRows else f.feedWidth) →
          (s.group g).dropped = true ∨ s.keptSlots f g draft posn = [] ∨ f.shardLen ≤ (s.position g draft posn).landed) →
        u.shell = { s.shell with deadline := true } ∧ u.str = s.str ∧ u.reqs = s.reqs))

/-- THE BUILD AND ITS CUTOFF (R198, R302, R320): firmware at READY builds the next step's entries for its homed slots while
the step's manifest has not frozen; where it homes none, no entry is written and the epoch
counts the build, and with no request admitted every homed slot is written IDLE.
From Dm - 1,024 on the cutoff passes once. Neither touches the step in flight, nor which step the build buffer serves. -/
def Obligations.BuildAndCutoff : Prop :=
  ∀ (s : State) (t : Time), s.duty 2 = true → s.shell.frozen = false → ∀ b, s.shell.building = some b →
    (∃ u, exec (.manifestBuild t) s = .next u
      ∧ u.shell.current = s.shell.current ∧ u.shell.step = s.shell.step ∧ u.shell.frozen = false
      ∧ u.shell.building.map (fun c => (c.step, c.shape)) = some (b.step, b.shape)
      ∧ (s.reqs.nextHome = none → s.reqs.home.2 = 0 → u.shell = { s.shell with tiles := u.shell.tiles } ∧ u.rat.builds = s.rat.builds + 1)
      ∧ (s.reqs.nextHome = none → s.reqs.table = [] → s.rounds = none → s.shell.held = [] → b.step = s.shell.step + 1 →
        ∀ i, s.reqs.home.1 ≤ i → i < s.reqs.home.1 + s.reqs.home.2 → i < b.shape.slots → u.hasIdle i b.step = true)
      ∧ s.onlyChanges [.clk, .shell, .str, .drw, .ren, .churn, .skim, .coll, .reqs, .rat, .stw, .mbox, .regs, .log, .ports] u)
    ∧ ∀ f, s.shapeNow = some f → s.shell.cutoff = false →
      (f.manDeadline ≤ max s.clk.fab t.fab + 1024 → ∃ u, exec (.maskCutoff t) s = .next u
        ∧ u.shell.cutoff = true ∧ u.shell.current = s.shell.current ∧ u.shell.step = s.shell.step ∧ u.shell.frozen = false
        ∧ (s.reqs.home.2 = 0 → u.shell = { s.shell with cutoff := true })
        ∧ s.onlyChanges [.clk, .shell, .str, .ren, .churn, .skim, .coll, .reqs, .stw, .mbox, .regs, .log, .ports] u)
      ∧ (max s.clk.fab t.fab + 1024 < f.manDeadline → exec (.maskCutoff t) s = .next (s.at t))

/-- SURVIVORS (R86, R92, R93): the floor of a member is the highest pass-1 bucket such that the counts of its buckets from there
up sum to at least k, and is undefined until it has counted k valid entries. A floor update of a row whose first pass has
begun counts the entries that came since the last one in the member's histogram: those that meet the floor that stood are
survivors, kept with their native key and index up to the row's share, the floor is formed anew over all that is counted, and
SOVF is set where the survivors exceed that share; no other row changes. An update of no row, of a row that is not landing or
has not begun, of a retained row or a slab look, or one that counts entries not written, changes nothing.

A ROW'S SELECTION (R19, R97, R99, R103, R115, R197, R412): a row of 1 ≤ k ≤ 256 whose first pass has begun, landed with its
whole group, its masks ready and nothing wrong, ends: it leaves its strainers, and its list and record are this die's part, and
the selection's result where no rounds run. A row of k = 0 or above 256 stays retained and gives a record with no list; without
a WORK area its slot runs dry instead. Where an uncorrectable error is met the row ends, and its part is dry with ROW_ECC; one
that was corrected changes no result. No other row changes, but that work which waits for buffers may begin. A row that is not
due, or whose masks are not ready on a participant, waits. -/
def Obligations.RowsSelected : Prop :=
  ((∀ (width k : Nat) (es : List RowEntry), 1 ≤ k →
      let h := (es.filter (fun e => e.kn != 0)).foldl (fun h e => countBucket (firstBucket width e) h) []
      (floorOf k h = none ↔ (es.filter (fun e => e.kn != 0)).length < k)
      ∧ ∀ f, floorOf k h = some f →
        k ≤ ((es.filter (fun e => e.kn != 0)).filter (fun e => decide (f ≤ firstBucket width e))).length
        ∧ ∀ g, f < g → ((es.filter (fun e => e.kn != 0)).filter (fun e => decide (g ≤ firstBucket width e))).length < k)
    ∧ ∀ (s : State) (t : Time) (slot : BitVec 12) (posn : Nat) (strainer : BitVec 4) (counted : Nat),
      (s.row slot.toNat posn = none → exec (.floorUpdate t slot posn strainer counted) s = .next (s.at t))
      ∧ ∀ r m x, s.row slot.toNat posn = some r → r.team.idxOf? strainer.toNat = some m →
        r.members.find? (fun y => y.strainer == strainer.toNat) = some x →
        (r.stage ≠ .landing ∨ r.begun = false ∨ retainedK r.k = true ∨ r.slab.isSome = true ∨ counted < x.counted ∨ (s.memberEntries r m).length < counted →
          exec (.floorUpdate t slot posn strainer counted) s = .next (s.at t))
        ∧ (r.stage = .landing → r.begun = true → retainedK r.k = false → r.slab = none → x.counted ≤ counted → counted ≤ (s.memberEntries r m).length →
          let seen := fun (n : Nat) => ((s.memberEntries r m).take n).filter (fun e => e.kn != 0)
          let hist := fun (l : List RowEntry) (h : List (Nat × Nat)) => l.foldl (fun h e => countBucket (firstBucket (s.rowEnv r).width e) h) h
          let new := (((s.memberEntries r m).take counted).drop x.counted).filter (fun e => e.kn != 0)
          let all := x.survivors ++ (new.filter (fun e => survives (s.rowEnv r).width x.floor e)).map (fun e => (e.kn, e.idx))
          ∃ u y, exec (.floorUpdate t slot posn strainer counted) s = .next u
          ∧ y.counted = counted ∧ y.strainer = x.strainer ∧ y.hist = hist new x.hist
          ∧ (x.hist = hist (seen x.counted) [] → y.hist = hist (seen counted) [])
          ∧ y.floor = floorOf r.k y.hist
          ∧ y.survivors = all.take (if 2 ≤ s.rowsOn strainer.toNat then 2048 else 4096)
          ∧ u.row slot.toNat posn = some { r with members := lmodIf (fun z => z.strainer == x.strainer) (fun _ => y) r.members,
                                                  sovf := r.sovf || decide ((if 2 ≤ s.rowsOn strainer.toNat then 2048 else 4096) < all.length) }
          ∧ (∀ i j, ¬ (i = slot.toNat ∧ j = posn) → u.row i j = s.row i j) ∧ s.onlyChanges [.clk, .str] u))
    ∧
  (∀ (s : State) (t : Time) (slot : BitVec 12) (posn : Nat) (found : List RowFault) (r : Row), s.row slot.toNat posn = some r →
      r.slot = slot.toNat → r.posn = posn → r.slab = none →
      let ready := (s.reqOfSlot r.slot).isSome = true ∨ s.masksReady r.slot r.drafts r.shape.shardBase r.shape.shardLen = true
      (s.rowDue r = false ∨ ¬ready → exec (.listSelectionDone t slot posn found) s = .next (s.at t))
      ∧ (s.rowDue r = true → ready →
        let q : Row := { r with k := s.rowK r.slot r.drafts }
        let es := s.rowEntries q
        ∃ u, exec (.listSelectionDone t slot posn found) s = .next u
          ∧ s.otherRows u slot.toNat posn
          ∧ s.onlyChanges [.clk, .shell, .vat, .vatMem, .str, .ren, .coll, .reqs, .regs, .log] u
          ∧ (found.any RowFault.fatal = true → (s.roundsAt r.step).isNone = true → u.row slot.toNat posn = none
            ∧ (u.sel r.step slot.toNat posn).map (fun x => (x.own, x.merged)) = some (some (dryPart dryRowEcc r.req), some (dryPart dryRowEcc r.req)))
          ∧ (found.any RowFault.fatal = false → (∀ T ∈ s.rowTiles q, s.tileUp T = true ∧ s.tileInArea T = true) → s.partnerLost q = false →
            (r.step ≠ s.shell.step ∨ s.dryOf r.slot = none) →
            (retainedK q.k = false →
              let later := s.laterReads q (s.rowEnv q).width es
              let l := selectList (s.rowEnv q).width q.k later.1 (rowFigures es) later.2 0
              let part : Part := { list := l.1, res := { l.2 with valid := (rowFigures es).1 }, req := r.req }
              u.row slot.toNat posn = none ∧ u.str.record = part.res.toBits
              ∧ (u.sel r.step slot.toNat posn).map (fun x => (x.k, x.own)) = some (q.k, some part)
              ∧ ((s.roundsAt r.step).isNone = true → (u.sel r.step slot.toNat posn).map (fun x => x.merged) = some (some part)))
            ∧ (retainedK q.k = true → s.hasWork = true →
              let part : Part := { list := [], res := retainedRecord (rowFigures es), req := r.req }
              (u.row slot.toNat posn).map Row.unstarted = some ({ q with stage := .retained, res := part.res } : Row).unstarted
              ∧ (u.sel r.step slot.toNat posn).map (fun x => (x.k, x.own)) = some (q.k, some part)
              ∧ ((s.roundsAt r.step).isNone = true → (u.sel r.step slot.toNat posn).map (fun x => x.merged) = some (some part)))
            ∧ (retainedK q.k = true → s.hasWork = false → (s.roundsAt r.step).isNone = true → u.row slot.toNat posn = none
              ∧ (u.sel r.step slot.toNat posn).map (fun x => x.merged) = some (some (dryPart dryVatFull r.req))))))

/-- EXTEND BLOCKS (R104, R105, R109, R412) and ROW PASSES (R107, R108, R109, R133): of a retained row, with a WORK area, a
consumer may ask for the next block, or for one pass the row has not made; what is asked for waits in order of request, and
runs at once where nothing else waits and the row's strainers have a buffer. The first block in work, when done, is kept in the
row and given to its consumer, the block below the cursor with its last entry as the next cursor; the first pass in work
leaves its histogram among the row's passes. A pass asked for or made already is not asked for again. An uncorrectable error
ends the row with ROW_ECC. No other row changes, but that work which waits may begin. Of a sharded row only the root asks for
blocks. -/
def Obligations.RetainedRowWork : Prop :=
  ∀ (s : State) (t : Time) (slot : BitVec 12) (posn : Nat) (r : Row), s.row slot.toNat posn = some r → r.slot = slot.toNat → r.posn = posn →
    r.stage = .retained →
    let up := ∀ T ∈ s.rowTiles r, s.tileUp T = true ∧ s.tileInArea T = true
    let asked := fun (w : RowWork) => ({ r with asks := r.asks ++ [{ work := w, order := s.str.asked }] } : Row)
    (s.hasWork = true → (s.roundsAt r.step).isNone = true → ∃ u, exec (.extendBlock t slot posn) s = .next u
      ∧ (u.row slot.toNat posn).map Row.unstarted = some (asked (.block r.nextBlock)).unstarted ∧ u.str.asked = s.str.asked + 1
      ∧ (r.slab = none → (∀ q ∈ s.str.rows, q.asks = [] ∧ (q.slot = r.slot → q.posn = r.posn → q = r)) →
          u.row slot.toNat posn = some { r with asks := [{ work := .block r.nextBlock, order := s.str.asked, running := s.str.free r.team }] })
      ∧ s.otherRows u slot.toNat posn ∧ s.onlyChanges [.clk, .str] u)
    ∧ (∀ c, s.hasWork = true → s.roundsAt r.step = some c → c.parent ≠ 0xFFFF → exec (.extendBlock t slot posn) s = .next (s.at t))
    ∧ (∀ c, s.hasWork = true → s.roundsAt r.step = some c → c.parent = 0xFFFF → ∃ u, exec (.extendBlock t slot posn) s = .next u
      ∧ (u.row slot.toNat posn).map (fun x => x.asks.map (fun a => (a.work, a.order))) = some ((asked (.block r.nextBlock)).asks.map (fun a => (a.work, a.order))))
    ∧ (∀ (found : List RowFault) (o n : Nat), r.asks.findSome? (fun a => match a.work with | .block n => if a.running then some (a.order, n) else none | .pass _ => none) = some (o, n) →
      ∃ u, exec (.extendBlockDone t slot ⟨posn, found⟩) s = .next u
      ∧ (found.any RowFault.fatal = false → up → (s.roundsAt r.step).isNone = true →
          let l := selectBlock (s.rowEnv r).width r.k n r.cursor (s.rowEntries r)
          (u.row slot.toNat posn).map Row.unstarted = some ({ r with
              asks := r.asks.filter (fun a => a.order != o), made := some n, list := l.1, res := { r.res with block := n }
              cursor := match (l.1.take l.2.count).getLast? with | some c => some c | none => r.cursor } : Row).unstarted
          ∧ (r.step ≠ s.shell.step ∨ s.dryOf r.slot = none →
              (u.sel r.step r.slot posn).map (fun x => x.block) = some (some { list := l.1, res := l.2, req := r.req }))
          ∧ (found = [] → s.onlyChanges [.clk, .str, .coll] u))
      ∧ (found.any RowFault.fatal = true → (s.roundsAt r.step).isNone = true → u.row slot.toNat posn = none
          ∧ (u.sel r.step r.slot posn).map (fun x => x.merged) = some (some (dryPart dryRowEcc r.req)))
      ∧ s.otherRows u slot.toNat posn ∧ s.onlyChanges [.clk, .shell, .vat, .vatMem, .str, .ren, .coll, .reqs, .regs, .log] u)
    ∧ (∀ q, s.hasWork = true → r.asks.any (fun a => a.work == .pass q) = false → r.passes.any (fun p => p.1 == q) = false →
      ∃ u, exec (.rowPass t slot posn q) s = .next u
      ∧ (u.row slot.toNat posn).map Row.unstarted = some (asked (.pass q)).unstarted ∧ u.str.asked = s.str.asked + 1
      ∧ (r.slab = none → (∀ q ∈ s.str.rows, q.asks = [] ∧ (q.slot = r.slot → q.posn = r.posn → q = r)) →
          u.row slot.toNat posn = some { r with asks := [{ work := .pass q, order := s.str.asked, running := s.str.free r.team }] })
      ∧ s.otherRows u slot.toNat posn ∧ s.onlyChanges [.clk, .str] u)
    ∧ (∀ q, s.hasWork = true → (r.asks.any (fun a => a.work == .pass q) = true ∨ r.passes.any (fun p => p.1 == q) = true) →
      exec (.rowPass t slot posn q) s = .next (s.at t))
    ∧ (∀ (found : List RowFault) (o : Nat) (q : PassReq), r.asks.findSome? (fun a => match a.work with | .pass q => if a.running then some (a.order, q) else none | .block _ => none) = some (o, q) →
      ∃ u, exec (.rowPassDone t slot ⟨posn, found⟩) s = .next u
      ∧ (found.any RowFault.fatal = false → up → (s.roundsAt r.step).isNone = true →
          (u.row slot.toNat posn).map Row.unstarted = some ({ r with asks := r.asks.filter (fun a => a.order != o), passes := r.passes ++ [(q, rowPassHist (s.rowEnv r).width (s.rowEnv r).base (s.rowEntries r) q)] } : Row).unstarted
          ∧ s.otherRows u slot.toNat posn ∧ (found = [] → s.onlyChanges [.clk, .str] u))
      ∧ (found.any RowFault.fatal = true → (s.roundsAt r.step).isNone = true → u.row slot.toNat posn = none
          ∧ (u.sel r.step r.slot posn).map (fun x => x.merged) = some (some (dryPart dryRowEcc r.req))))
    ∧ (∀ (c : Instr) (q : PassReq), (c = .extendBlock t slot posn ∨ c = .rowPass t slot posn q) → s.hasWork = false → (s.roundsAt r.step).isNone = true →
      ∃ u, exec c s = .next u ∧ u.row slot.toNat posn = none ∧ s.otherRows u slot.toNat posn
        ∧ (u.sel r.step slot.toNat posn).map (fun x => x.merged) = some (some (dryPart dryVatFull r.req)))

/-- DRAW (R126 to R132, R203 to R206, R409, R412): a draw is made once, over the merged selection of the slot's own request.
Over a list that is not dry it decides the commit and delivers its record: a token of the list that the walk accepts, or
none, after at most the rechecks allowed. Over an unsharded retained row whose passes are made it decides likewise, and
the row ends. Over a sharded retained row it commits the entry that the row set's walks chose, asks for another while rechecks
are left where the walk of the grammar rejects it, or commits none. An uncorrectable error leaves the selection dry with ROW_ECC, and the slot with it, and decides nothing.
With nothing to draw, or a dry slot, nothing changes. -/
def Obligations.DrawsDecide : Prop :=
  (∀ (s : State) (t : Time) (slot : BitVec 12) (found : List RowFault), s.reqOfSlot slot.toNat = none → exec (.draw t slot found) s = .next (s.at t))
  ∧ ∀ (s : State) (t : Time) (slot : BitVec 12) (found : List RowFault) (r : Request), s.reqOfSlot slot.toNat = some r →
    (s.drawDue slot.toNat r = false ∨ s.mergedSel slot.toNat r.handle (fun _ => true) = none → exec (.draw t slot found) s = .next (s.at t))
    ∧ ∀ x p, s.drawDue slot.toNat r = true → s.mergedSel slot.toNat r.handle (fun _ => true) = some (x, p) →
      (p.dryCause ≠ 0 ∨ (x.step = s.shell.step ∧ (s.dryOf slot.toNat).isSome = true) ∨ s.lateDrafts x = true →
        exec (.draw t slot found) s = .next (s.at t))
      ∧ (p.dryCause = 0 → (x.step = s.shell.step → s.dryOf slot.toNat = none) → s.lateDrafts x = false →
        ∃ u, exec (.draw t slot found) s = .next u
        ∧ s.onlyChanges [.clk, .shell, .vat, .vatMem, .str, .drw, .ren, .coll, .reqs, .regs, .log] u
        ∧ (found.any RowFault.fatal = true → u.reqs.decided = s.reqs.decided
          ∧ (∀ y, s.sel x.step x.slot x.posn = some y →
              u.sel x.step x.slot x.posn = some { y with merged := y.merged.map (fun q => dryPart dryRowEcc q.req) })
          ∧ (x.step = s.shell.step → (s.entry slot.toNat).kind = .live → s.reqs.settled.contains slot.toNat = false →
              u.dryOf slot.toNat = some dryRowEcc))
        ∧ (found.any RowFault.fatal = false → retainedK x.k = false →
          let d := s.listDraw x.step slot.toNat [] p
          let w := d.record p.res.selstat (isGreedy (s.progOf slot.toNat) r.sampling) (p.res.valid != 0) r.rstep
            (invTOf (s.progOf slot.toNat) r.sampling.param)
          u.reqs.decided = s.reqs.decided.filter (fun y => y.slot != slot.toNat) ++ [d.decided slot.toNat w]
          ∧ tget slot.toNat u.drw.records = some w.toBits
          ∧ (∀ c, d.res.chosen = some c → c.1 ∈ p.list ∧ s.resolve slot.toNat [] c.1.id = some c.2.2)
          ∧ d.res.rechecks ≤ s.recheckMax x.step)
        ∧ (∀ row d, found.any RowFault.fatal = false → retainedK x.k = true → (s.roundsAt x.step).isNone = true → s.retained slot.toNat x.posn = some row →
          s.walkRow row p.res = .ok d →
          let w := d.record p.res.selstat (isGreedy (s.progOf slot.toNat) r.sampling) (p.res.valid != 0) r.rstep
            (invTOf (s.progOf slot.toNat) r.sampling.param)
          u.reqs.decided = s.reqs.decided.filter (fun y => y.slot != slot.toNat) ++ [d.decided slot.toNat w]
          ∧ tget slot.toNat u.drw.records = some w.toBits ∧ u.row slot.toNat x.posn = none)
        ∧ (∀ c f, found.any RowFault.fatal = false → retainedK x.k = true → s.roundsAt x.step = some c → s.shapeNow = some f →
          let others := s.reqs.decided.filter (fun y => y.slot != slot.toNat)
          let drained := ∃ w, u.reqs.decided = others ++ [w] ∧ w.slot = slot.toNat ∧ w.toks = [] ∧ w.drained = true ∧ w.reason = endNoValidToken
          (p.drawn = [] → drained)
          ∧ ∀ e l, p.drawn = e :: l →
            (∀ st, s.resolve slot.toNat [] e.id = some st → ∃ w, u.reqs.decided = others ++ [w] ∧ w.slot = slot.toNat ∧ w.toks = [e.id]
              ∧ w.state = st ∧ w.rechecks = x.tries ∧ tget slot.toNat u.drw.records = some w.record.toBits)
            ∧ (s.resolve slot.toNat [] e.id = none → x.tries < s.recheckMax x.step → u.reqs.decided = s.reqs.decided)
            ∧ (s.resolve slot.toNat [] e.id = none → s.recheckMax x.step ≤ x.tries → drained)))

/-- VERIFY (R171 to R177, R412): once every merged result of a speculative slot is at its home, one decision is made: the
longest run of drafts that the acceptance rule of R173 takes, cut after a draft that ends the request, and at most one
token more; its record says how many drafts were fed and accepted and how many tokens are committed. Without a WORK area
the slot runs dry with VAT_FULL, and with ROW_ECC where an uncorrectable error is met. With a result missing nothing
changes. -/
def Obligations.VerificationsDecide : Prop :=
  ∀ (s : State) (t : Time) (slot : BitVec 12) (found : List RowFault) (r : Request) (f : Shape), s.reqOfSlot slot.toNat = some r → s.shapeNow = some f →
    ((s.entry slot.toNat).kind ≠ .live ∨ (s.entry slot.toNat).spec = false ∨ (s.entry slot.toNat).req ≠ r.handle ∨ s.decidedSlot slot.toNat = true
        ∨ (s.dryOf slot.toNat).isSome = true ∨ s.verifyIn f slot.toNat r = none → exec (.verify t slot found) s = .next (s.at t))
    ∧ ∀ v, (s.entry slot.toNat).kind = .live → (s.entry slot.toNat).spec = true → (s.entry slot.toNat).req = r.handle →
      s.decidedSlot slot.toNat = false → s.dryOf slot.toNat = none → 0 < (s.entry slot.toNat).feed → s.verifyIn f slot.toNat r = some v →
      (∀ p ∈ v.main ++ v.draft, p.dryCause = 0) → ∃ u, exec (.verify t slot found) s = .next u
        ∧ s.onlyChanges [.clk, .shell, .vat, .vatMem, .drw, .ren, .coll, .reqs, .regs, .log] u
        ∧ (s.reqs.settled.contains slot.toNat = false → s.hasWork = false → u.dryOf slot.toNat = some dryVatFull)
        ∧ (s.reqs.settled.contains slot.toNat = false → s.hasWork = true → found.any RowFault.fatal = true → u.dryOf slot.toNat = some dryRowEcc)
        ∧ (s.hasWork = true → found.any RowFault.fatal = false → ∃ d ver n more,
          u.reqs.decided = s.reqs.decided.filter (fun y => y.slot != slot.toNat) ++ [d] ∧ d.slot = slot.toNat
          ∧ d.toks = v.drafts.take n ++ more ∧ more.length ≤ 1 ∧ n ≤ v.drafts.length
          ∧ d.verify = some ver ∧ tget slot.toNat u.drw.records = some d.record.toBits ∧ tget slot.toNat u.drw.verifies = some ver
          ∧ ver.fed = v.drafts.length ∧ ver.accepted = n ∧ ver.ncommit = d.toks.length
          ∧ (let g := isGreedy (s.progOf slot.toNat) r.sampling
             let takes := fun (j : Nat) (x : TokenId) (row : VRow) (q : Option VRow) =>
               accepts (if g then 0 else s.uniformOf slot.toNat (1 + j) 0) (probAt (probsOf g row) x) (draftProb (q.map (probsOf g)) x x)
             (∀ j x row q, j < n → (s.verifyRows slot.toNat v)[j]? = some (x, row, q) → takes j x row q = true)
             ∧ ∀ x row q, (s.verifyRows slot.toNat v)[n]? = some (x, row, q) → takes n x row q = false
               ∨ (0 < n ∧ more = [] ∧ s.tokenEnd r (v.drafts.getD (n - 1) tokNone) (r.pathStates[n - 1]?) (r.outToks.length + n) ≠ 0)))

/-- COMMIT (R15, R18, R129, R206, R207, R282, R309, R310, R313, R316): CC1 commits a slot's outcome once, at READY while its
role is up. Of a request without a partner: a slot dry in step, or whose merged result is dry, commits nothing, and the
request stands where it stood; a decided slot adds the decided tokens to the output and moves the position, by the tokens of
a decoding step or by the prompt tokens fed, and the tokens go to the skimmer with the end reason, if one holds; with a stop
set and no end reason the request then waits for the verdict; a slot that stored no row moves on by FEED. With no outcome yet,
nothing changes. The decided tokens of a leader are its partner's too, in the partner's own slot. -/
def Obligations.CommitsSettle : Prop :=
  ∀ (s : State) (t : Time) (slot : BitVec 12),
    (s.duty 1 = false ∨ s.reqOfSlot slot.toNat = none → exec (.commit t slot) s = .next (s.at t))
    ∧ ∀ q r i, s.duty 1 = true → s.reqOfSlot slot.toNat = some q → s.leaderOf q = r → r.slot = some i →
      (s.reqs.settled.contains i = true → exec (.commit t slot) s = .next (s.at t))
      ∧ (s.reqs.settled.contains i = false → r.other = none → s.findReq r.handle = some r →
        let dry := (s.entry i).kind = .live ∧ (s.entry i).req = r.handle ∧ (s.dryOf i).isSome = true
        (¬ dry → s.mergedSel i r.handle (fun _ => true) = none → exec (.commit t slot) s = .next (s.at t))
        ∧ ∃ u, exec (.commit t slot) s = .next u
        ∧ s.onlyChanges [.clk, .shell, .str, .drw, .ren, .churn, .skim, .coll, .reqs, .rat, .stw, .mbox, .regs, .log, .ports] u
        ∧ (dry ∨ (∃ x p, s.mergedSel i r.handle (fun _ => true) = some (x, p) ∧ p.dryCause ≠ 0) → u.reqs.settled.contains i = true
          ∧ ∃ v, u.findReq r.handle = some v ∧ v.outToks = r.outToks ∧ v.fed = r.fed ∧ v.pos = r.pos ∧ v.rstep = r.rstep)
        ∧ (∀ x p d, ¬ dry → s.mergedSel i r.handle (fun _ => true) = some (x, p) → p.dryCause = 0 →
          s.reqs.decided.find? (fun d => d.slot == i) = some d →
          let fed := if r.last.isNone then x.posn + 1 else 0
          let marks := s.nanMarks i r.handle x.posn d
          let why := s.commitEnd (r.commit (s.at t).now fed d (marks.any (fun m => m.2.2))) d
          u.reqs.settled.contains i = true
          ∧ (∃ v, u.findReq r.handle = some v ∧ v.outToks = r.outToks ++ d.toks ∧ v.fed = r.fed + fed
            ∧ v.pos = r.pos + (if r.last.isNone then fed else d.toks.length) ∧ v.rstep = r.rstep + (if d.toks = [] then 0 else 1)
            ∧ v.last = (match d.toks.getLast? with | some k => some k | none => r.last)
            ∧ (why = 0 → d.toks ≠ [] → r.out.stop.isSome = true → v.verdict = false))
          ∧ (why ≠ 0 → u.skim.work = s.skim.work ++ [{ req := r.handle, toks := marks, finish := some why }])
          ∧ (why = 0 → d.toks ≠ [] → r.out.stop.isSome = true → u.skim.work = s.skim.work ++ [{ req := r.handle, toks := marks, finish := none }]))
        ∧ (∀ x p, ¬ dry → s.mergedSel i r.handle (fun _ => true) = some (x, p) → p.dryCause = 0 →
          s.reqs.decided.find? (fun d => d.slot == i) = none → s.rowless i = true → x.step = s.shell.step →
          u.reqs.settled.contains i = true
          ∧ ∃ v, u.findReq r.handle = some v ∧ v.outToks = r.outToks ∧ v.fed = r.fed + (s.entry i).feed ∧ v.pos = r.pos + (s.entry i).feed))
      ∧ ∀ o j x p d, s.reqs.settled.contains i = false → s.findReq r.handle = some r → r.other = some o.handle → o.handle ≠ r.handle →
        s.findReq o.handle = some o → o.slot = some j → s.dryOf i = none → s.dryOf j = none →
        s.mergedSel i r.handle (fun _ => true) = some (x, p) → p.dryCause = 0 → s.reqs.decided.find? (fun d => d.slot == i) = some d →
        ∃ u, exec (.commit t slot) s = .next u ∧ u.reqs.settled.contains i = true ∧ u.reqs.settled.contains j = true
          ∧ (∃ v, u.findReq r.handle = some v ∧ v.outToks = r.outToks ++ d.toks)
          ∧ ∃ v, u.findReq o.handle = some v ∧ v.outToks = o.outToks ++ d.toks ∧ v.rstep = o.rstep + (if d.toks = [] then 0 else 1)

/-- SKIM_COMMIT (R266 to R284, R288 to R291): the skimmer takes a request's oldest commit through assembly, carry,
matching and release, and the text context it leaves is the request's. Where its pail has room, spills nothing and has
lost nothing, and the commit stops no output, the entries are written one after another at the ring's next places, each
with its phase, and after them the producer word. A commit of a request that is gone or whose pail has ended is dropped.
With no commit no text is made; the doorbells that wait for
their 2 µs go out (the model's choice, log 147). While ENG is in reset or CC1's role is not up nothing changes. -/
def Obligations.CommitsSkimmed : Prop :=
  ∀ (s : State) (t : Time) (h : Handle),
    (s.inRst 1 = true ∨ s.duty 1 = false → exec (.skimCommit t h) s = .next (s.at t))
    ∧ (s.inRst 1 = false → s.duty 1 = true → s.skim.takeWork h = none → exec (.skimCommit t h) s = .next (s.at t).ringAll)
    ∧ ∀ w k, s.inRst 1 = false → s.duty 1 = true → s.skim.takeWork h = some (w, k) →
      (s.findReq h = none → ∃ u, exec (.skimCommit t h) s = .next u ∧ u.skim.work = k.work ∧ s.onlyChanges [.clk, .skim, .ports] u)
      ∧ ∀ r, s.findReq h = some r → ∃ u, exec (.skimCommit t h) s = .next u
        ∧ s.onlyChanges [.clk, .shell, .str, .ren, .churn, .skim, .coll, .reqs, .stw, .mbox, .regs, .log, .ports] u
        ∧ (r.pail.ended = true → u.skim.work = k.work ∧ s.onlyChanges [.clk, .skim, .ports] u)
        ∧ (r.pail.ended = false →
          let fin := w.finish.map (fun n => if r.endReason = 0 then n else r.endReason)
          let m := skimText (s.reqVocab r) (r.out.stop.bind (fun i => tget i s.skim.sets)) r.out r.pail { w with finish := fin }
          m.pail.tokensOut = (r.pail.tokensOut + w.toks.length) % 2 ^ 32
          ∧ (m.stopped = true → m.reason = some endStop) ∧ (m.stopped = false → m.reason = fin)
          ∧ (∀ v, u.findReq h = some v → v.pail.text = m.pail.text ∧ v.pail.bytesOut = m.pail.bytesOut ∧ v.pail.tokensOut = m.pail.tokensOut
            ∧ v.pail.ended = m.reason.isSome)
          ∧ (m.stopped = false → r.verdict = true → r.pail.spill = [] → r.pail.losing = false → m.entries.length ≤ r.pailRoom →
            m.entries.length < 2 ^ 32 → let at_ := fun (n : Nat) => if n = 0 then r.pail.p else (r.pail.p + n) % 2 ^ 32
            ∃ rest, u.ports.host = s.ports.host
              ++ m.entries.zipIdx.map (fun e => (r.out.base + BitVec.ofNat 64 (32 * (at_ e.2 % 2 ^ r.out.log2n)),
                  pailBytes (e.1.stamped r.pail.lostBytes) (at_ e.2 >>> r.out.log2n % 2 == 0)))
              ++ (if m.entries = [] ∨ r.out.nopidx = true then [] else [(r.out.pidxAddr, leBytes 8 (at_ m.entries.length))]) ++ rest
              ∧ (r.st ≠ .ending → rest = [])))

/-- THE CONSUMER WORD OF A PAIL (R292, R294 to R296): CONSUMER_POLL asks for the word of a pail with spilled entries or a
pending LOSS, with at most one read outstanding. A read that fails or shows a value out of range keeps the shadow and is
logged once per request. Otherwise the shadow takes the value; with no LOSS pending the spilled entries are written in
order, and then the producer word, where all of them fit, and none is written where the ring is still full; a pending LOSS
goes first. After a read a request under HOLD is paused while entries are spilled and resumed once none is, while CC1's role
is up, and the build of its slot that waited is tried. With a poll the doorbells go out that wait for their 2 µs (log 147).

THE CONSUMER WORD OF A RESPONSE RING (R354): RING_CONSUMER_POLL asks for the word of an attached context that holds back
responses or has dropped events, with at most one read outstanding. A read that fails or shows a value out of range keeps
the shadow and is logged once per attachment. With no core in CC0's role neither happens (R340, R341). Otherwise the shadow takes the value, and where the held responses fit and
neither dropped events nor a DETACH wait, they are all written, in order. -/
def Obligations.ConsumerWordsRead : Prop :=
  (∀ (s : State) (t : Time) (h : Handle),
      (∀ r, s.findReq h = some r → s.fw = true → (r.pail.spill ≠ [] ∨ r.pail.losing = true) → r.pail.reading = false →
        ∃ u, exec (.consumerPoll t h) s = .next u ∧ s.onlyChanges [.clk, .skim, .reqs, .ports] u
          ∧ u.ports.reads = s.ports.reads ++ [r.out.cidxAddr] ∧ u.ports.host = s.ports.host ∧ u.findReq h = some { r with pail := { r.pail with reading := true } })
      ∧ (s.fw = false → exec (.consumerPoll t h) s = .next (s.at t))
      ∧ (s.fw = true → (∀ r, s.findReq h = some r → r.pail.reading = true ∨ (r.pail.spill = [] ∧ r.pail.losing = false)) →
          exec (.consumerPoll t h) s = .next (s.at t).ringAll)
      ∧ ((s.fw = false ∨ ∀ r, s.findReq h = some r → r.pail.reading = false) → ∀ v, exec (.consumerReadDone t h v) s = .next (s.at t))
      ∧ ∀ r, s.findReq h = some r → s.fw = true → r.pail.reading = true →
        let tried := fun (m : State) => match r.slot with | some i => m.retryBuild i | none => m
        let paused := fun (q : Request) => q.st = if r.out.drop = true ∨ s.duty 1 = false then r.st
          else if q.pail.spill = [] then (if r.st = .paused then (if r.slot.isSome = true then .slotted else .waiting) else r.st)
          else if r.st = .slotted ∨ r.st = .waiting then .paused else r.st
        (∃ u, exec (.consumerReadDone t h none) s = .next (tried u) ∧ s.onlyChanges [.clk, .reqs, .regs, .log] u
          ∧ (∃ q, u.findReq h = some q ∧ q.pail = { r.pail with reading := false, failLogged := true } ∧ paused q)
          ∧ u.log = if r.pail.failLogged = true then s.log else s.log.ask ⟨(s.at t).now, errConsumerReadFailed, none, BitVec.ofNat 32 h.toNat, BitVec.ofNat 32 r.pail.p, 0⟩)
        ∧ ∀ v : BitVec 64, let k := v.toNat % 2 ^ 32
          let room := 2 ^ r.out.log2n - (r.pail.p + 2 ^ 32 - k) % 2 ^ 32
          let at_ := fun (n : Nat) => if n = 0 then r.pail.p else (r.pail.p + n) % 2 ^ 32
          (2 ^ r.out.log2n < (r.pail.p + 2 ^ 32 - k) % 2 ^ 32 →
            ∃ u, exec (.consumerReadDone t h (some v)) s = .next (tried u) ∧ s.onlyChanges [.clk, .reqs, .regs, .log] u
            ∧ (∃ q, u.findReq h = some q ∧ q.pail = { r.pail with reading := false, idxLogged := true } ∧ paused q)
            ∧ u.log = if r.pail.idxLogged = true then s.log else s.log.ask ⟨(s.at t).now, errConsumerIndex, none, BitVec.ofNat 32 h.toNat, BitVec.ofNat 32 k, BitVec.ofNat 32 r.pail.p⟩)
          ∧ ((r.pail.p + 2 ^ 32 - k) % 2 ^ 32 ≤ 2 ^ r.out.log2n → ∃ u, exec (.consumerReadDone t h (some v)) s = .next (tried u)
            ∧ s.onlyChanges [.clk, .churn, .skim, .reqs, .ports] u
            ∧ (∀ q, u.findReq h = some q → q.pail.reading = false ∧ q.pail.c = k ∧ paused q)
            ∧ (r.pail.losing = false → r.pail.spill.length ≤ room →
              (∀ q, u.findReq h = some q → q.pail.spill = [] ∧ q.pail.p = at_ r.pail.spill.length)
              ∧ ∃ rest, u.ports.host = s.ports.host
                ++ r.pail.spill.zipIdx.map (fun e => (r.out.base + BitVec.ofNat 64 (32 * (at_ e.2 % 2 ^ r.out.log2n)),
                    pailBytes (e.1.stamped r.pail.lostBytes) (at_ e.2 >>> r.out.log2n % 2 == 0)))
                ++ (if at_ r.pail.spill.length = r.pail.p ∨ r.out.nopidx = true then [] else [(r.out.pidxAddr, leBytes 8 (at_ r.pail.spill.length))]) ++ rest
                ∧ (r.st ≠ .ending → rest = []))
            ∧ (r.out.drop = false → room = 0 → r.pail.spill ≠ [] → u.ports = s.ports ∧ ∃ q, u.findReq h = some q ∧ q.pail = { r.pail with reading := false, c := k })
            ∧ (r.pail.losing = true → 0 < room → ∃ rest, u.ports.host = s.ports.host
                ++ [(r.out.base + BitVec.ofNat 64 (32 * (r.pail.p % 2 ^ r.out.log2n)),
                    pailBytes (lossEntry r.pail.lossEntries r.pail.lossBytes r.pail.lossTokens) (r.pail.p >>> r.out.log2n % 2 == 0))] ++ rest)))
    ∧
  (∀ (s : State) (t : Time) (c : BitVec 8), c.toNat < s.mbox.ctxs.length → let x := s.ctx c.toNat
      let works := s.duty 0 || s.skimServes
      (works = true → x.attached = true → (x.waiting ≠ [] ∨ 0 < x.lost) → x.reading = false →
        ∃ u, exec (.ringConsumerPoll t c) s = .next u ∧ s.onlyChanges [.clk, .skim, .mbox, .ports] u
          ∧ u.ports.reads = s.ports.reads ++ [x.cidxAddr] ∧ u.ports.host = s.ports.host ∧ u.ctx c.toNat = { x with reading := true })
      ∧ (works = false → exec (.ringConsumerPoll t c) s = .next (s.at t))
      ∧ (works = true → (x.attached = false ∨ x.reading = true ∨ (x.waiting = [] ∧ x.lost = 0)) →
          exec (.ringConsumerPoll t c) s = .next (s.at t).ringAll)
      ∧ (x.reading = false → ∀ v, exec (.ringConsumerReadDone t c v) s = .next (s.at t))
      ∧ (x.reading = true → works = false → ∀ v, exec (.ringConsumerReadDone t c v) s
          = .next ((s.at t).modCtx c.toNat (fun x => { x with reading := false })))
      ∧ (x.reading = true → works = true →
        (∃ u, exec (.ringConsumerReadDone t c none) s = .next u ∧ s.onlyChanges [.clk, .mbox, .regs, .log] u
          ∧ u.ctx c.toNat = { x with reading := false, idxLogged := true }
          ∧ u.log = if x.idxLogged = true then s.log else s.log.ask ⟨(s.at t).now, errRingConsumerIndex, none, BitVec.ofNat 32 c.toNat, 0, 2⟩)
        ∧ ∀ v : BitVec 64, let k := v.toNat % 2 ^ 32
          (2 ^ x.log2r < (x.p + 2 ^ 32 - k) % 2 ^ 32 →
            ∃ u, exec (.ringConsumerReadDone t c (some v)) s = .next u ∧ s.onlyChanges [.clk, .mbox, .regs, .log] u
            ∧ u.ctx c.toNat = { x with reading := false, idxLogged := true }
            ∧ u.log = if x.idxLogged = true then s.log else s.log.ask ⟨(s.at t).now, errRingConsumerIndex, none, BitVec.ofNat 32 c.toNat, BitVec.ofNat 32 k, 1⟩)
          ∧ ((x.p + 2 ^ 32 - k) % 2 ^ 32 ≤ 2 ^ x.log2r → ∃ u, exec (.ringConsumerReadDone t c (some v)) s = .next u
            ∧ s.onlyChanges [.clk, .skim, .mbox, .ports] u
            ∧ (x.waiting.length ≤ 2 ^ x.log2r - (x.p + 2 ^ 32 - k) % 2 ^ 32 → x.lost = 0 → s.mbox.detaches.all (fun d => d.ctx.toNat != c.toNat) = true →
              let at_ := fun (n : Nat) => if n = 0 then x.p else (x.p + n) % 2 ^ 32
              u.ctx c.toNat = { x with reading := false, c := k, waiting := [], p := at_ x.waiting.length }
              ∧ u.ports.host = s.ports.host ++ x.waiting.zipIdx.map (fun e => (x.ring + BitVec.ofNat 64 (256 * (at_ e.2 % 2 ^ x.log2r)), ringBytes c.toNat (at_ e.2) x.log2r e.1))))))

/-- THE GATHER ENGINE'S DONE WORD (R333, R336): DONE_WORD_POLL asks for it while descriptors are unfinished, with at most one
read outstanding; a read that fails tells nothing. Otherwise DONE and FAILS are recorded. Where FAILS has not risen the
finished descriptors go and their versions are resident; where it has, the STATUS byte of each finished descriptor is asked
for, and one that failed is logged and leaves its slot empty: it is reissued once, and a second failure marks its version
faulted. Then residencies are given and the builds that waited are tried. While CC3's role is not up nothing is looked at
(R340). -/
def Obligations.DoneWordRead : Prop :=
  ∀ (s : State) (t : Time),
    ((s.stw.pool = none ∨ s.duty 3 = false ∨ s.stw.gathers = [] ∨ s.stw.reading = true) → exec (.doneWordPoll t) s = .next (s.at t))
    ∧ ((s.stw.pool = none ∨ s.stw.reading = false) → ∀ v l, exec (.doneWordReadDone t v l) s = .next (s.at t))
    ∧ ∀ p, s.stw.pool = some p →
      (s.duty 3 = true → s.stw.gathers ≠ [] → s.stw.reading = false → ∃ u, exec (.doneWordPoll t) s = .next u ∧ s.onlyChanges [.clk, .stw, .ports] u
        ∧ u.ports = { s.ports with reads := s.ports.reads ++ [p.doneAddr] } ∧ u.stw = { s.stw with reading := true })
      ∧ (s.stw.reading = true → ∀ l : List Word,
        (∃ u, exec (.doneWordReadDone t none l) s = .next u ∧ s.onlyChanges [.clk, .stw] u ∧ u.stw = { s.stw with reading := false })
        ∧ (s.duty 3 = false → ∀ v, exec (.doneWordReadDone t v l) s = .next ((s.at t).modStw (fun w => { w with reading := false })))
        ∧ (s.duty 3 = true → ∀ v : BitVec 64, let done := v.toNat % 2 ^ 32
          let fails := v.toNat / 2 ^ 32
          let fin := s.stw.gathers.filter (fun g => g.finished done)
          let left := { s.stw with reading := false, done := done, fails := fails, gathers := s.stw.gathers.filter (fun g => !g.finished done) }
          ∃ u, exec (.doneWordReadDone t (some v) l) s = .next u
          ∧ s.onlyChanges [.clk, .shell, .str, .ren, .churn, .skim, .coll, .reqs, .stw, .mbox, .regs, .log, .ports] u
          ∧ u.stw.done = done ∧ u.stw.fails = fails ∧ u.stw.reading = false
          ∧ (fails = s.stw.fails → u = (((s.at t).modStw (fun _ => { left with versions := s.stw.versions.map (fun x =>
              if fin.any (fun g => x.handle == g.version && x.rslot == some g.rslot) then
                  { x with resident := true, fails := 0, lateFor := if s.shell.cutoff = true then some s.nextStep else none } else x) })).giveResidencies).retryBuilds)
          ∧ (∀ g x, fails ≠ s.stw.fails → s.stw.gathers = [g] → g.finished done = true → l.any (fun w => w.toNat == g.seq) = true →
              s.stw.versions.find? (fun x => x.handle == g.version && x.rslot == some g.rslot) = some x →
              let asked := (((s.at t).modStw (fun _ => left)).askHost (p.statusAddr g)).logErr errGatherFailed none g.rslot g.version.toNat g.seq
              let set := fun (f : Version → Version) => asked.modStw (fun w => { w with versions := w.versions.map (fun x => if x.handle == g.version && x.rslot == some g.rslot then f x else x) })
              u = ((if x.fails = 0 then (set (fun x => { x with fails := 1 })).writeGather p g.rslot x
                else set (fun x => { x with fails := x.fails + 1, faulted := true, rslot := none, resident := false })).giveResidencies).retryBuilds)))

/-- COLLECTIVE_TICK (R144, R146, R148, R149, R157, R160): nothing while ENG is in reset or before the first step. A tick
samples the marked buffers first, and what its reads find is counted, logged and named: one that is not complete stays; an
overrun is logged and the buffer released; a message that reads with POISON is discarded; one of a step that has not begun
here stays; one of this step or an earlier one is taken, and its buffer released. A PARTIAL of the block that is gathered is
kept as its child's part. A selection whose parts are all there is merged: a die with a parent sends the result to it, and
the root gives it to its own slot's home inside the block. One that still awaits a child stays as it is. -/
def Obligations.CollectiveTicks : Prop :=
  ∀ (s : State) (t : Time) (found : Checks),
    (s.inRst 1 = true ∨ s.shapeNow = none → exec (.collectiveTick t found) s = .next (s.at t))
    ∧ ∀ f, s.inRst 1 = false → s.shapeNow = some f → ∃ u, exec (.collectiveTick t found) s = .next u
      ∧ s.onlyChanges [.clk, .shell, .vat, .vatMem, .str, .drw, .ren, .coll, .reqs, .regs, .log, .ports] u
      ∧ (let marks := s.vat.windows.zipIdx.flatMap (fun p => p.1.marked.map (fun b => (p.2, b)))
        let quiet := ∀ i < f.slots, (s.entry i).kind ≠ .dry ∧ s.dryOf i = none
        (∀ n first c b rows, marks = [(n, first)] → quiet → s.coll.sels.all (fun x => x.own.isNone && !x.waits) = true →
          s.coll.configOf n = some c → bufferOf c f (s.vat.window n).role first = some (b, rows) →
          let got := s.vat.readBuffer (s.vat.window n) first rows found
          let b := (s.at t).bufferReads (s.vat.window n) first rows found
          (got = .waiting → u = b)
          ∧ (got = .poisoned → u = b.modVat (fun v => v.release n first rows))
          ∧ (got = .overrun → u.vat = b.vat.release n first rows ∧ u.log = b.log.ask ⟨(s.at t).now, errBufferOverrun, none, BitVec.ofNat 32 n, BitVec.ofNat 32 first, BitVec.ofNat 32 s.shell.step⟩)
          ∧ (∀ h body, got = .message h body → s.shell.step < h.step → u = b)
          ∧ (∀ h body mine, got = .message h body → h.step ≤ s.shell.step → let k := (s.roundsAt h.step).getD c
            headerFault k (s.vat.window n) h = 0 → kindFits (s.vat.window n).role h.kind = true → h.kind = kPartial →
            s.heldReq h.step h.slot h.posn = some mine → reqAgrees mine h = true →
            u.vat = b.vat.release n first rows
            ∧ (∀ x, s.sel h.step h.slot h.posn = some x → x.late = false → x.sent = false → h.res.block = x.blk.getD 0 → u.coll.sels = s.coll.sels.map (fun y =>
                if y.step == h.step && y.slot == h.slot && y.posn == h.posn then { y with parts := addPart (messagePart h body) y.parts } else y))))
        ∧ (∀ x own c, marks = [] → quiet → s.coll.sels = [x] → x.waits = false → x.own = some own → s.roundsAt x.step = some c → s.dryOf x.slot = none →
          let m := { mergeParts (own :: x.parts) (x.mergeLen own) (x.blk.getD 0) with req := own.req, src := c.die, hops := if x.parts = [] then 0 else 1 + x.parts.foldl (fun (a : Nat) (p : Part) => max a p.hops) 0 }
          (x.sent = true ∨ x.awaited c ≠ [] → u = s.at t)
          ∧ (x.sent = false → x.awaited c = [] → c.parent ≠ 0xFFFF → s.hasWork = true →
            u.coll.outbox = s.coll.outbox ++ [{ cls := 3, step := x.step, slot := x.slot, posn := x.posn, stamp := c.parentAddr.1, window := c.parentAddr.2, base := listBase f c.nb x.step x.slot x.posn 17, cells := messageCells (m.header kPartial c.die x.step x.slot x.posn) (listCells m.sent) }]
            ∧ u.coll.sels = [{ x with late := false, sent := true }])
          ∧ (x.sent = false → x.awaited c = [] → c.parent = 0xFFFF → retainedK x.k = false → x.blk = none → (s.reqOfSlot x.slot).isSome = true →
            u.coll.sels = [{ x with late := false, sent := true, merged := some { m with dryCause := x.homeCause m } }])))

/-- MESSAGE_SEND (R144 and the order of the port that follows R161): nothing while ENG is in reset or with no message waiting. The
message that goes is the first in the queue among those that no other comes before by class and then by STEP, SLOT and POSN;
its cells go out in order, each to its place in its window, and the message leaves the queue. The last cell of a message is
its header.

ROUND_TIMEOUT (R157, R158, R159, R161): the messages of its control tick are taken first; then a timer of a slot's row
position that runs and has expired ends the wait. The gather's sends on what has arrived with ROUND_TIMEOUT and the lowest
child still awaited; the home's runs the slot dry with ROUND_TIMEOUT and has the root missing; a participant's row whose masks
are late goes up dry with MASK_LATE; a pass round's sends the sum so far up, dry. The lowest missing die is logged once in a
step; a die missing from the gathers of 8 steps in a row is a lost peer. Where no such timer has expired nothing more happens. -/
def Obligations.MessagesAndTimeouts : Prop :=
  (∀ (s : State) (t : Time),
      (s.inRst 1 = true ∨ s.coll.outbox = [] → exec (.messageSend t) s = .next (s.at t))
      ∧ (s.inRst 1 = false → s.coll.outbox ≠ [] → ∃ u m, exec (.messageSend t) s = .next u ∧ s.onlyChanges [.clk, .coll, .ports] u
        ∧ (∃ pre post, s.coll.outbox = pre ++ m :: post ∧ (∀ x ∈ pre, m.before x = true) ∧ (∀ x ∈ post, x.before m = false)
          ∧ u.coll = { s.coll with outbox := pre ++ post })
        ∧ u.ports = { s.ports with tx := s.ports.tx ++ m.cells.map (fun x => (BitVec.ofNat 64 (m.stamp * 2 ^ 38 + m.window * 2 ^ 32 + (m.base + 64 * x.1)), x.2)) })
      ∧ ∀ (h : MsgHeader) (body : List Nat), ∃ l, messageCells h body = l ++ [(0, BitVec.ofNat 512 { h with cells := body.length + 1 }.toNat)] ∧ (l.length + 1) % 2 = 0)
    ∧
  (∀ (s : State) (t : Time) (slot : BitVec 12) (posn : Nat) (timer : RoundTimer) (found : Checks),
      (s.inRst 1 = true ∨ s.shapeNow = none → exec (.roundTimeout t slot posn ⟨timer, found⟩) s = .next (s.at t))
      ∧ ∀ f b, s.inRst 1 = false → s.shapeNow = some f → b = (s.at t).collTick f found →
        let hit := b.coll.sels.find? (fun x => x.slot == slot.toNat && x.posn == posn && b.expired f timer x)
        (hit = none → exec (.roundTimeout t slot posn ⟨timer, found⟩) s = .next b)
        ∧ ∀ x c, hit = some x → b.sel x.step x.slot x.posn = some x → b.roundsAt x.step = some c →
          let own := x.own.getD (dryPart dryRoundTimeout (if x.step = b.shell.step then (b.entry x.slot).req else 0))
          let up := fun (m : Part) => b.coll.outbox ++ [{ cls := 3, step := x.step, slot := x.slot, posn := x.posn, stamp := c.parentAddr.1, window := c.parentAddr.2, base := listBase f c.nb x.step x.slot x.posn 17, cells := messageCells (m.header kPartial c.die x.step x.slot x.posn) (listCells m.sent) }]
          let lost := match timer with | .gather => x.awaited c | .merged => [(b.vat.window c.ownHome).peer] | .pass => x.passAwaited c
          let round := match timer with | .gather => 0 | _ => x.round
          let n := b.shell.step
          let logged := if b.coll.missLogged.contains (lowest lost, n) = true then b.log
            else b.log.ask ⟨b.now, errPeerMissing, none, BitVec.ofNat 32 (lowest lost), BitVec.ofNat 32 n, BitVec.ofNat 32 round⟩
          ∃ u, exec (.roundTimeout t slot posn ⟨timer, found⟩) s = .next u
          ∧ s.onlyChanges [.clk, .shell, .vat, .vatMem, .str, .drw, .ren, .skim, .coll, .reqs, .mbox, .regs, .log, .ports] u
          ∧ (c.parent ≠ 0xFFFF → round ≠ 0 → timer = .pass ∨ x.step ≠ n → u.log = logged)
          ∧ (∀ die, timer = .gather → b.masksLate x = false → c.parent ≠ 0xFFFF → x.awaited c = [die] →
            let old := (tget die b.coll.missing).getD (0, n)
            ((old.1 ≠ 0 ∧ old.2 = n) ∨ old.2 + 1 ≠ n ∨ old.1 < 7 → u.log = logged)
            ∧ (old.2 + 1 = n → old.1 = 7 → u.coll.lost.contains die = true
              ∧ u.log = logged.ask ⟨b.now, errLostPeer, none, BitVec.ofNat 32 die, BitVec.ofNat 32 n, 0⟩))
          ∧ (timer = .merged → u.coll.sels = b.coll.sels.map (fun y => if y.step == x.step && y.slot == x.slot && y.posn == x.posn then { y with merged := some (dryPart dryRoundTimeout y.reqOf) } else y)
            ∧ (x.step = n → (b.entry x.slot).kind = .live → b.dryOf x.slot = none → b.reqs.settled.contains x.slot = false → u.dryOf x.slot = some dryRoundTimeout))
          ∧ (timer = .gather → b.masksLate x = false → b.dryOf x.slot = none → c.parent ≠ 0xFFFF → b.hasWork = true →
            ∀ a l, x.awaited c = a :: l → ∃ m : Part, m.dryCause = dryRoundTimeout ∧ m.missing = lowest (a :: l)
              ∧ (mergeParts (own :: x.parts) (x.mergeLen own) (x.blk.getD 0)).list = m.list ∧ u.coll.outbox = up m)
          ∧ (timer = .gather → b.masksLate x = true → c.children = [] → x.parts = [] → c.parent ≠ 0xFFFF → b.hasWork = true →
            ∃ m : Part, m.dryCause = dryMaskLate ∧ m.list = [] ∧ u.coll.outbox = up m)
          ∧ (timer = .pass → c.parent ≠ 0xFFFF → b.hasWork = true → ∃ h : MsgHeader, h.kind = kHist ∧ h.dryCause = dryRoundTimeout ∧ h.missing = lowest (x.passAwaited c)
              ∧ u.coll.outbox = b.coll.outbox ++ [{ cls := 4, step := x.step, slot := x.slot, posn := x.posn, stamp := c.parentAddr.1, window := c.parentAddr.2, base := passBase f c.nb c.np x.slot, cells := messageCells h (histCells (x.hists.foldl (fun a p => addHist a p.2) (x.hist.getD []))) }]))

/-- MASK_FILL_DONE (R190, R194, R196, R197, R227): a read that nobody asked for changes nothing, and one for a handle that has been
released is dropped. A cellar error or an uncorrectable error in the cache leaves the item out and is logged, and so is a
read whose KCRC fails or that shows a value out of range. Otherwise the item lands: it goes into its cache, with a pin for each
pinned key that needs it, is there where the cache was not full, and the builds that waited are tried again; what else the
read shows is logged.

PREFETCH (R197, R201, R202): nothing before the first step. For every LIVE slot, what the first P_d successors of each of its
keys need, and no cache holds, is then asked for, with its command on the cellar port where nobody had asked before; every
read that is asked for is of class 2; no read is given up, and nothing is pinned. Prefetched keys that no commit has used
within two steps are no longer marked.

PREFETCH_TUNE (R202): CC3, while its role is up, tunes an image once it has had commits in 1,024 steps. Prefetched keys that no
commit has used within two steps count as unused first. With fewer than 98 hits in 100 commits P_d doubles, while it is below
64 and below the largest NSUCC; otherwise, with at least 998 hits in 1,000 and more than nine tenths of the prefetched keys
unused, it halves, but not below 1. A change is written to the image's telemetry. The counts then begin again. -/
def Obligations.MasksFetchedAndTuned : Prop :=
  (∀ (s : State) (t : Time) (gidx : BitVec 12) (kind : FillKind) (fin : FillEnd),
      let hit := s.ren.reads.find? (fun r => r.gidx == gidx.toNat && r.kind == kind)
      (hit = none → exec (.maskFillDone t gidx kind fin) s = .next (s.at t))
      ∧ ∀ r, hit = some r →
        let left := { s.ren with reads := dropFirst (fun x => x == r) s.ren.reads }
        ((∀ g, tget r.gidx s.ren.images = some g → gverOf g.handle ≠ r.gver ∨ r.dead = true) →
          ∃ u, exec (.maskFillDone t gidx kind fin) s = .next u ∧ s.onlyChanges [.clk, .ren, .ports] u ∧ u.ren = left)
        ∧ ∀ g, tget r.gidx s.ren.images = some g → gverOf g.handle = r.gver → r.dead = false →
          let fault := fun (d : Nat × Nat) => s.log.ask ⟨(s.at t).now, errGrammarFault, none, BitVec.ofNat 32 g.handle.toNat, BitVec.ofNat 32 d.1, BitVec.ofNat 32 d.2⟩
          (fin = .cellarError → ∃ u, exec (.maskFillDone t gidx kind fin) s = .next u
            ∧ u.ren = left ∧ s.onlyChanges [.clk, .ren, .regs, .log, .ports] u
            ∧ u.log = s.log.ask ⟨(s.at t).now, errRennetCellar, none, BitVec.ofNat 32 (readAddr g r.kind % 2 ^ 32), BitVec.ofNat 32 (readAddr g r.kind / 2 ^ 32), BitVec.ofNat 32 g.handle.toNat⟩)
          ∧ (fin = .cacheUe → ∃ u, exec (.maskFillDone t gidx kind fin) s = .next u
            ∧ u.ren = left ∧ s.onlyChanges [.clk, .ren, .regs, .log, .ports] u ∧ ∃ a b, u.log = s.log.ask ⟨(s.at t).now, errRennetCacheUe, none, a, b, 0⟩)
          ∧ (∀ d, fin = .landed → readFault g r.kind = some d → faultFails d.1 = true → ∃ u, exec (.maskFillDone t gidx kind fin) s = .next u
            ∧ s.onlyChanges [.clk, .ren, .regs, .log, .ports] u
            ∧ u.ren.states = s.ren.states ∧ u.ren.chunks = s.ren.chunks ∧ u.ren.reads = left.reads ∧ u.log = fault d)
          ∧ (fin = .landed → (∀ d, readFault g r.kind = some d → faultFails d.1 = false) →
            let item : CacheItem := { gidx := r.gidx, gver := r.gver, kind := r.kind, pins := s.pinsFor g r.kind, prefetched := if r.cls = 2 then some s.shell.step else none }
            ∃ m, exec (.maskFillDone t gidx kind fin) s = .next m.retryBuilds ∧ s.onlyChanges [.clk, .ren, .regs, .log, .ports] m
            ∧ m.ren.reads = left.reads ∧ m.ren.states = (left.putItem item).states ∧ m.ren.chunks = (left.putItem item).chunks
            ∧ (left.full item = false → m.ren.has r.gidx r.gver r.kind = true)
            ∧ m.log = (match readFault g r.kind with | none => s.log | some d => fault d)))
    ∧
  (∀ (s : State) (t : Time),
      (s.ingests = none → exec (.prefetch t) s = .next (s.at t))
      ∧ ∀ f, s.ingests = some f → ∃ u, exec (.prefetch t) s = .next u ∧ s.onlyChanges [.clk, .ren, .ports] u
        ∧ (∀ i k g q x, i < f.slots → (s.entry i).kind = .live → k ∈ s.keysOf i → tget k.1 s.ren.images = some g →
          q ∈ (keySuccs g k.2.1 k.2.2).take ((tget k.1 s.ren.tune).getD {}).depth → x ∈ keyItems g f.shardBase f.shardLen q.1 q.2 →
          s.ren.has (gidxOf g.handle) (gverOf g.handle) x = false →
          let is := fun (r : RennetRead) => r.gidx = gidxOf g.handle ∧ r.gver = gverOf g.handle ∧ r.kind = x ∧ r.dead = false
          (∃ r ∈ u.ren.reads, is r)
          ∧ ((∀ r ∈ s.ren.reads, ¬ is r) → (∃ r ∈ u.ren.reads, is r ∧ r.cls = 2)
            ∧ ∃ c ∈ u.ports.cel, c.use = .item (gidxOf g.handle) (gverOf g.handle) x))
        ∧ (∀ r ∈ u.ren.reads, r ∈ s.ren.reads ∨ r.cls = 2)
        ∧ (∀ r ∈ s.ren.reads, ∃ r' ∈ u.ren.reads, r'.gidx = r.gidx ∧ r'.gver = r.gver ∧ r'.kind = r.kind ∧ r'.dead = r.dead ∧ r'.cls ≤ r.cls)
        ∧ u.ren.pinnedFor = s.ren.pinnedFor ∧ u.ren.images = s.ren.images ∧ u.ports.host = s.ports.host
        ∧ (let old := fun (c : CacheItem) => match c.prefetched with | some n => decide (n + 2 < s.shell.step) | none => false
          u.ren.states = s.ren.states.map (fun c => if old c then { c with prefetched := none } else c)
          ∧ u.ren.chunks = s.ren.chunks.map (fun c => if old c then { c with prefetched := none } else c)))
    ∧
  (∀ (s : State) (t : Time) (gidx : BitVec 12), let i := gidx.toNat
      ((s.duty 3 = false ∨ tget i s.ren.images = none ∨ tget i s.ren.tune = none ∨ ∃ u, tget i s.ren.tune = some u ∧ u.steps < 1024) →
        exec (.prefetchTune t gidx) s = .next (s.at t))
      ∧ ∀ g u, s.duty 3 = true → tget i s.ren.images = some g → tget i s.ren.tune = some u → 1024 ≤ u.steps →
        let stale := s.ren.states.countP (fun c => c.gidx == i && (match c.kind, c.prefetched with | .state _ _, some n => decide (n + 2 < s.shell.step) | _, _ => false))
        let depth := if u.hits * 100 < 98 * u.commits ∧ u.depth < 64 ∧ u.depth < g.maxSucc then min 64 (2 * u.depth)
          else if 998 * u.commits ≤ u.hits * 1000 ∧ 9 * u.prefetched < 10 * (u.unused + stale) then max 1 (u.depth / 2) else u.depth
        ∃ w, exec (.prefetchTune t gidx) s = .next w ∧ s.onlyChanges [.clk, .ren] w
          ∧ tget i w.ren.tune = some { depth := depth, faults := u.faults, lastStep := u.lastStep, changes := if depth = u.depth then u.changes else (s.shell.step, depth) :: u.changes }
          ∧ w.ren.reads = s.ren.reads ∧ w.ren.pinnedFor = s.ren.pinnedFor)

/-- LANE_SWITCH (R264): a stream that has run 4,096 ENG cycles gives its lane to the next stream of the lane that has a buffer
and waits for no fill; without such a stream, or before its time, nothing changes.

VOCAB_FILL_DONE (R239, R245, R260, R262): a fill lands in the way chosen when it was issued, unless a pinned line lies there by
now, and is dropped where its index has been released; the streams that wait for it go on, and fills that waited may go. A cellar error stops a stream that waits for it with ENCODE_FAULT.

PARTITION_RETUNE (R261): CC3 does nothing outside READY or while its role is not up. Under LOCK only the epoch's counts begin again. Otherwise, of the
partitions in use, P is the one with the most misses for each way, Q the one with the fewest among those with two ways or
more, the lower number standing first among equals; where P's density is at least twice Q's, Q's highest way moves to P. -/
def Obligations.VocabFillsAndLanes : Prop :=
  (∀ (s : State) (t : Time) (lane : BitVec 4), let l := lane.toNat
      (tget l s.churn.running = none → exec (.laneSwitch t lane) s = .next (s.at t))
      ∧ ∀ i x, tget l s.churn.running = some i → tget i s.churn.streams = some x →
        ((s.at t).clk.eng < x.laneStart + 4096 → exec (.laneSwitch t lane) s = .next (s.at t))
        ∧ (s.churn.nextReady l (some i) = none ∨ s.churn.nextReady l (some i) = some i → exec (.laneSwitch t lane) s = .next (s.at t))
        ∧ (∀ j, s.churn.nextReady l (some i) = some j → ∃ y, (j, y) ∈ s.churn.streams ∧ y.lane = some l ∧ y.queue ≠ [] ∧ y.waitFill = none)
        ∧ (∀ j y, (j, y) ∈ s.churn.streams → y.lane = some l → y.queue ≠ [] → y.waitFill = none → i < j → ∃ k, i < k ∧ s.churn.nextReady l (some i) = some k)
        ∧ ∀ j, s.churn.nextReady l (some i) = some j → j ≠ i → x.laneStart + 4096 ≤ (s.at t).clk.eng →
          ∃ u, exec (.laneSwitch t lane) s = .next u ∧ s.onlyChanges [.clk, .churn] u
          ∧ u.churn = { s.churn with running := tput l j s.churn.running, streams := tmod j (fun x => { x with laneStart := (s.at t).clk.eng }) s.churn.streams })
    ∧
  (∀ (s : State) (t : Time) (vidx : BitVec 6) (line : Nat) (ok : Bool),
      let hit := s.churn.fills.find? (fun f => f.vidx == vidx.toNat && f.line == line && f.issued)
      (hit = none → exec (.vocabFillDone t vidx line ok) s = .next (s.at t))
      ∧ ∀ f, hit = some f → ∃ u, exec (.vocabFillDone t vidx line ok) s = .next u
        ∧ s.onlyChanges [.clk, .shell, .str, .ren, .churn, .skim, .reqs, .rat, .stw, .mbox, .regs, .log, .ports] u
        ∧ u.churn.fills.map (fun x => (x.vidx, x.gen, x.line)) = (dropFirst (fun x => x == f) s.churn.fills).map (fun x => (x.vidx, x.gen, x.line))
        ∧ (ok = true → s.onlyChanges [.clk, .churn, .ports] u
          ∧ (∀ v w, tget f.vidx s.churn.vocabs = some v → v.gen = f.gen → f.way = some w →
            s.churn.lines.any (fun x => x.set == f.set && x.way == w && x.pinned) = false →
            u.churn.lines = s.churn.lines.filter (fun x => !(x.set == f.set && x.way == w))
              ++ [{ tag := .image f.vidx f.gen f.line, set := f.set, way := w, pinned := (pinnedImageLines v).contains f.line, used := s.churn.uses + 1 }])
          ∧ ((f.way = none ∨ (∃ w, f.way = some w ∧ s.churn.lines.any (fun x => x.set == f.set && x.way == w && x.pinned) = true)
              ∨ ∀ v, tget f.vidx s.churn.vocabs = some v → v.gen ≠ f.gen) → u.churn.lines = s.churn.lines)
          ∧ ∀ i ∈ f.streams, ∀ x, tget i u.churn.streams = some x → x.waitFill = none ∧ f.line ∈ x.served)
        ∧ (ok = false → ∀ i x, f.streams = [i] → tget i s.churn.streams = some x →
          u.log = s.log.ask ⟨(s.at t).now, errEncodeFault, none, BitVec.ofNat 32 i, 2, 0⟩
          ∧ (x.job.isSome = true → tget i u.churn.streams = none)))
    ∧
  (∀ (s : State) (t : Time),
      let c := s.churn
      let ways := fun p => waysOf (c.masks.getD p 0)
      let used := fun p => p < 16 ∧ p ∈ c.map
      let less := fun p q => c.misses.getD p 0 * ways q < c.misses.getD q 0 * ways p
      (s.duty 3 = false → exec (.partitionRetune t) s = .next (s.at t))
      ∧ (s.duty 3 = true → ∃ u, exec (.partitionRetune t) s = .next u ∧ s.onlyChanges [.clk, .churn] u
        ∧ (c.lock = true → u.churn = { c with misses := List.replicate 16 0 })
        ∧ (c.lock = false → (∀ p q, used p → used q → p ≠ q → c.misses.getD p 0 * ways q < 2 * (c.misses.getD q 0 * ways p)) → u.churn = { c with misses := List.replicate 16 0 })
        ∧ ∀ p q w, c.lock = false → used p → (∀ r, used r → ¬ less p r) → (∀ r, used r → r < p → ∃ r', used r' ∧ less r r') →
          used q → 2 ≤ ways q → (∀ r, used r → 2 ≤ ways r → ¬ less r q) → (∀ r, used r → 2 ≤ ways r → r < q → ∃ r', used r' ∧ 2 ≤ ways r' ∧ less r' r) →
          (p = q ∨ c.misses.getD p 0 * ways q < 2 * (c.misses.getD q 0 * ways p) → u.churn = { c with misses := List.replicate 16 0 })
          ∧ (p ≠ q → 2 * (c.misses.getD q 0 * ways p) ≤ c.misses.getD p 0 * ways q →
            w < 16 → bit (c.masks.getD q 0).toNat w = true → (∀ v, w < v → v < 16 → bit (c.masks.getD q 0).toNat v = false) →
            u.churn = { c with masks := lmod p (· ||| 1#16 <<< w) (lmod q (· &&& ~~~(1#16 <<< w)) c.masks), moves := c.moves + 1, misses := List.replicate 16 0 })))

/-- BUFFER_TAKEN (R235, R237 to R239, R262, R409): nothing while no lane runs the stream or no buffer waits. Otherwise the
buffer's last text is encoded. Where a line is missing the stream waits for its fill, which is asked for. New entries are
written in order, after those written; a stream that would pass DCAP writes up to it and stops with ST_ENC_FULL, and one
whose text is rejected stops with ST_ENC_INVALID. Otherwise the buffer is answered with the entries and the bytes held back,
for an END buffer with the counters, and the stream goes on with the next buffer, or ends. A failed read and an error in the
context stop the stream with ST_ENC_FAULT, logged; a lane goes out of service at its fourth such error. An uncorrectable
error in a line loses it, logged: an image line is waited for, a memo's piece is merged again. A correctable one is counted.

ENTRY_REPORT (R237, R238): nothing unless the text goes on within a TEXT buffer that a lane runs and brings 4,096 entries
not reported yet. Then the entries are written and reported, the buffer stays, and the text taken counts towards it; a
stream that would pass DCAP or whose text is rejected stops. -/
def Obligations.BuffersTaken : Prop :=
  (∀ (s : State) (t : Time) (stream : BitVec 10) (text : Option (List Byte)) (fault : ChurnFault), let i := stream.toNat
      ((∀ l, (l, i) ∉ s.churn.running) ∨ (∀ x, tget i s.churn.streams = some x → x.queue = [] ∨ x.waitFill ≠ none) → exec (.bufferTaken t stream text fault) s = .next (s.at t))
      ∧ ∀ l0 x v b rest, (l0, i) ∈ s.churn.running → tget i s.churn.streams = some x → x.waitFill = none → x.queue = b :: rest → tget x.opts.vidx s.churn.vocabs = some v →
        ∃ u, exec (.bufferTaken t stream text fault) s = .next u
        ∧ s.onlyChanges [.clk, .shell, .str, .ren, .churn, .skim, .reqs, .rat, .stw, .mbox, .regs, .log, .ports] u
        ∧ (let d := (s.at t).lineFault x v fault
          let goes := fault ≠ .contextUe ∧ s.lostLine x v fault = none
          let lost := fun (y : CacheLine) => s.log.ask ⟨(s.at t).now, errVocabCacheUe, none, BitVec.ofNat 32 (16 * y.set + y.way), BitVec.ofNat 32 (b2n y.pinned), 0⟩
        (fault = .none → d = s.at t)
        ∧ (fault = .lineCe → goes ∧ d = (s.at t).modChurn (fun c => { c with corrected := c.corrected + 1 }))
        ∧ (∀ p y, fault = .memoUe p → s.churn.lines.find? (fun l => l.tag == .memo x.opts.vidx v.gen p) = some y →
          goes ∧ (∀ z ∈ d.churn.lines, z.tag ≠ .memo x.opts.vidx v.gen p) ∧ d.log = lost y)
        ∧ (∀ n y, fault = .lineUe n → s.churn.lines.find? (fun l => l.tag == .image x.opts.vidx v.gen n) = some y →
          s.onlyChanges [.clk, .churn, .regs, .log, .ports] u ∧ (∀ z ∈ u.churn.lines, z.tag ≠ .image x.opts.vidx v.gen n)
          ∧ u.log = lost y
          ∧ (∃ z, tget i u.churn.streams = some z ∧ z.waitFill = some n) ∧ ∃ f ∈ u.churn.fills, f.vidx = x.opts.vidx ∧ f.gen = v.gen ∧ f.line = n ∧ i ∈ f.streams)
        ∧ (fault = .contextUe → s.stopsJob u i x b rest stEncFault []
          ∧ u.log = (match x.lane with
            | some l => if s.churn.laneErrors.getD l 0 = 3 then s.log.ask ⟨(s.at t).now, errLaneOut, none, BitVec.ofNat 32 l, 4, 0⟩ else s.log
            | none => s.log).ask ⟨(s.at t).now, errEncodeFault, none, BitVec.ofNat 32 i, 3, 0⟩)
        ∧ (goes → text = none → b.ids = none → b.len ≠ 0 → s.stopsJob u i x b rest stEncFault []
          ∧ u.log = d.log.ask ⟨(s.at t).now, errEncodeFault, none, BitVec.ofNat 32 i, 1, 0⟩)
        ∧ (∀ l, goes → text = some l → b.ids = none → b.len ≠ 0 → x.got + l.length ≠ b.len → u = d)
        ∧ ∀ l, goes → ((b.ids.isSome = true ∨ b.len = 0) ∧ l = [] ∨ b.ids = none ∧ b.len ≠ 0 ∧ text = some l ∧ x.got + l.length = b.len) →
          let w := d.churn.work x v l (b.ids.isSome || b.ended)
          (∀ n, d.churn.missing x v w = some n → s.onlyChanges [.clk, .churn, .regs, .log, .ports] u ∧ (∃ z, tget i u.churn.streams = some z ∧ z.waitFill = some n ∧ z.entries = x.entries ∧ z.queue = x.queue)
            ∧ ∃ f ∈ u.churn.fills, f.vidx = x.opts.vidx ∧ f.gen = v.gen ∧ f.line = n ∧ i ∈ f.streams)
          ∧ (d.churn.missing x v w = none →
            let es := w.e.entries ++ (if w.e.rejected then [] else (b.ids.getD []).map (fun t => { id := t, spc := tokSpecial v t }))
            let new := es.take (x.opts.dcap - x.entries.length)
            let z := x.wrote l w new
            let host := if x.opts.destHost then x.entryWrite new else []
            (new.length < es.length → s.stopsJob u i x b rest stEncFull host)
            ∧ (new.length = es.length → w.e.rejected = true → s.stopsJob u i x b rest stEncInvalid host)
            ∧ (new.length = es.length → w.e.rejected = false → b.ended = false →
              (∃ y, tget i u.churn.streams = some y ∧ y = { z with queue := rest, got := 0, served := [], reported := z.entries.length, charged := y.charged, lane := y.lane, laneStart := y.laneStart })
              ∧ (s.ringFree b.by_.ctx.toNat → s.responds u b.by_ opAppendInput stOk (z.body false) host ∧ u.ports.cellar = s.ports.cellar ++ (if x.opts.destHost then [] else x.entryWrite new))
              ∧ ∀ r, x.job = none → s.findReq x.req = some r → ∃ q, u.findReq x.req = some q ∧ q.prompt = r.prompt ++ (z.entries.drop x.reported).map (fun e => e.id))
            ∧ (new.length = es.length → w.e.rejected = false → b.ended = true → x.job.isSome = true → tget i u.churn.streams = none
              ∧ (s.ringFree b.by_.ctx.toNat → s.responds u b.by_ opAppendInput stOk (z.body true) host ∧ u.ports.cellar = s.ports.cellar ++ (if x.opts.destHost then [] else x.entryWrite new))))))
    ∧
  (∀ (s : State) (t : Time) (stream : BitVec 10) (text : List Byte), let i := stream.toNat
      ((∀ l, (l, i) ∉ s.churn.running) ∨ (∀ x, tget i s.churn.streams = some x → x.queue = [] ∨ x.waitFill ≠ none) → exec (.entryReport t stream text) s = .next (s.at t))
      ∧ ∀ l0 x v b rest, (l0, i) ∈ s.churn.running → tget i s.churn.streams = some x → x.waitFill = none → x.queue = b :: rest → tget x.opts.vidx s.churn.vocabs = some v →
        (b.ids.isSome = true ∨ b.len ≤ x.got + text.length → exec (.entryReport t stream text) s = .next (s.at t))
        ∧ (b.ids = none → x.got + text.length < b.len → ∃ u, exec (.entryReport t stream text) s = .next u
          ∧ s.onlyChanges [.clk, .shell, .str, .ren, .churn, .skim, .reqs, .rat, .stw, .mbox, .regs, .log, .ports] u
          ∧ (let w := s.churn.work x v text false
            (∀ n, s.churn.missing x v w = some n → s.onlyChanges [.clk, .churn, .ports] u ∧ (∃ z, tget i u.churn.streams = some z ∧ z.waitFill = some n ∧ z.entries = x.entries ∧ z.queue = x.queue)
              ∧ ∃ f ∈ u.churn.fills, f.vidx = x.opts.vidx ∧ f.gen = v.gen ∧ f.line = n ∧ i ∈ f.streams)
            ∧ (s.churn.missing x v w = none → x.entries.length + w.e.entries.length < x.reported + 4096 → u = s.at t)
            ∧ (s.churn.missing x v w = none → x.reported + 4096 ≤ x.entries.length + w.e.entries.length →
              let new := w.e.entries.take (x.opts.dcap - x.entries.length)
              let z := x.wrote text w new
              let host := if x.opts.destHost then x.entryWrite new else []
              (new.length < w.e.entries.length → s.stopsJob u i x b rest stEncFull host)
              ∧ (new.length = w.e.entries.length → w.e.rejected = true → s.stopsJob u i x b rest stEncInvalid host)
              ∧ (new.length = w.e.entries.length → w.e.rejected = false →
                (∃ y, tget i u.churn.streams = some y ∧ y = { z with got := x.got + text.length, reported := z.entries.length, charged := y.charged })
                ∧ u.ports.host = s.ports.host ++ host ∧ u.ports.cellar = s.ports.cellar ++ (if x.opts.destHost then [] else x.entryWrite new)
                ∧ ∀ r, x.job = none → s.findReq x.req = some r → ∃ q, u.findReq x.req = some q ∧ q.prompt = r.prompt ++ (z.entries.drop x.reported).map (fun e => e.id))))))

/-- RECORD_MOVE_DONE (R301, R302, Table 13-5): where no record of the index moves, only its cellar command ends. One on its way
in waits while 4,096 records are hot. A record that has moved is hot if it was
cold and cold if it was hot, and no other record changes; an error in the record ends its request with RECORD_FAULT.

EPOCH_CORRECTION (R324, R325): CC2 does nothing outside READY or while its role is not up. Each customer begins a new epoch. In Q it is given its
target share, and where anything was served its delivered share and its new factor; outside Q its factor goes halfway to 256.
Where nothing was served no factor changes and the figure is 0; otherwise the figure is the largest deviation. Nothing else of
a customer changes; the factors apply from the next build. -/
def Obligations.RecordsAndEpochs : Prop :=
  (∀ (s : State) (t : Time) (index : BitVec 16) (ecc : Ecc),
      ((∀ r, tget index.toNat s.reqs.table = some r → r.moving = false) →
        exec (.recordMoveDone t index ecc) s = .next ((s.at t).celDone (.record index.toNat)))
      ∧ ∀ r, tget index.toNat s.reqs.table = some r → r.moving = true →
        (r.hot = false → s.hotFull = true → exec (.recordMoveDone t index ecc) s = .next (s.at t))
        ∧ (r.handle.toNat % 65536 = index.toNat → r.hot = true ∨ s.hotFull = false → ∃ u, exec (.recordMoveDone t index ecc) s = .next u
          ∧ s.onlyChanges [.clk, .shell, .str, .ren, .churn, .skim, .reqs, .stw, .mbox, .ports] u
          ∧ (ecc = .clean ∨ ecc = .correctable → s.onlyChanges [.clk, .reqs, .ports] u
            ∧ tget index.toNat u.reqs.table = some { r with hot := !r.hot, moving := false, lastUse := if r.hot then r.lastUse else s.reqs.order + 1 }
            ∧ ∀ j, j ≠ index.toNat → tget j u.reqs.table = tget j s.reqs.table)
          ∧ (ecc = .uncorrectable ∨ ecc = .tagParity → r.st ≠ .ending → ∃ q, u.findReq r.handle = some q ∧ q.st = .ending ∧ q.endReason = endRecordFault ∧ q.hot = !r.hot ∧ q.moving = false)))
    ∧
  (∀ (s : State) (t : Time), let q := s.rat
      let total := sumNat ((q.customers.filter (fun c => c.2.inQ)).map (fun c => c.2.service))
      (s.duty 2 = false → exec (.epochCorrection t) s = .next (s.at t))
      ∧ (s.duty 2 = true → ∃ u, exec (.epochCorrection t) s = .next u ∧ s.onlyChanges [.clk, .rat, .free] u
        ∧ u.rat.pools = q.pools ∧ u.rat.builds = 0
        ∧ (∀ c, tget c q.customers = none → tget c u.rat.customers = none)
        ∧ (∀ c x, tget c q.customers = some x → ∃ y, tget c u.rat.customers = some y ∧ let k := x.nextK.getD x.k
           y = { x with service := 0, inQ := true, s := y.s, d := y.d, nextK := y.nextK }
          ∧ (total = 0 → y.nextK = x.nextK) ∧ (total ≠ 0 → x.inQ = false → y.nextK = some ((k + 256) / 2))
          ∧ (x.inQ = true → y.s = 65536 * (q.pools.getD x.pool {}).weight * x.weight
            / (sumNat (((List.range 16).filter (fun p => (q.customers.filter (fun c => c.2.inQ)).any (fun z => z.2.pool == p))).map (fun p => (q.pools.getD p {}).weight))
              * sumNat (((q.customers.filter (fun c => c.2.inQ)).filter (fun z => z.2.pool == x.pool)).map (fun z => z.2.weight))))
          ∧ (x.inQ = true → total ≠ 0 → y.d = x.service * 65536 / total
            ∧ y.nextK = some (if y.d = 0 then min (k * 2) 4096 else if (max y.s y.d - min y.s y.d) * 64 < y.s then k else min (max ((k * ((y.s * 65536 / y.d + 65536) / 2)) >>> 16) 16) 4096)))
        ∧ (total = 0 → u.rat.maxDev = 0)
        ∧ (total ≠ 0 → (∀ p ∈ q.customers, p.2.inQ = true → q.target p.2 ≠ 0 →
              (max (q.target p.2) (p.2.service * 65536 / total) - min (q.target p.2) (p.2.service * 65536 / total)) * 65536 / q.target p.2 ≤ u.rat.maxDev)
            ∧ (u.rat.maxDev = 0 ∨ ∃ p ∈ q.customers, p.2.inQ = true ∧ q.target p.2 ≠ 0
              ∧ u.rat.maxDev = (max (q.target p.2) (p.2.service * 65536 / total) - min (q.target p.2) (p.2.service * 65536 / total)) * 65536 / q.target p.2))))

/-- LADLE (R358, R359, R361): a core that is up serves the contexts in turn, after the one it served last. In an ATTACHED
context it runs the first command not yet accepted into a queue, where that is of its role, waits for nothing, and no response
of an earlier command waits for ring room; so does a lone command in a DETACHED one. A ladle is counted. A command that fails a general check is answered with the status of the first that fails and is ended. Otherwise
the last ladle runs the command from its bytes; an earlier ladle of a load marks its index as loading. -/
def Obligations.LadlesRun : Prop :=
  ∀ (s : State) (t : Time) (role : Nat) (src : Option (List Byte)) (last : Bool),
    let up := if s.skimMode then role = 0 ∧ s.boot.halt = false else role < 4 ∧ s.duty role = true ∧ (role = 2 → (s.at t).coreWaits = false)
    let brought := last || src.isSome
    (¬ up → exec (.ladle t role src last) s = .next (s.at t))
    ∧ (up → (∀ c < 256, s.ladleHead c role brought = none) → exec (.ladle t role src last) s = .next (s.at t))
    ∧ ∀ c k pre post, up → c < s.mbox.ctxs.length → c < 256 → role < s.mbox.rr.length → ((s.ctx c).attached = true ∨ pre = [] ∧ post = []) → (s.ctx c).cmds = pre ++ k :: post →
      (∀ p ∈ pre, p.accepted = true) → k.accepted = false →
      (∀ e ∈ (s.ctx c).waiting, e.kind = 1 → e.early = true) → (brought = true ∨ k.loading = false) →
      (if s.skimMode || !opKnown k.opcode then role = 0 else role = k.opcode / 256) →
      (k.opcode = opSetPower → ∀ w ∈ s.mbox.power, w.by_ ≠ ⟨BitVec.ofNat 8 c, k.tag⟩) → (k.opcode = opDetach → ⟨BitVec.ofNat 8 c, k.tag⟩ ∉ s.mbox.detaches) →
      (∀ d < 256, (d + 256 - (s.mbox.rr.getD role 255 + 1) % 256) % 256 < (c + 256 - (s.mbox.rr.getD role 255 + 1) % 256) % 256 → s.ladleHead d role brought = none) →
      ∃ u, exec (.ladle t role src last) s = .next u
        ∧ s.onlyChanges [.clk, .shell, .vat, .str, .drw, .ren, .churn, .skim, .coll, .reqs, .rat, .stw, .mbox, .regs, .log, .ports] u
        ∧ (let b : Sender := ⟨BitVec.ofNat 8 c, k.tag⟩
          let load := k.opcode = opLoadVocab ∨ k.opcode = opLoadGrammar
          let st := if leAt k.bytes 8 8 ≠ 0 then stCmdReserved else if opKnown k.opcode = false then stCmdOpcode else if s.skimMode = true ∧ opSkim k.opcode = false then stSkim
            else if k.len ≠ bodyLen k.opcode k.body then stCmdLength else if (zeroFields k.opcode k.body).any (fun z => bits (leNat k.body) z.1 z.2 != 0) = true then stCmdReserved else stOk
          let k1 : Taken := { k with ladles := k.ladles + 1, loading := k.loading || decide (load ∧ last = false) }
          let m : Mailbox := { s.mbox with rr := lmod role (fun _ => c) s.mbox.rr, ctxs := lmod c (fun x => { x with cmds := pre ++ k1 :: post }) s.mbox.ctxs }
          let A := (s.at t).modMbox (fun _ => m)
          (st ≠ stOk → s.ringFree c → u.ports.host = s.ports.host ++ [((s.ctx c).slotAddr, ringBytes c (s.ctx c).p (s.ctx c).log2r ⟨1, k.opcode, st, k.tag, k.ladles + 1, [], false⟩)]
            ∧ u.ctx c = { s.ctx c with p := ((s.ctx c).p + 1) % 2 ^ 32, cmds := pre ++ post } ∧ u.mbox.rr = m.rr)
          ∧ (st = stOk → last = true → u = runCommand b k.opcode k.body src (if k.loading then A.setLoading k false else A))
          ∧ (st = stOk → last = false → ¬ load ∨ k.loading = true → u = A)
          ∧ (st = stOk → last = false → load → k.loading = false → u = if s.mayLoad k then (A.setLoading k true).celAccess (.image b) 5 false (leAt k.body 8 8) (leAt k.body 4 4) else runCommand b k.opcode k.body src A))
end

