-- ==== Sys2Proof/Laws/State.lean ====
section
/-! SUPPORT. What an update of one unit leaves in each field of the state: one lemma for each field of each update, so that
no later proof unfolds a record update. -/

namespace Sys2Proof.Machine

/-! ### `State.modClk` -/

@[simp] theorem State.modClk_clk (f : Clocks → Clocks) (s : State) : (s.modClk f).clk = f s.clk := rfl
@[simp] theorem State.modClk_shell (f : Clocks → Clocks) (s : State) : (s.modClk f).shell = s.shell := rfl
@[simp] theorem State.modClk_vat (f : Clocks → Clocks) (s : State) : (s.modClk f).vat = s.vat := rfl
@[simp] theorem State.modClk_str (f : Clocks → Clocks) (s : State) : (s.modClk f).str = s.str := rfl
@[simp] theorem State.modClk_drw (f : Clocks → Clocks) (s : State) : (s.modClk f).drw = s.drw := rfl
@[simp] theorem State.modClk_ren (f : Clocks → Clocks) (s : State) : (s.modClk f).ren = s.ren := rfl
@[simp] theorem State.modClk_churn (f : Clocks → Clocks) (s : State) : (s.modClk f).churn = s.churn := rfl
@[simp] theorem State.modClk_skim (f : Clocks → Clocks) (s : State) : (s.modClk f).skim = s.skim := rfl
@[simp] theorem State.modClk_coll (f : Clocks → Clocks) (s : State) : (s.modClk f).coll = s.coll := rfl
@[simp] theorem State.modClk_reqs (f : Clocks → Clocks) (s : State) : (s.modClk f).reqs = s.reqs := rfl
@[simp] theorem State.modClk_rat (f : Clocks → Clocks) (s : State) : (s.modClk f).rat = s.rat := rfl
@[simp] theorem State.modClk_stw (f : Clocks → Clocks) (s : State) : (s.modClk f).stw = s.stw := rfl
@[simp] theorem State.modClk_fuses (f : Clocks → Clocks) (s : State) : (s.modClk f).fuses = s.fuses := rfl
@[simp] theorem State.modClk_boot (f : Clocks → Clocks) (s : State) : (s.modClk f).boot = s.boot := rfl
@[simp] theorem State.modClk_mbox (f : Clocks → Clocks) (s : State) : (s.modClk f).mbox = s.mbox := rfl
@[simp] theorem State.modClk_regs (f : Clocks → Clocks) (s : State) : (s.modClk f).regs = s.regs := rfl
@[simp] theorem State.modClk_log (f : Clocks → Clocks) (s : State) : (s.modClk f).log = s.log := rfl
@[simp] theorem State.modClk_wrap (f : Clocks → Clocks) (s : State) : (s.modClk f).wrap = s.wrap := rfl
@[simp] theorem State.modClk_ports (f : Clocks → Clocks) (s : State) : (s.modClk f).ports = s.ports := rfl
@[simp] theorem State.modClk_free (f : Clocks → Clocks) (s : State) : (s.modClk f).free = s.free := rfl
@[simp] theorem State.modClk_pending (f : Clocks → Clocks) (s : State) : (s.modClk f).pending = s.pending := rfl

/-! ### `State.modShell` -/

@[simp] theorem State.modShell_clk (f : Shell → Shell) (s : State) : (s.modShell f).clk = s.clk := rfl
@[simp] theorem State.modShell_shell (f : Shell → Shell) (s : State) : (s.modShell f).shell = f s.shell := rfl
@[simp] theorem State.modShell_vat (f : Shell → Shell) (s : State) : (s.modShell f).vat = s.vat := rfl
@[simp] theorem State.modShell_str (f : Shell → Shell) (s : State) : (s.modShell f).str = s.str := rfl
@[simp] theorem State.modShell_drw (f : Shell → Shell) (s : State) : (s.modShell f).drw = s.drw := rfl
@[simp] theorem State.modShell_ren (f : Shell → Shell) (s : State) : (s.modShell f).ren = s.ren := rfl
@[simp] theorem State.modShell_churn (f : Shell → Shell) (s : State) : (s.modShell f).churn = s.churn := rfl
@[simp] theorem State.modShell_skim (f : Shell → Shell) (s : State) : (s.modShell f).skim = s.skim := rfl
@[simp] theorem State.modShell_coll (f : Shell → Shell) (s : State) : (s.modShell f).coll = s.coll := rfl
@[simp] theorem State.modShell_reqs (f : Shell → Shell) (s : State) : (s.modShell f).reqs = s.reqs := rfl
@[simp] theorem State.modShell_rat (f : Shell → Shell) (s : State) : (s.modShell f).rat = s.rat := rfl
@[simp] theorem State.modShell_stw (f : Shell → Shell) (s : State) : (s.modShell f).stw = s.stw := rfl
@[simp] theorem State.modShell_fuses (f : Shell → Shell) (s : State) : (s.modShell f).fuses = s.fuses := rfl
@[simp] theorem State.modShell_boot (f : Shell → Shell) (s : State) : (s.modShell f).boot = s.boot := rfl
@[simp] theorem State.modShell_mbox (f : Shell → Shell) (s : State) : (s.modShell f).mbox = s.mbox := rfl
@[simp] theorem State.modShell_regs (f : Shell → Shell) (s : State) : (s.modShell f).regs = s.regs := rfl
@[simp] theorem State.modShell_log (f : Shell → Shell) (s : State) : (s.modShell f).log = s.log := rfl
@[simp] theorem State.modShell_wrap (f : Shell → Shell) (s : State) : (s.modShell f).wrap = s.wrap := rfl
@[simp] theorem State.modShell_ports (f : Shell → Shell) (s : State) : (s.modShell f).ports = s.ports := rfl
@[simp] theorem State.modShell_free (f : Shell → Shell) (s : State) : (s.modShell f).free = s.free := rfl
@[simp] theorem State.modShell_pending (f : Shell → Shell) (s : State) : (s.modShell f).pending = s.pending := rfl

/-! ### `State.modVat` -/

@[simp] theorem State.modVat_clk (f : Vat → Vat) (s : State) : (s.modVat f).clk = s.clk := rfl
@[simp] theorem State.modVat_shell (f : Vat → Vat) (s : State) : (s.modVat f).shell = s.shell := rfl
@[simp] theorem State.modVat_vat (f : Vat → Vat) (s : State) : (s.modVat f).vat = f s.vat := rfl
@[simp] theorem State.modVat_str (f : Vat → Vat) (s : State) : (s.modVat f).str = s.str := rfl
@[simp] theorem State.modVat_drw (f : Vat → Vat) (s : State) : (s.modVat f).drw = s.drw := rfl
@[simp] theorem State.modVat_ren (f : Vat → Vat) (s : State) : (s.modVat f).ren = s.ren := rfl
@[simp] theorem State.modVat_churn (f : Vat → Vat) (s : State) : (s.modVat f).churn = s.churn := rfl
@[simp] theorem State.modVat_skim (f : Vat → Vat) (s : State) : (s.modVat f).skim = s.skim := rfl
@[simp] theorem State.modVat_coll (f : Vat → Vat) (s : State) : (s.modVat f).coll = s.coll := rfl
@[simp] theorem State.modVat_reqs (f : Vat → Vat) (s : State) : (s.modVat f).reqs = s.reqs := rfl
@[simp] theorem State.modVat_rat (f : Vat → Vat) (s : State) : (s.modVat f).rat = s.rat := rfl
@[simp] theorem State.modVat_stw (f : Vat → Vat) (s : State) : (s.modVat f).stw = s.stw := rfl
@[simp] theorem State.modVat_fuses (f : Vat → Vat) (s : State) : (s.modVat f).fuses = s.fuses := rfl
@[simp] theorem State.modVat_boot (f : Vat → Vat) (s : State) : (s.modVat f).boot = s.boot := rfl
@[simp] theorem State.modVat_mbox (f : Vat → Vat) (s : State) : (s.modVat f).mbox = s.mbox := rfl
@[simp] theorem State.modVat_regs (f : Vat → Vat) (s : State) : (s.modVat f).regs = s.regs := rfl
@[simp] theorem State.modVat_log (f : Vat → Vat) (s : State) : (s.modVat f).log = s.log := rfl
@[simp] theorem State.modVat_wrap (f : Vat → Vat) (s : State) : (s.modVat f).wrap = s.wrap := rfl
@[simp] theorem State.modVat_ports (f : Vat → Vat) (s : State) : (s.modVat f).ports = s.ports := rfl
@[simp] theorem State.modVat_free (f : Vat → Vat) (s : State) : (s.modVat f).free = s.free := rfl
@[simp] theorem State.modVat_pending (f : Vat → Vat) (s : State) : (s.modVat f).pending = s.pending := rfl

/-! ### `State.modStr` -/

@[simp] theorem State.modStr_clk (f : Strainers → Strainers) (s : State) : (s.modStr f).clk = s.clk := rfl
@[simp] theorem State.modStr_shell (f : Strainers → Strainers) (s : State) : (s.modStr f).shell = s.shell := rfl
@[simp] theorem State.modStr_vat (f : Strainers → Strainers) (s : State) : (s.modStr f).vat = s.vat := rfl
@[simp] theorem State.modStr_str (f : Strainers → Strainers) (s : State) : (s.modStr f).str = f s.str := rfl
@[simp] theorem State.modStr_drw (f : Strainers → Strainers) (s : State) : (s.modStr f).drw = s.drw := rfl
@[simp] theorem State.modStr_ren (f : Strainers → Strainers) (s : State) : (s.modStr f).ren = s.ren := rfl
@[simp] theorem State.modStr_churn (f : Strainers → Strainers) (s : State) : (s.modStr f).churn = s.churn := rfl
@[simp] theorem State.modStr_skim (f : Strainers → Strainers) (s : State) : (s.modStr f).skim = s.skim := rfl
@[simp] theorem State.modStr_coll (f : Strainers → Strainers) (s : State) : (s.modStr f).coll = s.coll := rfl
@[simp] theorem State.modStr_reqs (f : Strainers → Strainers) (s : State) : (s.modStr f).reqs = s.reqs := rfl
@[simp] theorem State.modStr_rat (f : Strainers → Strainers) (s : State) : (s.modStr f).rat = s.rat := rfl
@[simp] theorem State.modStr_stw (f : Strainers → Strainers) (s : State) : (s.modStr f).stw = s.stw := rfl
@[simp] theorem State.modStr_fuses (f : Strainers → Strainers) (s : State) : (s.modStr f).fuses = s.fuses := rfl
@[simp] theorem State.modStr_boot (f : Strainers → Strainers) (s : State) : (s.modStr f).boot = s.boot := rfl
@[simp] theorem State.modStr_mbox (f : Strainers → Strainers) (s : State) : (s.modStr f).mbox = s.mbox := rfl
@[simp] theorem State.modStr_regs (f : Strainers → Strainers) (s : State) : (s.modStr f).regs = s.regs := rfl
@[simp] theorem State.modStr_log (f : Strainers → Strainers) (s : State) : (s.modStr f).log = s.log := rfl
@[simp] theorem State.modStr_wrap (f : Strainers → Strainers) (s : State) : (s.modStr f).wrap = s.wrap := rfl
@[simp] theorem State.modStr_ports (f : Strainers → Strainers) (s : State) : (s.modStr f).ports = s.ports := rfl
@[simp] theorem State.modStr_free (f : Strainers → Strainers) (s : State) : (s.modStr f).free = s.free := rfl
@[simp] theorem State.modStr_pending (f : Strainers → Strainers) (s : State) : (s.modStr f).pending = s.pending := rfl

/-! ### `State.modDrw` -/

@[simp] theorem State.modDrw_clk (f : DrawUnit → DrawUnit) (s : State) : (s.modDrw f).clk = s.clk := rfl
@[simp] theorem State.modDrw_shell (f : DrawUnit → DrawUnit) (s : State) : (s.modDrw f).shell = s.shell := rfl
@[simp] theorem State.modDrw_vat (f : DrawUnit → DrawUnit) (s : State) : (s.modDrw f).vat = s.vat := rfl
@[simp] theorem State.modDrw_str (f : DrawUnit → DrawUnit) (s : State) : (s.modDrw f).str = s.str := rfl
@[simp] theorem State.modDrw_drw (f : DrawUnit → DrawUnit) (s : State) : (s.modDrw f).drw = f s.drw := rfl
@[simp] theorem State.modDrw_ren (f : DrawUnit → DrawUnit) (s : State) : (s.modDrw f).ren = s.ren := rfl
@[simp] theorem State.modDrw_churn (f : DrawUnit → DrawUnit) (s : State) : (s.modDrw f).churn = s.churn := rfl
@[simp] theorem State.modDrw_skim (f : DrawUnit → DrawUnit) (s : State) : (s.modDrw f).skim = s.skim := rfl
@[simp] theorem State.modDrw_coll (f : DrawUnit → DrawUnit) (s : State) : (s.modDrw f).coll = s.coll := rfl
@[simp] theorem State.modDrw_reqs (f : DrawUnit → DrawUnit) (s : State) : (s.modDrw f).reqs = s.reqs := rfl
@[simp] theorem State.modDrw_rat (f : DrawUnit → DrawUnit) (s : State) : (s.modDrw f).rat = s.rat := rfl
@[simp] theorem State.modDrw_stw (f : DrawUnit → DrawUnit) (s : State) : (s.modDrw f).stw = s.stw := rfl
@[simp] theorem State.modDrw_fuses (f : DrawUnit → DrawUnit) (s : State) : (s.modDrw f).fuses = s.fuses := rfl
@[simp] theorem State.modDrw_boot (f : DrawUnit → DrawUnit) (s : State) : (s.modDrw f).boot = s.boot := rfl
@[simp] theorem State.modDrw_mbox (f : DrawUnit → DrawUnit) (s : State) : (s.modDrw f).mbox = s.mbox := rfl
@[simp] theorem State.modDrw_regs (f : DrawUnit → DrawUnit) (s : State) : (s.modDrw f).regs = s.regs := rfl
@[simp] theorem State.modDrw_log (f : DrawUnit → DrawUnit) (s : State) : (s.modDrw f).log = s.log := rfl
@[simp] theorem State.modDrw_wrap (f : DrawUnit → DrawUnit) (s : State) : (s.modDrw f).wrap = s.wrap := rfl
@[simp] theorem State.modDrw_ports (f : DrawUnit → DrawUnit) (s : State) : (s.modDrw f).ports = s.ports := rfl
@[simp] theorem State.modDrw_free (f : DrawUnit → DrawUnit) (s : State) : (s.modDrw f).free = s.free := rfl
@[simp] theorem State.modDrw_pending (f : DrawUnit → DrawUnit) (s : State) : (s.modDrw f).pending = s.pending := rfl

/-! ### `State.modRen` -/

@[simp] theorem State.modRen_clk (f : Rennet → Rennet) (s : State) : (s.modRen f).clk = s.clk := rfl
@[simp] theorem State.modRen_shell (f : Rennet → Rennet) (s : State) : (s.modRen f).shell = s.shell := rfl
@[simp] theorem State.modRen_vat (f : Rennet → Rennet) (s : State) : (s.modRen f).vat = s.vat := rfl
@[simp] theorem State.modRen_str (f : Rennet → Rennet) (s : State) : (s.modRen f).str = s.str := rfl
@[simp] theorem State.modRen_drw (f : Rennet → Rennet) (s : State) : (s.modRen f).drw = s.drw := rfl
@[simp] theorem State.modRen_ren (f : Rennet → Rennet) (s : State) : (s.modRen f).ren = f s.ren := rfl
@[simp] theorem State.modRen_churn (f : Rennet → Rennet) (s : State) : (s.modRen f).churn = s.churn := rfl
@[simp] theorem State.modRen_skim (f : Rennet → Rennet) (s : State) : (s.modRen f).skim = s.skim := rfl
@[simp] theorem State.modRen_coll (f : Rennet → Rennet) (s : State) : (s.modRen f).coll = s.coll := rfl
@[simp] theorem State.modRen_reqs (f : Rennet → Rennet) (s : State) : (s.modRen f).reqs = s.reqs := rfl
@[simp] theorem State.modRen_rat (f : Rennet → Rennet) (s : State) : (s.modRen f).rat = s.rat := rfl
@[simp] theorem State.modRen_stw (f : Rennet → Rennet) (s : State) : (s.modRen f).stw = s.stw := rfl
@[simp] theorem State.modRen_fuses (f : Rennet → Rennet) (s : State) : (s.modRen f).fuses = s.fuses := rfl
@[simp] theorem State.modRen_boot (f : Rennet → Rennet) (s : State) : (s.modRen f).boot = s.boot := rfl
@[simp] theorem State.modRen_mbox (f : Rennet → Rennet) (s : State) : (s.modRen f).mbox = s.mbox := rfl
@[simp] theorem State.modRen_regs (f : Rennet → Rennet) (s : State) : (s.modRen f).regs = s.regs := rfl
@[simp] theorem State.modRen_log (f : Rennet → Rennet) (s : State) : (s.modRen f).log = s.log := rfl
@[simp] theorem State.modRen_wrap (f : Rennet → Rennet) (s : State) : (s.modRen f).wrap = s.wrap := rfl
@[simp] theorem State.modRen_ports (f : Rennet → Rennet) (s : State) : (s.modRen f).ports = s.ports := rfl
@[simp] theorem State.modRen_free (f : Rennet → Rennet) (s : State) : (s.modRen f).free = s.free := rfl
@[simp] theorem State.modRen_pending (f : Rennet → Rennet) (s : State) : (s.modRen f).pending = s.pending := rfl

/-! ### `State.modChurn` -/

@[simp] theorem State.modChurn_clk (f : Churn → Churn) (s : State) : (s.modChurn f).clk = s.clk := rfl
@[simp] theorem State.modChurn_shell (f : Churn → Churn) (s : State) : (s.modChurn f).shell = s.shell := rfl
@[simp] theorem State.modChurn_vat (f : Churn → Churn) (s : State) : (s.modChurn f).vat = s.vat := rfl
@[simp] theorem State.modChurn_str (f : Churn → Churn) (s : State) : (s.modChurn f).str = s.str := rfl
@[simp] theorem State.modChurn_drw (f : Churn → Churn) (s : State) : (s.modChurn f).drw = s.drw := rfl
@[simp] theorem State.modChurn_ren (f : Churn → Churn) (s : State) : (s.modChurn f).ren = s.ren := rfl
@[simp] theorem State.modChurn_churn (f : Churn → Churn) (s : State) : (s.modChurn f).churn = f s.churn := rfl
@[simp] theorem State.modChurn_skim (f : Churn → Churn) (s : State) : (s.modChurn f).skim = s.skim := rfl
@[simp] theorem State.modChurn_coll (f : Churn → Churn) (s : State) : (s.modChurn f).coll = s.coll := rfl
@[simp] theorem State.modChurn_reqs (f : Churn → Churn) (s : State) : (s.modChurn f).reqs = s.reqs := rfl
@[simp] theorem State.modChurn_rat (f : Churn → Churn) (s : State) : (s.modChurn f).rat = s.rat := rfl
@[simp] theorem State.modChurn_stw (f : Churn → Churn) (s : State) : (s.modChurn f).stw = s.stw := rfl
@[simp] theorem State.modChurn_fuses (f : Churn → Churn) (s : State) : (s.modChurn f).fuses = s.fuses := rfl
@[simp] theorem State.modChurn_boot (f : Churn → Churn) (s : State) : (s.modChurn f).boot = s.boot := rfl
@[simp] theorem State.modChurn_mbox (f : Churn → Churn) (s : State) : (s.modChurn f).mbox = s.mbox := rfl
@[simp] theorem State.modChurn_regs (f : Churn → Churn) (s : State) : (s.modChurn f).regs = s.regs := rfl
@[simp] theorem State.modChurn_log (f : Churn → Churn) (s : State) : (s.modChurn f).log = s.log := rfl
@[simp] theorem State.modChurn_wrap (f : Churn → Churn) (s : State) : (s.modChurn f).wrap = s.wrap := rfl
@[simp] theorem State.modChurn_ports (f : Churn → Churn) (s : State) : (s.modChurn f).ports = s.ports := rfl
@[simp] theorem State.modChurn_free (f : Churn → Churn) (s : State) : (s.modChurn f).free = s.free := rfl
@[simp] theorem State.modChurn_pending (f : Churn → Churn) (s : State) : (s.modChurn f).pending = s.pending := rfl

/-! ### `State.modSkim` -/

@[simp] theorem State.modSkim_clk (f : Skimmer → Skimmer) (s : State) : (s.modSkim f).clk = s.clk := rfl
@[simp] theorem State.modSkim_shell (f : Skimmer → Skimmer) (s : State) : (s.modSkim f).shell = s.shell := rfl
@[simp] theorem State.modSkim_vat (f : Skimmer → Skimmer) (s : State) : (s.modSkim f).vat = s.vat := rfl
@[simp] theorem State.modSkim_str (f : Skimmer → Skimmer) (s : State) : (s.modSkim f).str = s.str := rfl
@[simp] theorem State.modSkim_drw (f : Skimmer → Skimmer) (s : State) : (s.modSkim f).drw = s.drw := rfl
@[simp] theorem State.modSkim_ren (f : Skimmer → Skimmer) (s : State) : (s.modSkim f).ren = s.ren := rfl
@[simp] theorem State.modSkim_churn (f : Skimmer → Skimmer) (s : State) : (s.modSkim f).churn = s.churn := rfl
@[simp] theorem State.modSkim_skim (f : Skimmer → Skimmer) (s : State) : (s.modSkim f).skim = f s.skim := rfl
@[simp] theorem State.modSkim_coll (f : Skimmer → Skimmer) (s : State) : (s.modSkim f).coll = s.coll := rfl
@[simp] theorem State.modSkim_reqs (f : Skimmer → Skimmer) (s : State) : (s.modSkim f).reqs = s.reqs := rfl
@[simp] theorem State.modSkim_rat (f : Skimmer → Skimmer) (s : State) : (s.modSkim f).rat = s.rat := rfl
@[simp] theorem State.modSkim_stw (f : Skimmer → Skimmer) (s : State) : (s.modSkim f).stw = s.stw := rfl
@[simp] theorem State.modSkim_fuses (f : Skimmer → Skimmer) (s : State) : (s.modSkim f).fuses = s.fuses := rfl
@[simp] theorem State.modSkim_boot (f : Skimmer → Skimmer) (s : State) : (s.modSkim f).boot = s.boot := rfl
@[simp] theorem State.modSkim_mbox (f : Skimmer → Skimmer) (s : State) : (s.modSkim f).mbox = s.mbox := rfl
@[simp] theorem State.modSkim_regs (f : Skimmer → Skimmer) (s : State) : (s.modSkim f).regs = s.regs := rfl
@[simp] theorem State.modSkim_log (f : Skimmer → Skimmer) (s : State) : (s.modSkim f).log = s.log := rfl
@[simp] theorem State.modSkim_wrap (f : Skimmer → Skimmer) (s : State) : (s.modSkim f).wrap = s.wrap := rfl
@[simp] theorem State.modSkim_ports (f : Skimmer → Skimmer) (s : State) : (s.modSkim f).ports = s.ports := rfl
@[simp] theorem State.modSkim_free (f : Skimmer → Skimmer) (s : State) : (s.modSkim f).free = s.free := rfl
@[simp] theorem State.modSkim_pending (f : Skimmer → Skimmer) (s : State) : (s.modSkim f).pending = s.pending := rfl

/-! ### `State.modColl` -/

@[simp] theorem State.modColl_clk (f : Collective → Collective) (s : State) : (s.modColl f).clk = s.clk := rfl
@[simp] theorem State.modColl_shell (f : Collective → Collective) (s : State) : (s.modColl f).shell = s.shell := rfl
@[simp] theorem State.modColl_vat (f : Collective → Collective) (s : State) : (s.modColl f).vat = s.vat := rfl
@[simp] theorem State.modColl_str (f : Collective → Collective) (s : State) : (s.modColl f).str = s.str := rfl
@[simp] theorem State.modColl_drw (f : Collective → Collective) (s : State) : (s.modColl f).drw = s.drw := rfl
@[simp] theorem State.modColl_ren (f : Collective → Collective) (s : State) : (s.modColl f).ren = s.ren := rfl
@[simp] theorem State.modColl_churn (f : Collective → Collective) (s : State) : (s.modColl f).churn = s.churn := rfl
@[simp] theorem State.modColl_skim (f : Collective → Collective) (s : State) : (s.modColl f).skim = s.skim := rfl
@[simp] theorem State.modColl_coll (f : Collective → Collective) (s : State) : (s.modColl f).coll = f s.coll := rfl
@[simp] theorem State.modColl_reqs (f : Collective → Collective) (s : State) : (s.modColl f).reqs = s.reqs := rfl
@[simp] theorem State.modColl_rat (f : Collective → Collective) (s : State) : (s.modColl f).rat = s.rat := rfl
@[simp] theorem State.modColl_stw (f : Collective → Collective) (s : State) : (s.modColl f).stw = s.stw := rfl
@[simp] theorem State.modColl_fuses (f : Collective → Collective) (s : State) : (s.modColl f).fuses = s.fuses := rfl
@[simp] theorem State.modColl_boot (f : Collective → Collective) (s : State) : (s.modColl f).boot = s.boot := rfl
@[simp] theorem State.modColl_mbox (f : Collective → Collective) (s : State) : (s.modColl f).mbox = s.mbox := rfl
@[simp] theorem State.modColl_regs (f : Collective → Collective) (s : State) : (s.modColl f).regs = s.regs := rfl
@[simp] theorem State.modColl_log (f : Collective → Collective) (s : State) : (s.modColl f).log = s.log := rfl
@[simp] theorem State.modColl_wrap (f : Collective → Collective) (s : State) : (s.modColl f).wrap = s.wrap := rfl
@[simp] theorem State.modColl_ports (f : Collective → Collective) (s : State) : (s.modColl f).ports = s.ports := rfl
@[simp] theorem State.modColl_free (f : Collective → Collective) (s : State) : (s.modColl f).free = s.free := rfl
@[simp] theorem State.modColl_pending (f : Collective → Collective) (s : State) : (s.modColl f).pending = s.pending := rfl

/-! ### `State.modReqs` -/

@[simp] theorem State.modReqs_clk (f : Requests → Requests) (s : State) : (s.modReqs f).clk = s.clk := rfl
@[simp] theorem State.modReqs_shell (f : Requests → Requests) (s : State) : (s.modReqs f).shell = s.shell := rfl
@[simp] theorem State.modReqs_vat (f : Requests → Requests) (s : State) : (s.modReqs f).vat = s.vat := rfl
@[simp] theorem State.modReqs_str (f : Requests → Requests) (s : State) : (s.modReqs f).str = s.str := rfl
@[simp] theorem State.modReqs_drw (f : Requests → Requests) (s : State) : (s.modReqs f).drw = s.drw := rfl
@[simp] theorem State.modReqs_ren (f : Requests → Requests) (s : State) : (s.modReqs f).ren = s.ren := rfl
@[simp] theorem State.modReqs_churn (f : Requests → Requests) (s : State) : (s.modReqs f).churn = s.churn := rfl
@[simp] theorem State.modReqs_skim (f : Requests → Requests) (s : State) : (s.modReqs f).skim = s.skim := rfl
@[simp] theorem State.modReqs_coll (f : Requests → Requests) (s : State) : (s.modReqs f).coll = s.coll := rfl
@[simp] theorem State.modReqs_reqs (f : Requests → Requests) (s : State) : (s.modReqs f).reqs = f s.reqs := rfl
@[simp] theorem State.modReqs_rat (f : Requests → Requests) (s : State) : (s.modReqs f).rat = s.rat := rfl
@[simp] theorem State.modReqs_stw (f : Requests → Requests) (s : State) : (s.modReqs f).stw = s.stw := rfl
@[simp] theorem State.modReqs_fuses (f : Requests → Requests) (s : State) : (s.modReqs f).fuses = s.fuses := rfl
@[simp] theorem State.modReqs_boot (f : Requests → Requests) (s : State) : (s.modReqs f).boot = s.boot := rfl
@[simp] theorem State.modReqs_mbox (f : Requests → Requests) (s : State) : (s.modReqs f).mbox = s.mbox := rfl
@[simp] theorem State.modReqs_regs (f : Requests → Requests) (s : State) : (s.modReqs f).regs = s.regs := rfl
@[simp] theorem State.modReqs_log (f : Requests → Requests) (s : State) : (s.modReqs f).log = s.log := rfl
@[simp] theorem State.modReqs_wrap (f : Requests → Requests) (s : State) : (s.modReqs f).wrap = s.wrap := rfl
@[simp] theorem State.modReqs_ports (f : Requests → Requests) (s : State) : (s.modReqs f).ports = s.ports := rfl
@[simp] theorem State.modReqs_free (f : Requests → Requests) (s : State) : (s.modReqs f).free = s.free := rfl
@[simp] theorem State.modReqs_pending (f : Requests → Requests) (s : State) : (s.modReqs f).pending = s.pending := rfl

/-! ### `State.modRat` -/

@[simp] theorem State.modRat_clk (f : Rations → Rations) (s : State) : (s.modRat f).clk = s.clk := rfl
@[simp] theorem State.modRat_shell (f : Rations → Rations) (s : State) : (s.modRat f).shell = s.shell := rfl
@[simp] theorem State.modRat_vat (f : Rations → Rations) (s : State) : (s.modRat f).vat = s.vat := rfl
@[simp] theorem State.modRat_str (f : Rations → Rations) (s : State) : (s.modRat f).str = s.str := rfl
@[simp] theorem State.modRat_drw (f : Rations → Rations) (s : State) : (s.modRat f).drw = s.drw := rfl
@[simp] theorem State.modRat_ren (f : Rations → Rations) (s : State) : (s.modRat f).ren = s.ren := rfl
@[simp] theorem State.modRat_churn (f : Rations → Rations) (s : State) : (s.modRat f).churn = s.churn := rfl
@[simp] theorem State.modRat_skim (f : Rations → Rations) (s : State) : (s.modRat f).skim = s.skim := rfl
@[simp] theorem State.modRat_coll (f : Rations → Rations) (s : State) : (s.modRat f).coll = s.coll := rfl
@[simp] theorem State.modRat_reqs (f : Rations → Rations) (s : State) : (s.modRat f).reqs = s.reqs := rfl
@[simp] theorem State.modRat_rat (f : Rations → Rations) (s : State) : (s.modRat f).rat = f s.rat := rfl
@[simp] theorem State.modRat_stw (f : Rations → Rations) (s : State) : (s.modRat f).stw = s.stw := rfl
@[simp] theorem State.modRat_fuses (f : Rations → Rations) (s : State) : (s.modRat f).fuses = s.fuses := rfl
@[simp] theorem State.modRat_boot (f : Rations → Rations) (s : State) : (s.modRat f).boot = s.boot := rfl
@[simp] theorem State.modRat_mbox (f : Rations → Rations) (s : State) : (s.modRat f).mbox = s.mbox := rfl
@[simp] theorem State.modRat_regs (f : Rations → Rations) (s : State) : (s.modRat f).regs = s.regs := rfl
@[simp] theorem State.modRat_log (f : Rations → Rations) (s : State) : (s.modRat f).log = s.log := rfl
@[simp] theorem State.modRat_wrap (f : Rations → Rations) (s : State) : (s.modRat f).wrap = s.wrap := rfl
@[simp] theorem State.modRat_ports (f : Rations → Rations) (s : State) : (s.modRat f).ports = s.ports := rfl
@[simp] theorem State.modRat_free (f : Rations → Rations) (s : State) : (s.modRat f).free = s.free := rfl
@[simp] theorem State.modRat_pending (f : Rations → Rations) (s : State) : (s.modRat f).pending = s.pending := rfl

/-! ### `State.modStw` -/

@[simp] theorem State.modStw_clk (f : Steward → Steward) (s : State) : (s.modStw f).clk = s.clk := rfl
@[simp] theorem State.modStw_shell (f : Steward → Steward) (s : State) : (s.modStw f).shell = s.shell := rfl
@[simp] theorem State.modStw_vat (f : Steward → Steward) (s : State) : (s.modStw f).vat = s.vat := rfl
@[simp] theorem State.modStw_str (f : Steward → Steward) (s : State) : (s.modStw f).str = s.str := rfl
@[simp] theorem State.modStw_drw (f : Steward → Steward) (s : State) : (s.modStw f).drw = s.drw := rfl
@[simp] theorem State.modStw_ren (f : Steward → Steward) (s : State) : (s.modStw f).ren = s.ren := rfl
@[simp] theorem State.modStw_churn (f : Steward → Steward) (s : State) : (s.modStw f).churn = s.churn := rfl
@[simp] theorem State.modStw_skim (f : Steward → Steward) (s : State) : (s.modStw f).skim = s.skim := rfl
@[simp] theorem State.modStw_coll (f : Steward → Steward) (s : State) : (s.modStw f).coll = s.coll := rfl
@[simp] theorem State.modStw_reqs (f : Steward → Steward) (s : State) : (s.modStw f).reqs = s.reqs := rfl
@[simp] theorem State.modStw_rat (f : Steward → Steward) (s : State) : (s.modStw f).rat = s.rat := rfl
@[simp] theorem State.modStw_stw (f : Steward → Steward) (s : State) : (s.modStw f).stw = f s.stw := rfl
@[simp] theorem State.modStw_fuses (f : Steward → Steward) (s : State) : (s.modStw f).fuses = s.fuses := rfl
@[simp] theorem State.modStw_boot (f : Steward → Steward) (s : State) : (s.modStw f).boot = s.boot := rfl
@[simp] theorem State.modStw_mbox (f : Steward → Steward) (s : State) : (s.modStw f).mbox = s.mbox := rfl
@[simp] theorem State.modStw_regs (f : Steward → Steward) (s : State) : (s.modStw f).regs = s.regs := rfl
@[simp] theorem State.modStw_log (f : Steward → Steward) (s : State) : (s.modStw f).log = s.log := rfl
@[simp] theorem State.modStw_wrap (f : Steward → Steward) (s : State) : (s.modStw f).wrap = s.wrap := rfl
@[simp] theorem State.modStw_ports (f : Steward → Steward) (s : State) : (s.modStw f).ports = s.ports := rfl
@[simp] theorem State.modStw_free (f : Steward → Steward) (s : State) : (s.modStw f).free = s.free := rfl
@[simp] theorem State.modStw_pending (f : Steward → Steward) (s : State) : (s.modStw f).pending = s.pending := rfl

/-! ### `State.modFuses` -/

@[simp] theorem State.modFuses_clk (f : Fuses → Fuses) (s : State) : (s.modFuses f).clk = s.clk := rfl
@[simp] theorem State.modFuses_shell (f : Fuses → Fuses) (s : State) : (s.modFuses f).shell = s.shell := rfl
@[simp] theorem State.modFuses_vat (f : Fuses → Fuses) (s : State) : (s.modFuses f).vat = s.vat := rfl
@[simp] theorem State.modFuses_str (f : Fuses → Fuses) (s : State) : (s.modFuses f).str = s.str := rfl
@[simp] theorem State.modFuses_drw (f : Fuses → Fuses) (s : State) : (s.modFuses f).drw = s.drw := rfl
@[simp] theorem State.modFuses_ren (f : Fuses → Fuses) (s : State) : (s.modFuses f).ren = s.ren := rfl
@[simp] theorem State.modFuses_churn (f : Fuses → Fuses) (s : State) : (s.modFuses f).churn = s.churn := rfl
@[simp] theorem State.modFuses_skim (f : Fuses → Fuses) (s : State) : (s.modFuses f).skim = s.skim := rfl
@[simp] theorem State.modFuses_coll (f : Fuses → Fuses) (s : State) : (s.modFuses f).coll = s.coll := rfl
@[simp] theorem State.modFuses_reqs (f : Fuses → Fuses) (s : State) : (s.modFuses f).reqs = s.reqs := rfl
@[simp] theorem State.modFuses_rat (f : Fuses → Fuses) (s : State) : (s.modFuses f).rat = s.rat := rfl
@[simp] theorem State.modFuses_stw (f : Fuses → Fuses) (s : State) : (s.modFuses f).stw = s.stw := rfl
@[simp] theorem State.modFuses_fuses (f : Fuses → Fuses) (s : State) : (s.modFuses f).fuses = f s.fuses := rfl
@[simp] theorem State.modFuses_boot (f : Fuses → Fuses) (s : State) : (s.modFuses f).boot = s.boot := rfl
@[simp] theorem State.modFuses_mbox (f : Fuses → Fuses) (s : State) : (s.modFuses f).mbox = s.mbox := rfl
@[simp] theorem State.modFuses_regs (f : Fuses → Fuses) (s : State) : (s.modFuses f).regs = s.regs := rfl
@[simp] theorem State.modFuses_log (f : Fuses → Fuses) (s : State) : (s.modFuses f).log = s.log := rfl
@[simp] theorem State.modFuses_wrap (f : Fuses → Fuses) (s : State) : (s.modFuses f).wrap = s.wrap := rfl
@[simp] theorem State.modFuses_ports (f : Fuses → Fuses) (s : State) : (s.modFuses f).ports = s.ports := rfl
@[simp] theorem State.modFuses_free (f : Fuses → Fuses) (s : State) : (s.modFuses f).free = s.free := rfl
@[simp] theorem State.modFuses_pending (f : Fuses → Fuses) (s : State) : (s.modFuses f).pending = s.pending := rfl

/-! ### `State.modBoot` -/

@[simp] theorem State.modBoot_clk (f : Boot → Boot) (s : State) : (s.modBoot f).clk = s.clk := rfl
@[simp] theorem State.modBoot_shell (f : Boot → Boot) (s : State) : (s.modBoot f).shell = s.shell := rfl
@[simp] theorem State.modBoot_vat (f : Boot → Boot) (s : State) : (s.modBoot f).vat = s.vat := rfl
@[simp] theorem State.modBoot_str (f : Boot → Boot) (s : State) : (s.modBoot f).str = s.str := rfl
@[simp] theorem State.modBoot_drw (f : Boot → Boot) (s : State) : (s.modBoot f).drw = s.drw := rfl
@[simp] theorem State.modBoot_ren (f : Boot → Boot) (s : State) : (s.modBoot f).ren = s.ren := rfl
@[simp] theorem State.modBoot_churn (f : Boot → Boot) (s : State) : (s.modBoot f).churn = s.churn := rfl
@[simp] theorem State.modBoot_skim (f : Boot → Boot) (s : State) : (s.modBoot f).skim = s.skim := rfl
@[simp] theorem State.modBoot_coll (f : Boot → Boot) (s : State) : (s.modBoot f).coll = s.coll := rfl
@[simp] theorem State.modBoot_reqs (f : Boot → Boot) (s : State) : (s.modBoot f).reqs = s.reqs := rfl
@[simp] theorem State.modBoot_rat (f : Boot → Boot) (s : State) : (s.modBoot f).rat = s.rat := rfl
@[simp] theorem State.modBoot_stw (f : Boot → Boot) (s : State) : (s.modBoot f).stw = s.stw := rfl
@[simp] theorem State.modBoot_fuses (f : Boot → Boot) (s : State) : (s.modBoot f).fuses = s.fuses := rfl
@[simp] theorem State.modBoot_boot (f : Boot → Boot) (s : State) : (s.modBoot f).boot = f s.boot := rfl
@[simp] theorem State.modBoot_mbox (f : Boot → Boot) (s : State) : (s.modBoot f).mbox = s.mbox := rfl
@[simp] theorem State.modBoot_regs (f : Boot → Boot) (s : State) : (s.modBoot f).regs = s.regs := rfl
@[simp] theorem State.modBoot_log (f : Boot → Boot) (s : State) : (s.modBoot f).log = s.log := rfl
@[simp] theorem State.modBoot_wrap (f : Boot → Boot) (s : State) : (s.modBoot f).wrap = s.wrap := rfl
@[simp] theorem State.modBoot_ports (f : Boot → Boot) (s : State) : (s.modBoot f).ports = s.ports := rfl
@[simp] theorem State.modBoot_free (f : Boot → Boot) (s : State) : (s.modBoot f).free = s.free := rfl
@[simp] theorem State.modBoot_pending (f : Boot → Boot) (s : State) : (s.modBoot f).pending = s.pending := rfl

/-! ### `State.modMbox` -/

@[simp] theorem State.modMbox_clk (f : Mailbox → Mailbox) (s : State) : (s.modMbox f).clk = s.clk := rfl
@[simp] theorem State.modMbox_shell (f : Mailbox → Mailbox) (s : State) : (s.modMbox f).shell = s.shell := rfl
@[simp] theorem State.modMbox_vat (f : Mailbox → Mailbox) (s : State) : (s.modMbox f).vat = s.vat := rfl
@[simp] theorem State.modMbox_str (f : Mailbox → Mailbox) (s : State) : (s.modMbox f).str = s.str := rfl
@[simp] theorem State.modMbox_drw (f : Mailbox → Mailbox) (s : State) : (s.modMbox f).drw = s.drw := rfl
@[simp] theorem State.modMbox_ren (f : Mailbox → Mailbox) (s : State) : (s.modMbox f).ren = s.ren := rfl
@[simp] theorem State.modMbox_churn (f : Mailbox → Mailbox) (s : State) : (s.modMbox f).churn = s.churn := rfl
@[simp] theorem State.modMbox_skim (f : Mailbox → Mailbox) (s : State) : (s.modMbox f).skim = s.skim := rfl
@[simp] theorem State.modMbox_coll (f : Mailbox → Mailbox) (s : State) : (s.modMbox f).coll = s.coll := rfl
@[simp] theorem State.modMbox_reqs (f : Mailbox → Mailbox) (s : State) : (s.modMbox f).reqs = s.reqs := rfl
@[simp] theorem State.modMbox_rat (f : Mailbox → Mailbox) (s : State) : (s.modMbox f).rat = s.rat := rfl
@[simp] theorem State.modMbox_stw (f : Mailbox → Mailbox) (s : State) : (s.modMbox f).stw = s.stw := rfl
@[simp] theorem State.modMbox_fuses (f : Mailbox → Mailbox) (s : State) : (s.modMbox f).fuses = s.fuses := rfl
@[simp] theorem State.modMbox_boot (f : Mailbox → Mailbox) (s : State) : (s.modMbox f).boot = s.boot := rfl
@[simp] theorem State.modMbox_mbox (f : Mailbox → Mailbox) (s : State) : (s.modMbox f).mbox = f s.mbox := rfl
@[simp] theorem State.modMbox_regs (f : Mailbox → Mailbox) (s : State) : (s.modMbox f).regs = s.regs := rfl
@[simp] theorem State.modMbox_log (f : Mailbox → Mailbox) (s : State) : (s.modMbox f).log = s.log := rfl
@[simp] theorem State.modMbox_wrap (f : Mailbox → Mailbox) (s : State) : (s.modMbox f).wrap = s.wrap := rfl
@[simp] theorem State.modMbox_ports (f : Mailbox → Mailbox) (s : State) : (s.modMbox f).ports = s.ports := rfl
@[simp] theorem State.modMbox_free (f : Mailbox → Mailbox) (s : State) : (s.modMbox f).free = s.free := rfl
@[simp] theorem State.modMbox_pending (f : Mailbox → Mailbox) (s : State) : (s.modMbox f).pending = s.pending := rfl

/-! ### `State.modRegs` -/

@[simp] theorem State.modRegs_clk (f : Regs → Regs) (s : State) : (s.modRegs f).clk = s.clk := rfl
@[simp] theorem State.modRegs_shell (f : Regs → Regs) (s : State) : (s.modRegs f).shell = s.shell := rfl
@[simp] theorem State.modRegs_vat (f : Regs → Regs) (s : State) : (s.modRegs f).vat = s.vat := rfl
@[simp] theorem State.modRegs_str (f : Regs → Regs) (s : State) : (s.modRegs f).str = s.str := rfl
@[simp] theorem State.modRegs_drw (f : Regs → Regs) (s : State) : (s.modRegs f).drw = s.drw := rfl
@[simp] theorem State.modRegs_ren (f : Regs → Regs) (s : State) : (s.modRegs f).ren = s.ren := rfl
@[simp] theorem State.modRegs_churn (f : Regs → Regs) (s : State) : (s.modRegs f).churn = s.churn := rfl
@[simp] theorem State.modRegs_skim (f : Regs → Regs) (s : State) : (s.modRegs f).skim = s.skim := rfl
@[simp] theorem State.modRegs_coll (f : Regs → Regs) (s : State) : (s.modRegs f).coll = s.coll := rfl
@[simp] theorem State.modRegs_reqs (f : Regs → Regs) (s : State) : (s.modRegs f).reqs = s.reqs := rfl
@[simp] theorem State.modRegs_rat (f : Regs → Regs) (s : State) : (s.modRegs f).rat = s.rat := rfl
@[simp] theorem State.modRegs_stw (f : Regs → Regs) (s : State) : (s.modRegs f).stw = s.stw := rfl
@[simp] theorem State.modRegs_fuses (f : Regs → Regs) (s : State) : (s.modRegs f).fuses = s.fuses := rfl
@[simp] theorem State.modRegs_boot (f : Regs → Regs) (s : State) : (s.modRegs f).boot = s.boot := rfl
@[simp] theorem State.modRegs_mbox (f : Regs → Regs) (s : State) : (s.modRegs f).mbox = s.mbox := rfl
@[simp] theorem State.modRegs_regs (f : Regs → Regs) (s : State) : (s.modRegs f).regs = f s.regs := rfl
@[simp] theorem State.modRegs_log (f : Regs → Regs) (s : State) : (s.modRegs f).log = s.log := rfl
@[simp] theorem State.modRegs_wrap (f : Regs → Regs) (s : State) : (s.modRegs f).wrap = s.wrap := rfl
@[simp] theorem State.modRegs_ports (f : Regs → Regs) (s : State) : (s.modRegs f).ports = s.ports := rfl
@[simp] theorem State.modRegs_free (f : Regs → Regs) (s : State) : (s.modRegs f).free = s.free := rfl
@[simp] theorem State.modRegs_pending (f : Regs → Regs) (s : State) : (s.modRegs f).pending = s.pending := rfl

/-! ### `State.modLog` -/

@[simp] theorem State.modLog_clk (f : Log → Log) (s : State) : (s.modLog f).clk = s.clk := rfl
@[simp] theorem State.modLog_shell (f : Log → Log) (s : State) : (s.modLog f).shell = s.shell := rfl
@[simp] theorem State.modLog_vat (f : Log → Log) (s : State) : (s.modLog f).vat = s.vat := rfl
@[simp] theorem State.modLog_str (f : Log → Log) (s : State) : (s.modLog f).str = s.str := rfl
@[simp] theorem State.modLog_drw (f : Log → Log) (s : State) : (s.modLog f).drw = s.drw := rfl
@[simp] theorem State.modLog_ren (f : Log → Log) (s : State) : (s.modLog f).ren = s.ren := rfl
@[simp] theorem State.modLog_churn (f : Log → Log) (s : State) : (s.modLog f).churn = s.churn := rfl
@[simp] theorem State.modLog_skim (f : Log → Log) (s : State) : (s.modLog f).skim = s.skim := rfl
@[simp] theorem State.modLog_coll (f : Log → Log) (s : State) : (s.modLog f).coll = s.coll := rfl
@[simp] theorem State.modLog_reqs (f : Log → Log) (s : State) : (s.modLog f).reqs = s.reqs := rfl
@[simp] theorem State.modLog_rat (f : Log → Log) (s : State) : (s.modLog f).rat = s.rat := rfl
@[simp] theorem State.modLog_stw (f : Log → Log) (s : State) : (s.modLog f).stw = s.stw := rfl
@[simp] theorem State.modLog_fuses (f : Log → Log) (s : State) : (s.modLog f).fuses = s.fuses := rfl
@[simp] theorem State.modLog_boot (f : Log → Log) (s : State) : (s.modLog f).boot = s.boot := rfl
@[simp] theorem State.modLog_mbox (f : Log → Log) (s : State) : (s.modLog f).mbox = s.mbox := rfl
@[simp] theorem State.modLog_regs (f : Log → Log) (s : State) : (s.modLog f).regs = s.regs := rfl
@[simp] theorem State.modLog_log (f : Log → Log) (s : State) : (s.modLog f).log = f s.log := rfl
@[simp] theorem State.modLog_wrap (f : Log → Log) (s : State) : (s.modLog f).wrap = s.wrap := rfl
@[simp] theorem State.modLog_ports (f : Log → Log) (s : State) : (s.modLog f).ports = s.ports := rfl
@[simp] theorem State.modLog_free (f : Log → Log) (s : State) : (s.modLog f).free = s.free := rfl
@[simp] theorem State.modLog_pending (f : Log → Log) (s : State) : (s.modLog f).pending = s.pending := rfl

/-! ### `State.modWrap` -/

@[simp] theorem State.modWrap_clk (f : Wrapper → Wrapper) (s : State) : (s.modWrap f).clk = s.clk := rfl
@[simp] theorem State.modWrap_shell (f : Wrapper → Wrapper) (s : State) : (s.modWrap f).shell = s.shell := rfl
@[simp] theorem State.modWrap_vat (f : Wrapper → Wrapper) (s : State) : (s.modWrap f).vat = s.vat := rfl
@[simp] theorem State.modWrap_str (f : Wrapper → Wrapper) (s : State) : (s.modWrap f).str = s.str := rfl
@[simp] theorem State.modWrap_drw (f : Wrapper → Wrapper) (s : State) : (s.modWrap f).drw = s.drw := rfl
@[simp] theorem State.modWrap_ren (f : Wrapper → Wrapper) (s : State) : (s.modWrap f).ren = s.ren := rfl
@[simp] theorem State.modWrap_churn (f : Wrapper → Wrapper) (s : State) : (s.modWrap f).churn = s.churn := rfl
@[simp] theorem State.modWrap_skim (f : Wrapper → Wrapper) (s : State) : (s.modWrap f).skim = s.skim := rfl
@[simp] theorem State.modWrap_coll (f : Wrapper → Wrapper) (s : State) : (s.modWrap f).coll = s.coll := rfl
@[simp] theorem State.modWrap_reqs (f : Wrapper → Wrapper) (s : State) : (s.modWrap f).reqs = s.reqs := rfl
@[simp] theorem State.modWrap_rat (f : Wrapper → Wrapper) (s : State) : (s.modWrap f).rat = s.rat := rfl
@[simp] theorem State.modWrap_stw (f : Wrapper → Wrapper) (s : State) : (s.modWrap f).stw = s.stw := rfl
@[simp] theorem State.modWrap_fuses (f : Wrapper → Wrapper) (s : State) : (s.modWrap f).fuses = s.fuses := rfl
@[simp] theorem State.modWrap_boot (f : Wrapper → Wrapper) (s : State) : (s.modWrap f).boot = s.boot := rfl
@[simp] theorem State.modWrap_mbox (f : Wrapper → Wrapper) (s : State) : (s.modWrap f).mbox = s.mbox := rfl
@[simp] theorem State.modWrap_regs (f : Wrapper → Wrapper) (s : State) : (s.modWrap f).regs = s.regs := rfl
@[simp] theorem State.modWrap_log (f : Wrapper → Wrapper) (s : State) : (s.modWrap f).log = s.log := rfl
@[simp] theorem State.modWrap_wrap (f : Wrapper → Wrapper) (s : State) : (s.modWrap f).wrap = f s.wrap := rfl
@[simp] theorem State.modWrap_ports (f : Wrapper → Wrapper) (s : State) : (s.modWrap f).ports = s.ports := rfl
@[simp] theorem State.modWrap_free (f : Wrapper → Wrapper) (s : State) : (s.modWrap f).free = s.free := rfl
@[simp] theorem State.modWrap_pending (f : Wrapper → Wrapper) (s : State) : (s.modWrap f).pending = s.pending := rfl

/-! ### `State.modPorts` -/

@[simp] theorem State.modPorts_clk (f : Ports → Ports) (s : State) : (s.modPorts f).clk = s.clk := rfl
@[simp] theorem State.modPorts_shell (f : Ports → Ports) (s : State) : (s.modPorts f).shell = s.shell := rfl
@[simp] theorem State.modPorts_vat (f : Ports → Ports) (s : State) : (s.modPorts f).vat = s.vat := rfl
@[simp] theorem State.modPorts_str (f : Ports → Ports) (s : State) : (s.modPorts f).str = s.str := rfl
@[simp] theorem State.modPorts_drw (f : Ports → Ports) (s : State) : (s.modPorts f).drw = s.drw := rfl
@[simp] theorem State.modPorts_ren (f : Ports → Ports) (s : State) : (s.modPorts f).ren = s.ren := rfl
@[simp] theorem State.modPorts_churn (f : Ports → Ports) (s : State) : (s.modPorts f).churn = s.churn := rfl
@[simp] theorem State.modPorts_skim (f : Ports → Ports) (s : State) : (s.modPorts f).skim = s.skim := rfl
@[simp] theorem State.modPorts_coll (f : Ports → Ports) (s : State) : (s.modPorts f).coll = s.coll := rfl
@[simp] theorem State.modPorts_reqs (f : Ports → Ports) (s : State) : (s.modPorts f).reqs = s.reqs := rfl
@[simp] theorem State.modPorts_rat (f : Ports → Ports) (s : State) : (s.modPorts f).rat = s.rat := rfl
@[simp] theorem State.modPorts_stw (f : Ports → Ports) (s : State) : (s.modPorts f).stw = s.stw := rfl
@[simp] theorem State.modPorts_fuses (f : Ports → Ports) (s : State) : (s.modPorts f).fuses = s.fuses := rfl
@[simp] theorem State.modPorts_boot (f : Ports → Ports) (s : State) : (s.modPorts f).boot = s.boot := rfl
@[simp] theorem State.modPorts_mbox (f : Ports → Ports) (s : State) : (s.modPorts f).mbox = s.mbox := rfl
@[simp] theorem State.modPorts_regs (f : Ports → Ports) (s : State) : (s.modPorts f).regs = s.regs := rfl
@[simp] theorem State.modPorts_log (f : Ports → Ports) (s : State) : (s.modPorts f).log = s.log := rfl
@[simp] theorem State.modPorts_wrap (f : Ports → Ports) (s : State) : (s.modPorts f).wrap = s.wrap := rfl
@[simp] theorem State.modPorts_ports (f : Ports → Ports) (s : State) : (s.modPorts f).ports = f s.ports := rfl
@[simp] theorem State.modPorts_free (f : Ports → Ports) (s : State) : (s.modPorts f).free = s.free := rfl
@[simp] theorem State.modPorts_pending (f : Ports → Ports) (s : State) : (s.modPorts f).pending = s.pending := rfl

/-! ### Time: `State.at` moves the clocks alone -/

@[simp] theorem State.at_clk (t : Time) (s : State) : (s.at t).clk = s.clk.at t := rfl
@[simp] theorem State.at_shell (t : Time) (s : State) : (s.at t).shell = s.shell := rfl
@[simp] theorem State.at_vat (t : Time) (s : State) : (s.at t).vat = s.vat := rfl
@[simp] theorem State.at_str (t : Time) (s : State) : (s.at t).str = s.str := rfl
@[simp] theorem State.at_drw (t : Time) (s : State) : (s.at t).drw = s.drw := rfl
@[simp] theorem State.at_ren (t : Time) (s : State) : (s.at t).ren = s.ren := rfl
@[simp] theorem State.at_churn (t : Time) (s : State) : (s.at t).churn = s.churn := rfl
@[simp] theorem State.at_skim (t : Time) (s : State) : (s.at t).skim = s.skim := rfl
@[simp] theorem State.at_coll (t : Time) (s : State) : (s.at t).coll = s.coll := rfl
@[simp] theorem State.at_reqs (t : Time) (s : State) : (s.at t).reqs = s.reqs := rfl
@[simp] theorem State.at_rat (t : Time) (s : State) : (s.at t).rat = s.rat := rfl
@[simp] theorem State.at_stw (t : Time) (s : State) : (s.at t).stw = s.stw := rfl
@[simp] theorem State.at_fuses (t : Time) (s : State) : (s.at t).fuses = s.fuses := rfl
@[simp] theorem State.at_boot (t : Time) (s : State) : (s.at t).boot = s.boot := rfl
@[simp] theorem State.at_mbox (t : Time) (s : State) : (s.at t).mbox = s.mbox := rfl
@[simp] theorem State.at_regs (t : Time) (s : State) : (s.at t).regs = s.regs := rfl
@[simp] theorem State.at_log (t : Time) (s : State) : (s.at t).log = s.log := rfl
@[simp] theorem State.at_wrap (t : Time) (s : State) : (s.at t).wrap = s.wrap := rfl
@[simp] theorem State.at_ports (t : Time) (s : State) : (s.at t).ports = s.ports := rfl
@[simp] theorem State.at_free (t : Time) (s : State) : (s.at t).free = s.free := rfl
@[simp] theorem State.at_pending (t : Time) (s : State) : (s.at t).pending = s.pending := rfl

/-! ### Contexts -/

@[simp] theorem State.modCtx_clk (c : Nat) (f : Context → Context) (s : State) : (s.modCtx c f).clk = s.clk := rfl
@[simp] theorem State.modCtx_shell (c : Nat) (f : Context → Context) (s : State) : (s.modCtx c f).shell = s.shell := rfl
@[simp] theorem State.modCtx_vat (c : Nat) (f : Context → Context) (s : State) : (s.modCtx c f).vat = s.vat := rfl
@[simp] theorem State.modCtx_str (c : Nat) (f : Context → Context) (s : State) : (s.modCtx c f).str = s.str := rfl
@[simp] theorem State.modCtx_drw (c : Nat) (f : Context → Context) (s : State) : (s.modCtx c f).drw = s.drw := rfl
@[simp] theorem State.modCtx_ren (c : Nat) (f : Context → Context) (s : State) : (s.modCtx c f).ren = s.ren := rfl
@[simp] theorem State.modCtx_churn (c : Nat) (f : Context → Context) (s : State) : (s.modCtx c f).churn = s.churn := rfl
@[simp] theorem State.modCtx_skim (c : Nat) (f : Context → Context) (s : State) : (s.modCtx c f).skim = s.skim := rfl
@[simp] theorem State.modCtx_coll (c : Nat) (f : Context → Context) (s : State) : (s.modCtx c f).coll = s.coll := rfl
@[simp] theorem State.modCtx_reqs (c : Nat) (f : Context → Context) (s : State) : (s.modCtx c f).reqs = s.reqs := rfl
@[simp] theorem State.modCtx_rat (c : Nat) (f : Context → Context) (s : State) : (s.modCtx c f).rat = s.rat := rfl
@[simp] theorem State.modCtx_stw (c : Nat) (f : Context → Context) (s : State) : (s.modCtx c f).stw = s.stw := rfl
@[simp] theorem State.modCtx_fuses (c : Nat) (f : Context → Context) (s : State) : (s.modCtx c f).fuses = s.fuses := rfl
@[simp] theorem State.modCtx_boot (c : Nat) (f : Context → Context) (s : State) : (s.modCtx c f).boot = s.boot := rfl
@[simp] theorem State.modCtx_mbox (c : Nat) (f : Context → Context) (s : State) : (s.modCtx c f).mbox = { s.mbox with ctxs := lmod c f s.mbox.ctxs } := rfl
@[simp] theorem State.modCtx_regs (c : Nat) (f : Context → Context) (s : State) : (s.modCtx c f).regs = s.regs := rfl
@[simp] theorem State.modCtx_log (c : Nat) (f : Context → Context) (s : State) : (s.modCtx c f).log = s.log := rfl
@[simp] theorem State.modCtx_wrap (c : Nat) (f : Context → Context) (s : State) : (s.modCtx c f).wrap = s.wrap := rfl
@[simp] theorem State.modCtx_ports (c : Nat) (f : Context → Context) (s : State) : (s.modCtx c f).ports = s.ports := rfl
@[simp] theorem State.modCtx_free (c : Nat) (f : Context → Context) (s : State) : (s.modCtx c f).free = s.free := rfl
@[simp] theorem State.modCtx_pending (c : Nat) (f : Context → Context) (s : State) : (s.modCtx c f).pending = s.pending := rfl

theorem lmod_length {α : Type} (i : Nat) (f : α → α) (l : List α) : (lmod i f l).length = l.length := by
  induction l generalizing i with
  | nil => cases i <;> simp [lmod]
  | cons x r ih => cases i with
    | zero => simp [lmod]
    | succ j => simpa [lmod] using ih j

theorem lmod_getD {α : Type} (i j : Nat) (f : α → α) (l : List α) (d : α) :
    (lmod i f l).getD j d = if i = j ∧ i < l.length then f (l.getD j d) else l.getD j d := by
  induction l generalizing i j with
  | nil => simp [lmod]
  | cons x r ih =>
    cases i with
    | zero => cases j <;> simp [lmod]
    | succ i =>
      cases j with
      | zero => simp [lmod]
      | succ j => simpa [lmod] using ih i j

/-- A change of one context is seen in that context alone. -/
theorem State.modCtx_ctx (c d : Nat) (f : Context → Context) (s : State) :
    (s.modCtx c f).ctx d = if c = d ∧ c < s.mbox.ctxs.length then f (s.ctx d) else s.ctx d := lmod_getD c d f s.mbox.ctxs {}

@[simp] theorem Clocks.at_fabMHz (c : Clocks) (t : Time) : (c.at t).fabMHz = c.fabMHz := rfl
@[simp] theorem Clocks.at_inReset (c : Clocks) (t : Time) : (c.at t).inReset = c.inReset := rfl
@[simp] theorem Clocks.at_alive (c : Clocks) (t : Time) : (c.at t).alive = c.alive := rfl
@[simp] theorem Clocks.at_lost (c : Clocks) (t : Time) : (c.at t).lost = c.lost := rfl
@[simp] theorem Clocks.at_aon (c : Clocks) (t : Time) : (c.at t).aon = max c.aon t.aon := rfl
@[simp] theorem Clocks.at_ctl (c : Clocks) (t : Time) : (c.at t).ctl = max c.ctl t.ctl := rfl
@[simp] theorem Clocks.at_eng (c : Clocks) (t : Time) : (c.at t).eng = max c.eng t.eng := rfl
@[simp] theorem Clocks.at_fab (c : Clocks) (t : Time) : (c.at t).fab = max c.fab t.fab := rfl

@[simp] theorem State.at_ctx (t : Time) (s : State) (c : Nat) : (s.at t).ctx c = s.ctx c := rfl
@[simp] theorem State.at_inRst (t : Time) (s : State) (d : Nat) : (s.at t).inRst d = s.inRst d := rfl
@[simp] theorem State.at_now (t : Time) (s : State) : (s.at t).now = max s.now t.aon := rfl

end Sys2Proof.Machine
end

