-- ==== Sys2Proof/Laws/Hide.lean ====
section
/-! SUPPORT. What the updates of units, choices and folds leave in sight (`State.hide`): the base of every frame. -/

set_option Elab.async false

namespace Sys2Proof.Machine

variable {hid : List StateUnit}

theorem ite_hide {c : Prop} [Decidable c] (a b : State) : (if c then a else b).hide hid = if c then a.hide hid else b.hide hid := by
  split <;> rfl

theorem Vat.release_mem (v : Vat) (n first rows : Nat) : (v.release n first rows).mem = v.mem := rfl

theorem Vat.release_tags (v : Vat) (n first rows : Nat) : (v.release n first rows).tags = v.tags := rfl

theorem Vat.release_banks (v : Vat) (n first rows : Nat) : (v.release n first rows).banks = v.banks := id rfl

theorem Vat.zeroTag_banks (v : Vat) (pra : Nat) : (v.zeroTag pra).banks = v.banks := id rfl

theorem Vat.writeRow_banks (v : Vat) (pra off : Nat) (bs : List Byte) : (v.writeRow pra off bs).banks = v.banks := id rfl

theorem Vat.zeroBank_banks (v : Vat) (b : Nat) : (v.zeroBank b).banks = v.banks := id rfl

theorem Vat.release_checks (v : Vat) (n first rows : Nat) : (v.release n first rows).checks = v.checks := rfl

theorem Vat.release_parity (v : Vat) (n first rows : Nat) : (v.release n first rows).parity = v.parity := rfl

theorem Vat.writeRows_banks (a : Area) (n row : Nat) (bs : List Byte) (v : Vat) : (Vat.writeRows a n row bs v).banks = v.banks := by
  induction n generalizing row bs v with
  | zero => rfl
  | succ n ih =>
    rw [Vat.writeRows, ih]
    split <;> rfl

theorem putBack_length {α : Type} (new old : List α) : (putBack new old).length = old.length := by
  unfold putBack
  split <;> simp_all

theorem ite_length {c : Prop} [Decidable c] {α : Type} (a b : List α) : (if c then a else b).length = if c then a.length else b.length := by
  split <;> rfl

theorem foldl_hide {α : Type} (f : State → α → State) (h : ∀ s x, (f s x).hide hid = s.hide hid) (xs : List α) (s : State) :
    (xs.foldl f s).hide hid = s.hide hid := by
  induction xs generalizing s with
  | nil => rfl
  | cons x r ih => simp only [List.foldl_cons, ih, h]

theorem State.modClk_hide (h : StateUnit.clk ∈ hid) (f : Clocks → Clocks) (s : State) : (s.modClk f).hide hid = s.hide hid := by
  simp only [State.hide, State.modClk, if_pos h]

theorem State.modShell_hide (h : StateUnit.shell ∈ hid) (f : Shell → Shell) (s : State) : (s.modShell f).hide hid = s.hide hid := by
  simp only [State.hide, State.modShell, if_pos h]

theorem map_default {α β : Type} {l m : List α} (d : β) (h : l.length = m.length) : l.map (fun _ => d) = m.map (fun _ => d) := by
  rw [List.map_const', List.map_const', h]

/-- A change of the strainers that leaves their number alone. -/
theorem State.modStr_hide (h : StateUnit.str ∈ hid) (f : Strainers → Strainers) (hm : ∀ x, (f x).units.length = x.units.length) (s : State) :
    (s.modStr f).hide hid = s.hide hid := by
  simp only [State.hide, State.modStr, Strainers.hide, if_pos h, map_default _ (hm s.str)]

theorem State.modDrw_hide (h : StateUnit.drw ∈ hid) (f : DrawUnit → DrawUnit) (s : State) : (s.modDrw f).hide hid = s.hide hid := by
  simp only [State.hide, State.modDrw, if_pos h]

theorem State.modRen_hide (h : StateUnit.ren ∈ hid) (f : Rennet → Rennet) (s : State) : (s.modRen f).hide hid = s.hide hid := by
  simp only [State.hide, State.modRen, if_pos h]

theorem State.modChurn_hide (h : StateUnit.churn ∈ hid) (f : Churn → Churn) (s : State) : (s.modChurn f).hide hid = s.hide hid := by
  simp only [State.hide, State.modChurn, if_pos h]

theorem State.modSkim_hide (h : StateUnit.skim ∈ hid) (f : Skimmer → Skimmer) (s : State) : (s.modSkim f).hide hid = s.hide hid := by
  simp only [State.hide, State.modSkim, if_pos h]

theorem State.modColl_hide (h : StateUnit.coll ∈ hid) (f : Collective → Collective) (s : State) : (s.modColl f).hide hid = s.hide hid := by
  simp only [State.hide, State.modColl, if_pos h]

theorem State.modReqs_hide (h : StateUnit.reqs ∈ hid) (f : Requests → Requests) (s : State) : (s.modReqs f).hide hid = s.hide hid := by
  simp only [State.hide, State.modReqs, if_pos h]

theorem State.modRat_hide (h : StateUnit.rat ∈ hid) (f : Rations → Rations) (s : State) : (s.modRat f).hide hid = s.hide hid := by
  simp only [State.hide, State.modRat, if_pos h]

theorem State.modStw_hide (h : StateUnit.stw ∈ hid) (f : Steward → Steward) (s : State) : (s.modStw f).hide hid = s.hide hid := by
  simp only [State.hide, State.modStw, if_pos h]

theorem State.modFuses_hide (h : StateUnit.fuses ∈ hid) (f : Fuses → Fuses) (s : State) : (s.modFuses f).hide hid = s.hide hid := by
  simp only [State.hide, State.modFuses, if_pos h]

theorem State.modRegs_hide (h : StateUnit.regs ∈ hid) (f : Regs → Regs) (s : State) : (s.modRegs f).hide hid = s.hide hid := by
  simp only [State.hide, State.modRegs, if_pos h]

theorem State.modLog_hide (h : StateUnit.log ∈ hid) (f : Log → Log) (s : State) : (s.modLog f).hide hid = s.hide hid := by
  simp only [State.hide, State.modLog, if_pos h]

theorem State.modWrap_hide (h : StateUnit.wrap ∈ hid) (f : Wrapper → Wrapper) (s : State) : (s.modWrap f).hide hid = s.hide hid := by
  simp only [State.hide, State.modWrap, if_pos h]

theorem State.modPorts_hide (h : StateUnit.ports ∈ hid) (f : Ports → Ports) (s : State) : (s.modPorts f).hide hid = s.hide hid := by
  simp only [State.hide, State.modPorts, if_pos h]

/-- A change of the vat that leaves its memories alone. -/
theorem State.modVat_hide (h : StateUnit.vat ∈ hid) (f : Vat → Vat) 
    (hm : ∀ v, (f v).mem = v.mem ∧ (f v).tags = v.tags ∧ (f v).checks = v.checks ∧ (f v).parity = v.parity ∧ (f v).banks.length = v.banks.length)
    (s : State) : (s.modVat f).hide hid = s.hide hid := by
  simp only [State.hide, State.modVat, Vat.hide, if_pos h, (hm s.vat).1, (hm s.vat).2.1, (hm s.vat).2.2.1, (hm s.vat).2.2.2.1,
    map_default _ (hm s.vat).2.2.2.2]

/-- A change of the vat and its memories. -/
theorem State.modVat_hide_mem (h : StateUnit.vat ∈ hid) (h2 : StateUnit.vatMem ∈ hid) (f : Vat → Vat) (hm : ∀ v, (f v).banks.length = v.banks.length) (s : State) :
    (s.modVat f).hide hid = s.hide hid := by
  simp only [State.hide, State.modVat, Vat.hide, if_pos h, if_pos h2, map_default _ (hm s.vat)]

/-- A change of the boot unit that leaves its memories alone. -/
theorem State.modBoot_hide (h : StateUnit.boot ∈ hid) (f : Boot → Boot)
    (hm : ∀ b, (f b).core = b.core ∧ (f b).data = b.data) (s : State) : (s.modBoot f).hide hid = s.hide hid := by
  simp only [State.hide, State.modBoot, Boot.hide, if_pos h, hm]

/-- A change of the boot unit and its memories. -/
theorem State.modBoot_hide_mem (h : StateUnit.boot ∈ hid) (h2 : StateUnit.bootMem ∈ hid) (f : Boot → Boot) (s : State) :
    (s.modBoot f).hide hid = s.hide hid := by
  simp only [State.hide, State.modBoot, Boot.hide, if_pos h, if_pos h2]

/-- A change of the mailboxes that leaves the command windows alone. -/
theorem State.modMbox_hide (h : StateUnit.mbox ∈ hid) (f : Mailbox → Mailbox) (hm : ∀ m, (f m).windows = m.windows ∧ (f m).ctxs.length = m.ctxs.length) (s : State) :
    (s.modMbox f).hide hid = s.hide hid := by
  simp only [State.hide, State.modMbox, Mailbox.hide, if_pos h, (hm s.mbox).1, map_default _ (hm s.mbox).2]

/-- A change of the mailboxes and the command windows. -/
theorem State.modMbox_hide_win (h : StateUnit.mbox ∈ hid) (h2 : StateUnit.cmdWin ∈ hid) (f : Mailbox → Mailbox) (hm : ∀ m, (f m).ctxs.length = m.ctxs.length) (s : State) :
    (s.modMbox f).hide hid = s.hide hid := by
  simp only [State.hide, State.modMbox, Mailbox.hide, if_pos h, if_pos h2, map_default _ (hm s.mbox)]

end Sys2Proof.Machine
end

