-- ==== Sys2Proof/Laws/FramesShell.lean ====
section
/-! SUPPORT. What each operation and each command leaves in sight (`State.hide`), one lemma each: rings, mailboxes, the fabric shell and the vat. -/

set_option Elab.async false

namespace Sys2Proof.Machine

variable {hid : List StateUnit}

set_option linter.unusedSimpArgs false
set_option linter.unusedVariables false
set_option linter.unusedTactic false
set_option linter.unreachableTactic false

/-! ### Machine/Ops.lean -/

theorem State.skipFree_hide (h : StateUnit.free ∈ hid) (n : Nat) (s : State) : (s.skipFree n).hide hid = s.hide hid := by
  simp only [State.hide, State.skipFree, if_pos h]

theorem State.at_hide (h_clk : StateUnit.clk ∈ hid)  (t : Time) (s : State) : (State.at t s).hide hid = s.hide hid := by
  unfold State.at
  try dsimp only
  repeat' (first | with_reducible rfl | (simp only [State.modClk_hide, h_clk, foldl_hide, ite_hide, ite_self, implies_true, and_self]; done) | (with_reducible refine (foldl_hide _ (fun s x => ?_) _ _).trans ?_) | split | (simp only [State.modClk_hide, h_clk, foldl_hide, ite_hide, ite_self, implies_true, and_self]))

theorem State.hostRestore_hide (h_clk : StateUnit.clk ∈ hid) (h_vat : StateUnit.vat ∈ hid) (h_str : StateUnit.str ∈ hid) (h_boot : StateUnit.boot ∈ hid) (h_mbox : StateUnit.mbox ∈ hid) (h_regs : StateUnit.regs ∈ hid) (h_log : StateUnit.log ∈ hid) (h_ports : StateUnit.ports ∈ hid)  (x : HostSnap) (s : State) : (State.hostRestore s x).hide hid = s.hide hid := by
  unfold State.hostRestore
  try dsimp only
  repeat' (first | with_reducible rfl | (simp only [State.modBoot_hide, State.modClk_hide, State.modLog_hide, State.modMbox_hide, State.modPorts_hide, State.modRegs_hide, State.modStr_hide, State.modVat_hide, h_clk, h_vat, h_str, h_boot, h_mbox, h_regs, h_log, h_ports, Vat.zeroTag_banks, Vat.writeRow_banks, Vat.writeRows_banks, Vat.zeroBank_banks, lmod_length, putBack_length, List.length_map, ite_length, foldl_hide, ite_hide, ite_self, implies_true, and_self]; done) | (with_reducible refine (foldl_hide _ (fun s x => ?_) _ _).trans ?_) | (with_reducible refine State.modBoot_hide (by assumption) _ (fun b => by (try dsimp only); first | exact ⟨rfl, rfl⟩ | (split <;> exact ⟨rfl, rfl⟩) | (split <;> split <;> exact ⟨rfl, rfl⟩)) _) | split | (simp only [State.modBoot_hide, State.modClk_hide, State.modLog_hide, State.modMbox_hide, State.modPorts_hide, State.modRegs_hide, State.modStr_hide, State.modVat_hide, h_clk, h_vat, h_str, h_boot, h_mbox, h_regs, h_log, h_ports, Vat.zeroTag_banks, Vat.writeRow_banks, Vat.writeRows_banks, Vat.zeroBank_banks, lmod_length, putBack_length, List.length_map, ite_length, foldl_hide, ite_hide, ite_self, implies_true, and_self]))

theorem State.hostAct_hide (h_clk : StateUnit.clk ∈ hid)  (a : HostAct) (f : State → State) (hf_f : ∀ (x0 : State), (f x0).hide hid = x0.hide hid) (s : State) : (State.hostAct a f s).hide hid = s.hide hid := by
  unfold State.hostAct
  try dsimp only
  repeat' (first | with_reducible rfl | (simp only [hf_f, State.modClk_hide, h_clk, foldl_hide, ite_hide, ite_self, implies_true, and_self]; done) | (with_reducible refine (foldl_hide _ (fun s x => ?_) _ _).trans ?_) | split | (simp only [hf_f, State.modClk_hide, h_clk, foldl_hide, ite_hide, ite_self, implies_true, and_self]))

theorem State.logAt_hide (h_regs : StateUnit.regs ∈ hid) (h_log : StateUnit.log ∈ hid)  (time : Nat) (code : Nat) (slot : Option Nat) (d0 : Nat) (d1 : Nat) (d2 : Nat) (s : State) : (State.logAt s time code slot d0 d1 d2).hide hid = s.hide hid := by
  unfold State.logAt
  try dsimp only
  repeat' (first | with_reducible rfl | (simp only [State.modLog_hide, State.modRegs_hide, h_regs, h_log, foldl_hide, ite_hide, ite_self, implies_true, and_self]; done) | (with_reducible refine (foldl_hide _ (fun s x => ?_) _ _).trans ?_) | split | (simp only [State.modLog_hide, State.modRegs_hide, h_regs, h_log, foldl_hide, ite_hide, ite_self, implies_true, and_self]))

theorem State.logErr_hide (h_regs : StateUnit.regs ∈ hid) (h_log : StateUnit.log ∈ hid)  (code : Nat) (slot : Option Nat) (d0 : Nat) (d1 : Nat) (d2 : Nat) (s : State) : (State.logErr s code slot d0 d1 d2).hide hid = s.hide hid := by
  unfold State.logErr
  try dsimp only
  repeat' (first | with_reducible rfl | (simp only [State.logAt_hide, h_regs, h_log, foldl_hide, ite_hide, ite_self, implies_true, and_self]; done) | (with_reducible refine (foldl_hide _ (fun s x => ?_) _ _).trans ?_) | split | (simp only [State.logAt_hide, h_regs, h_log, foldl_hide, ite_hide, ite_self, implies_true, and_self]))

theorem State.logFabric_hide (h_shell : StateUnit.shell ∈ hid) (h_regs : StateUnit.regs ∈ hid) (h_log : StateUnit.log ∈ hid)  (code : Nat) (slot : Option Nat) (d0 : Nat) (d1 : Nat) (d2 : Nat) (s : State) : (State.logFabric s code slot d0 d1 d2).hide hid = s.hide hid := by
  unfold State.logFabric
  try dsimp only
  repeat' (first | with_reducible rfl | (simp only [State.logErr_hide, State.modShell_hide, h_shell, h_regs, h_log, foldl_hide, ite_hide, ite_self, implies_true, and_self]; done) | (with_reducible refine (foldl_hide _ (fun s x => ?_) _ _).trans ?_) | split | (simp only [State.logErr_hide, State.modShell_hide, h_shell, h_regs, h_log, foldl_hide, ite_hide, ite_self, implies_true, and_self]))

theorem State.hostWrite_hide (h_ports : StateUnit.ports ∈ hid)  (a : BitVec 64) (bs : List Byte) (s : State) : (State.hostWrite s a bs).hide hid = s.hide hid := by
  unfold State.hostWrite
  try dsimp only
  repeat' (first | with_reducible rfl | (simp only [State.modPorts_hide, h_ports, foldl_hide, ite_hide, ite_self, implies_true, and_self]; done) | (with_reducible refine (foldl_hide _ (fun s x => ?_) _ _).trans ?_) | split | (simp only [State.modPorts_hide, h_ports, foldl_hide, ite_hide, ite_self, implies_true, and_self]))

theorem State.cellarWrite_hide (h_ports : StateUnit.ports ∈ hid)  (a : BitVec 64) (bs : List Byte) (s : State) : (State.cellarWrite s a bs).hide hid = s.hide hid := by
  unfold State.cellarWrite
  try dsimp only
  repeat' (first | with_reducible rfl | (simp only [State.modPorts_hide, h_ports, foldl_hide, ite_hide, ite_self, implies_true, and_self]; done) | (with_reducible refine (foldl_hide _ (fun s x => ?_) _ _).trans ?_) | split | (simp only [State.modPorts_hide, h_ports, foldl_hide, ite_hide, ite_self, implies_true, and_self]))

theorem State.celAccess_hide (h_ports : StateUnit.ports ∈ hid)  (use : CelUse) (cls : Nat) (wr : Bool) (addr : Nat) (n : Nat) (s : State) : (State.celAccess s use cls wr addr n).hide hid = s.hide hid := by
  unfold State.celAccess
  try dsimp only
  repeat' (first | with_reducible rfl | (simp only [State.modPorts_hide, h_ports, foldl_hide, ite_hide, ite_self, implies_true, and_self]; done) | (with_reducible refine (foldl_hide _ (fun s x => ?_) _ _).trans ?_) | split | (simp only [State.modPorts_hide, h_ports, foldl_hide, ite_hide, ite_self, implies_true, and_self]))

theorem State.celDone_hide (h_ports : StateUnit.ports ∈ hid)  (use : CelUse) (s : State) : (State.celDone s use).hide hid = s.hide hid := by
  unfold State.celDone
  try dsimp only
  repeat' (first | with_reducible rfl | (simp only [State.modPorts_hide, h_ports, foldl_hide, ite_hide, ite_self, implies_true, and_self]; done) | (with_reducible refine (foldl_hide _ (fun s x => ?_) _ _).trans ?_) | split | (simp only [State.modPorts_hide, h_ports, foldl_hide, ite_hide, ite_self, implies_true, and_self]))

theorem State.imageRead_hide (h_ports : StateUnit.ports ∈ hid)  (b : Sender) (addr : Nat) (n : Nat) (s : State) : (State.imageRead s b addr n).hide hid = s.hide hid := by
  unfold State.imageRead
  try dsimp only
  repeat' (first | with_reducible rfl | (simp only [State.celAccess_hide, State.celDone_hide, h_ports, foldl_hide, ite_hide, ite_self, implies_true, and_self]; done) | (with_reducible refine (foldl_hide _ (fun s x => ?_) _ _).trans ?_) | split | (simp only [State.celAccess_hide, State.celDone_hide, h_ports, foldl_hide, ite_hide, ite_self, implies_true, and_self]))

theorem State.askHost_hide (h_ports : StateUnit.ports ∈ hid)  (a : BitVec 64) (s : State) : (State.askHost s a).hide hid = s.hide hid := by
  unfold State.askHost
  try dsimp only
  repeat' (first | with_reducible rfl | (simp only [State.modPorts_hide, h_ports, foldl_hide, ite_hide, ite_self, implies_true, and_self]; done) | (with_reducible refine (foldl_hide _ (fun s x => ?_) _ _).trans ?_) | split | (simp only [State.modPorts_hide, h_ports, foldl_hide, ite_hide, ite_self, implies_true, and_self]))

theorem State.modReq_hide (h_reqs : StateUnit.reqs ∈ hid)  (h : Handle) (f : Request → Request) (s : State) : (State.modReq h f s).hide hid = s.hide hid := by
  unfold State.modReq
  try dsimp only
  repeat' (first | with_reducible rfl | (simp only [State.modReqs_hide, h_reqs, foldl_hide, ite_hide, ite_self, implies_true, and_self]; done) | (with_reducible refine (foldl_hide _ (fun s x => ?_) _ _).trans ?_) | split | (simp only [State.modReqs_hide, h_reqs, foldl_hide, ite_hide, ite_self, implies_true, and_self]))

theorem State.modCtx_hide (h_mbox : StateUnit.mbox ∈ hid)  (c : Nat) (f : Context → Context) (s : State) : (State.modCtx c f s).hide hid = s.hide hid := by
  unfold State.modCtx
  try dsimp only
  repeat' (first | with_reducible rfl | (simp only [State.modMbox_hide, h_mbox, lmod_length, putBack_length, List.length_map, ite_length, foldl_hide, ite_hide, ite_self, implies_true, and_self]; done) | (with_reducible refine (foldl_hide _ (fun s x => ?_) _ _).trans ?_) | split | (simp only [State.modMbox_hide, h_mbox, lmod_length, putBack_length, List.length_map, ite_length, foldl_hide, ite_hide, ite_self, implies_true, and_self]))

theorem State.carried_hide (h_skim : StateUnit.skim ∈ hid)  (c : Nat) (s : State) : (State.carried s c).hide hid = s.hide hid := by
  unfold State.carried
  try dsimp only
  repeat' (first | with_reducible rfl | (simp only [State.modSkim_hide, h_skim, foldl_hide, ite_hide, ite_self, implies_true, and_self]; done) | (with_reducible refine (foldl_hide _ (fun s x => ?_) _ _).trans ?_) | split | (simp only [State.modSkim_hide, h_skim, foldl_hide, ite_hide, ite_self, implies_true, and_self]))

theorem State.ringDue_hide (h_skim : StateUnit.skim ∈ hid) (h_ports : StateUnit.ports ∈ hid)  (c : Nat) (s : State) : (State.ringDue s c).hide hid = s.hide hid := by
  unfold State.ringDue
  try dsimp only
  repeat' (first | with_reducible rfl | (simp only [State.carried_hide, State.modPorts_hide, State.modSkim_hide, h_skim, h_ports, foldl_hide, ite_hide, ite_self, implies_true, and_self]; done) | (with_reducible refine (foldl_hide _ (fun s x => ?_) _ _).trans ?_) | split | (simp only [State.carried_hide, State.modPorts_hide, State.modSkim_hide, h_skim, h_ports, foldl_hide, ite_hide, ite_self, implies_true, and_self]))

theorem State.bell_hide (h_skim : StateUnit.skim ∈ hid) (h_ports : StateUnit.ports ∈ hid)  (c : Nat) (pail : Option Handle) (s : State) : (State.bell s c pail).hide hid = s.hide hid := by
  unfold State.bell
  try dsimp only
  repeat' (first | with_reducible rfl | (simp only [State.ringDue_hide, State.modSkim_hide, h_skim, h_ports, foldl_hide, ite_hide, ite_self, implies_true, and_self]; done) | (with_reducible refine (foldl_hide _ (fun s x => ?_) _ _).trans ?_) | split | (simp only [State.ringDue_hide, State.modSkim_hide, h_skim, h_ports, foldl_hide, ite_hide, ite_self, implies_true, and_self]))

theorem State.ringAll_hide (h_skim : StateUnit.skim ∈ hid) (h_ports : StateUnit.ports ∈ hid)   (s : State) : (State.ringAll s).hide hid = s.hide hid := by
  unfold State.ringAll
  try dsimp only
  repeat' (first | with_reducible rfl | (simp only [State.ringDue_hide, h_skim, h_ports, foldl_hide, ite_hide, ite_self, implies_true, and_self]; done) | (with_reducible refine (foldl_hide _ (fun s x => ?_) _ _).trans ?_) | split | (simp only [State.ringDue_hide, h_skim, h_ports, foldl_hide, ite_hide, ite_self, implies_true, and_self]))

theorem State.ringWrite_hide (h_skim : StateUnit.skim ∈ hid) (h_mbox : StateUnit.mbox ∈ hid) (h_ports : StateUnit.ports ∈ hid)  (c : Nat) (e : RingEntry) (s : State) : (State.ringWrite s c e).hide hid = s.hide hid := by
  unfold State.ringWrite
  try dsimp only
  repeat' (first | with_reducible rfl | (simp only [State.hostWrite_hide, State.modCtx_hide, State.bell_hide, h_skim, h_mbox, h_ports, foldl_hide, ite_hide, ite_self, implies_true, and_self]; done) | (with_reducible refine (foldl_hide _ (fun s x => ?_) _ _).trans ?_) | split | (simp only [State.hostWrite_hide, State.modCtx_hide, State.bell_hide, h_skim, h_mbox, h_ports, foldl_hide, ite_hide, ite_self, implies_true, and_self]))

theorem State.askRing_hide (h_mbox : StateUnit.mbox ∈ hid) (h_ports : StateUnit.ports ∈ hid)  (c : Nat) (s : State) : (State.askRing s c).hide hid = s.hide hid := by
  unfold State.askRing
  try dsimp only
  repeat' (first | with_reducible rfl | (simp only [State.askHost_hide, State.modCtx_hide, h_mbox, h_ports, foldl_hide, ite_hide, ite_self, implies_true, and_self]; done) | (with_reducible refine (foldl_hide _ (fun s x => ?_) _ _).trans ?_) | split | (simp only [State.askHost_hide, State.modCtx_hide, h_mbox, h_ports, foldl_hide, ite_hide, ite_self, implies_true, and_self]))

theorem State.giveResponse_hide (h_skim : StateUnit.skim ∈ hid) (h_mbox : StateUnit.mbox ∈ hid) (h_ports : StateUnit.ports ∈ hid)  (c : Nat) (e : RingEntry) (s : State) : (State.giveResponse s c e).hide hid = s.hide hid := by
  unfold State.giveResponse
  try dsimp only
  repeat' (first | with_reducible rfl | (simp only [State.modCtx_hide, State.ringWrite_hide, State.askRing_hide, h_skim, h_mbox, h_ports, foldl_hide, ite_hide, ite_self, implies_true, and_self]; done) | (with_reducible refine (foldl_hide _ (fun s x => ?_) _ _).trans ?_) | split | (simp only [State.modCtx_hide, State.ringWrite_hide, State.askRing_hide, h_skim, h_mbox, h_ports, foldl_hide, ite_hide, ite_self, implies_true, and_self]))

theorem State.drainRing_hide (h_skim : StateUnit.skim ∈ hid) (h_mbox : StateUnit.mbox ∈ hid) (h_ports : StateUnit.ports ∈ hid) (c n : Nat) (s : State) : (State.drainRing c n s).hide hid = s.hide hid := by
  induction n generalizing s with
  | zero => rfl
  | succ n ih =>
    unfold State.drainRing
    try dsimp only
    repeat' (first | with_reducible rfl | (simp only [ih, State.modCtx_hide, State.ringWrite_hide, h_skim, h_mbox, h_ports, foldl_hide, ite_hide, ite_self, implies_true, and_self]; done) | (with_reducible refine (foldl_hide _ (fun s x => ?_) _ _).trans ?_) | split | (simp only [ih, State.modCtx_hide, State.ringWrite_hide, h_skim, h_mbox, h_ports, foldl_hide, ite_hide, ite_self, implies_true, and_self]))

/-- An event is written or it is not. -/
theorem State.tryEvent_cases (s : State) (c code : Nat) (body : List Byte) :
    s.tryEvent c code body = (s.ringWrite c ⟨2, code, 0, 0, 0, body, false⟩, true) ∨ s.tryEvent c code body = (s, false) := by
  by_cases h : (s.ctx c).unanswered + 1 ≤ (s.ctx c).room
  · exact .inl (if_pos h)
  · exact .inr (if_neg h)

theorem State.tryEvent_hide (h_skim : StateUnit.skim ∈ hid) (h_mbox : StateUnit.mbox ∈ hid) (h_ports : StateUnit.ports ∈ hid) (c code : Nat) (body : List Byte) (s : State) : (s.tryEvent c code body).1.hide hid = s.hide hid := by
  obtain h | h := s.tryEvent_cases c code body
  · rw [h]
    exact State.ringWrite_hide h_skim h_mbox h_ports c _ s
  · rw [h]

theorem State.sendEvent_hide (h_skim : StateUnit.skim ∈ hid) (h_mbox : StateUnit.mbox ∈ hid) (h_ports : StateUnit.ports ∈ hid)  (c : Nat) (code : Nat) (body : List Byte) (s : State) : (State.sendEvent s c code body).hide hid = s.hide hid := by
  unfold State.sendEvent
  try dsimp only
  repeat' (first | with_reducible rfl | (simp only [State.modCtx_hide, State.askRing_hide, State.tryEvent_hide, State.modSkim_hide, h_skim, h_mbox, h_ports, foldl_hide, ite_hide, ite_self, implies_true, and_self]; done) | (with_reducible refine (foldl_hide _ (fun s x => ?_) _ _).trans ?_) | split | (simp only [State.modCtx_hide, State.askRing_hide, State.tryEvent_hide, State.modSkim_hide, h_skim, h_mbox, h_ports, foldl_hide, ite_hide, ite_self, implies_true, and_self]))

theorem State.broadcast_hide (h_skim : StateUnit.skim ∈ hid) (h_mbox : StateUnit.mbox ∈ hid) (h_ports : StateUnit.ports ∈ hid)  (p : Context → Bool) (code : Nat) (body : List Byte) (s : State) : (State.broadcast s p code body).hide hid = s.hide hid := by
  unfold State.broadcast
  try dsimp only
  repeat' (first | with_reducible rfl | (simp only [State.sendEvent_hide, h_skim, h_mbox, h_ports, foldl_hide, ite_hide, ite_self, implies_true, and_self]; done) | (with_reducible refine (foldl_hide _ (fun s x => ?_) _ _).trans ?_) | split | (simp only [State.sendEvent_hide, h_skim, h_mbox, h_ports, foldl_hide, ite_hide, ite_self, implies_true, and_self]))

theorem State.logRange_hide (h_regs : StateUnit.regs ∈ hid) (h_log : StateUnit.log ∈ hid)  (area : Nat) (row : Nat) (s : State) : (State.logRange s area row).hide hid = s.hide hid := by
  unfold State.logRange
  try dsimp only
  repeat' (first | with_reducible rfl | (simp only [State.logErr_hide, h_regs, h_log, foldl_hide, ite_hide, ite_self, implies_true, and_self]; done) | (with_reducible refine (foldl_hide _ (fun s x => ?_) _ _).trans ?_) | split | (simp only [State.logErr_hide, h_regs, h_log, foldl_hide, ite_hide, ite_self, implies_true, and_self]))

theorem State.rowCorrected_hide (h_vat : StateUnit.vat ∈ hid) (h_regs : StateUnit.regs ∈ hid) (h_log : StateUnit.log ∈ hid)  (pra : Nat) (s : State) : (State.rowCorrected s pra).hide hid = s.hide hid := by
  unfold State.rowCorrected
  try dsimp only
  repeat' (first | with_reducible rfl | (simp only [State.logErr_hide, State.modVat_hide, h_vat, h_regs, h_log, Vat.zeroTag_banks, Vat.writeRow_banks, Vat.writeRows_banks, Vat.zeroBank_banks, lmod_length, putBack_length, List.length_map, ite_length, foldl_hide, ite_hide, ite_self, implies_true, and_self]; done) | (with_reducible refine (foldl_hide _ (fun s x => ?_) _ _).trans ?_) | split | (simp only [State.logErr_hide, State.modVat_hide, h_vat, h_regs, h_log, Vat.zeroTag_banks, Vat.writeRow_banks, Vat.writeRows_banks, Vat.zeroBank_banks, lmod_length, putBack_length, List.length_map, ite_length, foldl_hide, ite_hide, ite_self, implies_true, and_self]))

theorem State.rowPoisoned_hide (h_vat : StateUnit.vat ∈ hid) (h_vatMem : StateUnit.vatMem ∈ hid) (h_regs : StateUnit.regs ∈ hid) (h_log : StateUnit.log ∈ hid)  (pra : Nat) (tagBad : Bool) (s : State) : (State.rowPoisoned s pra tagBad).hide hid = s.hide hid := by
  unfold State.rowPoisoned
  try dsimp only
  repeat' (first | with_reducible rfl | (simp only [State.logErr_hide, State.modVat_hide, State.modVat_hide_mem, h_vat, h_vatMem, h_regs, h_log, Vat.zeroTag_banks, Vat.writeRow_banks, Vat.writeRows_banks, Vat.zeroBank_banks, lmod_length, putBack_length, List.length_map, ite_length, foldl_hide, ite_hide, ite_self, implies_true, and_self]; done) | (with_reducible refine (foldl_hide _ (fun s x => ?_) _ _).trans ?_) | split | (simp only [State.logErr_hide, State.modVat_hide, State.modVat_hide_mem, h_vat, h_vatMem, h_regs, h_log, Vat.zeroTag_banks, Vat.writeRow_banks, Vat.writeRows_banks, Vat.zeroBank_banks, lmod_length, putBack_length, List.length_map, ite_length, foldl_hide, ite_hide, ite_self, implies_true, and_self]))

theorem State.markOne_hide (h_reqs : StateUnit.reqs ∈ hid)  (here : State → State) (slot : Nat) (cause : Nat) (hf_here : ∀ (x0 : State), (here x0).hide hid = x0.hide hid) (s : State) : (State.markOne here s slot cause).hide hid = s.hide hid := by
  unfold State.markOne
  try dsimp only
  repeat' (first | with_reducible rfl | (simp only [hf_here, State.modReq_hide, h_reqs, foldl_hide, ite_hide, ite_self, implies_true, and_self]; done) | (with_reducible refine (foldl_hide _ (fun s x => ?_) _ _).trans ?_) | split | (simp only [hf_here, State.modReq_hide, h_reqs, foldl_hide, ite_hide, ite_self, implies_true, and_self]))

theorem State.markPair_hide (h_reqs : StateUnit.reqs ∈ hid)  (here : Nat → State → State) (slot : Nat) (cause : Nat) (hf_here : ∀ (x0 : Nat) (x1 : State), (here x0 x1).hide hid = x1.hide hid) (s : State) : (State.markPair here s slot cause).hide hid = s.hide hid := by
  unfold State.markPair
  try dsimp only
  repeat' (first | with_reducible rfl | (simp only [hf_here, State.markOne_hide, h_reqs, foldl_hide, ite_hide, ite_self, implies_true, and_self]; done) | (with_reducible refine (foldl_hide _ (fun s x => ?_) _ _).trans ?_) | split | (simp only [hf_here, State.markOne_hide, h_reqs, foldl_hide, ite_hide, ite_self, implies_true, and_self]))

theorem State.markDry_hide (h_shell : StateUnit.shell ∈ hid) (h_reqs : StateUnit.reqs ∈ hid)  (slot : Nat) (cause : Nat) (s : State) : (State.markDry s slot cause).hide hid = s.hide hid := by
  unfold State.markDry
  try dsimp only
  repeat' (first | with_reducible rfl | (simp only [State.markPair_hide, State.modShell_hide, h_shell, h_reqs, foldl_hide, ite_hide, ite_self, implies_true, and_self]; done) | (with_reducible refine (foldl_hide _ (fun s x => ?_) _ _).trans ?_) | split | (simp only [State.markPair_hide, State.modShell_hide, h_shell, h_reqs, foldl_hide, ite_hide, ite_self, implies_true, and_self]))

theorem State.sendMark_hide (h_shell : StateUnit.shell ∈ hid) (h_coll : StateUnit.coll ∈ hid) (h_regs : StateUnit.regs ∈ hid) (h_log : StateUnit.log ∈ hid)  (slot : Nat) (cause : Nat) (s : State) : (State.sendMark s slot cause).hide hid = s.hide hid := by
  unfold State.sendMark
  try dsimp only
  repeat' (first | with_reducible rfl | (simp only [State.logErr_hide, State.modColl_hide, State.modShell_hide, h_shell, h_coll, h_regs, h_log, foldl_hide, ite_hide, ite_self, implies_true, and_self]; done) | (with_reducible refine (foldl_hide _ (fun s x => ?_) _ _).trans ?_) | split | (simp only [State.logErr_hide, State.modColl_hide, State.modShell_hide, h_shell, h_coll, h_regs, h_log, foldl_hide, ite_hide, ite_self, implies_true, and_self]))

theorem State.engDry_hide (h_shell : StateUnit.shell ∈ hid) (h_coll : StateUnit.coll ∈ hid) (h_reqs : StateUnit.reqs ∈ hid) (h_regs : StateUnit.regs ∈ hid) (h_log : StateUnit.log ∈ hid)  (slot : Nat) (cause : Nat) (s : State) : (State.engDry s slot cause).hide hid = s.hide hid := by
  unfold State.engDry
  try dsimp only
  repeat' (first | with_reducible rfl | (simp only [State.markPair_hide, State.sendMark_hide, h_shell, h_coll, h_reqs, h_regs, h_log, foldl_hide, ite_hide, ite_self, implies_true, and_self]; done) | (with_reducible refine (foldl_hide _ (fun s x => ?_) _ _).trans ?_) | split | (simp only [State.markPair_hide, State.sendMark_hide, h_shell, h_coll, h_reqs, h_regs, h_log, foldl_hide, ite_hide, ite_self, implies_true, and_self]))

theorem State.markDryAll_hide (h_shell : StateUnit.shell ∈ hid) (h_reqs : StateUnit.reqs ∈ hid)  (slots : List Nat) (cause : Nat) (s : State) : (State.markDryAll s slots cause).hide hid = s.hide hid := by
  unfold State.markDryAll
  try dsimp only
  repeat' (first | with_reducible rfl | (simp only [State.markDry_hide, h_shell, h_reqs, foldl_hide, ite_hide, ite_self, implies_true, and_self]; done) | (with_reducible refine (foldl_hide _ (fun s x => ?_) _ _).trans ?_) | split | (simp only [State.markDry_hide, h_shell, h_reqs, foldl_hide, ite_hide, ite_self, implies_true, and_self]))

theorem State.engDryAll_hide (h_shell : StateUnit.shell ∈ hid) (h_coll : StateUnit.coll ∈ hid) (h_reqs : StateUnit.reqs ∈ hid) (h_regs : StateUnit.regs ∈ hid) (h_log : StateUnit.log ∈ hid)  (slots : List Nat) (cause : Nat) (s : State) : (State.engDryAll s slots cause).hide hid = s.hide hid := by
  unfold State.engDryAll
  try dsimp only
  repeat' (first | with_reducible rfl | (simp only [State.engDry_hide, h_shell, h_coll, h_reqs, h_regs, h_log, foldl_hide, ite_hide, ite_self, implies_true, and_self]; done) | (with_reducible refine (foldl_hide _ (fun s x => ?_) _ _).trans ?_) | split | (simp only [State.engDry_hide, h_shell, h_coll, h_reqs, h_regs, h_log, foldl_hide, ite_hide, ite_self, implies_true, and_self]))

theorem State.tick_hide (h_reqs : StateUnit.reqs ∈ hid)   (s : State) : (State.tick s).hide hid = s.hide hid := by
  unfold State.tick
  try dsimp only
  repeat' (first | with_reducible rfl | (simp only [State.modReqs_hide, h_reqs, foldl_hide, ite_hide, ite_self, implies_true, and_self]; done) | (with_reducible refine (foldl_hide _ (fun s x => ?_) _ _).trans ?_) | split | (simp only [State.modReqs_hide, h_reqs, foldl_hide, ite_hide, ite_self, implies_true, and_self]))

theorem State.makeWaiting_hide (h_reqs : StateUnit.reqs ∈ hid)  (h : Handle) (s : State) : (State.makeWaiting s h).hide hid = s.hide hid := by
  unfold State.makeWaiting
  try dsimp only
  repeat' (first | with_reducible rfl | (simp only [State.modReq_hide, State.tick_hide, h_reqs, foldl_hide, ite_hide, ite_self, implies_true, and_self]; done) | (with_reducible refine (foldl_hide _ (fun s x => ?_) _ _).trans ?_) | split | (simp only [State.modReq_hide, State.tick_hide, h_reqs, foldl_hide, ite_hide, ite_self, implies_true, and_self]))

theorem State.tryWaiting_hide (h_reqs : StateUnit.reqs ∈ hid)  (h : Handle) (s : State) : (State.tryWaiting s h).hide hid = s.hide hid := by
  unfold State.tryWaiting
  try dsimp only
  repeat' (first | with_reducible rfl | (simp only [State.makeWaiting_hide, h_reqs, foldl_hide, ite_hide, ite_self, implies_true, and_self]; done) | (with_reducible refine (foldl_hide _ (fun s x => ?_) _ _).trans ?_) | split | (simp only [State.makeWaiting_hide, h_reqs, foldl_hide, ite_hide, ite_self, implies_true, and_self]))

theorem State.reweigh_hide (h_reqs : StateUnit.reqs ∈ hid)   (s : State) : (State.reweigh s).hide hid = s.hide hid := by
  unfold State.reweigh
  try dsimp only
  repeat' (first | with_reducible rfl | (simp only [State.tryWaiting_hide, h_reqs, foldl_hide, ite_hide, ite_self, implies_true, and_self]; done) | (with_reducible refine (foldl_hide _ (fun s x => ?_) _ _).trans ?_) | split | (simp only [State.tryWaiting_hide, h_reqs, foldl_hide, ite_hide, ite_self, implies_true, and_self]))

theorem State.useHot_hide (h_reqs : StateUnit.reqs ∈ hid)  (h : Handle) (s : State) : (State.useHot s h).hide hid = s.hide hid := by
  unfold State.useHot
  try dsimp only
  repeat' (first | with_reducible rfl | (simp only [State.modReq_hide, State.tick_hide, h_reqs, foldl_hide, ite_hide, ite_self, implies_true, and_self]; done) | (with_reducible refine (foldl_hide _ (fun s x => ?_) _ _).trans ?_) | split | (simp only [State.modReq_hide, State.tick_hide, h_reqs, foldl_hide, ite_hide, ite_self, implies_true, and_self]))

theorem State.recordAccess_hide (h_ports : StateUnit.ports ∈ hid)  (index : Nat) (wr : Bool) (s : State) : (State.recordAccess s index wr).hide hid = s.hide hid := by
  unfold State.recordAccess
  try dsimp only
  repeat' (first | with_reducible rfl | (simp only [State.modPorts_hide, h_ports, foldl_hide, ite_hide, ite_self, implies_true, and_self]; done) | (with_reducible refine (foldl_hide _ (fun s x => ?_) _ _).trans ?_) | split | (simp only [State.modPorts_hide, h_ports, foldl_hide, ite_hide, ite_self, implies_true, and_self]))

theorem State.moveRecord_hide (h_reqs : StateUnit.reqs ∈ hid) (h_ports : StateUnit.ports ∈ hid)  (r : Request) (s : State) : (State.moveRecord s r).hide hid = s.hide hid := by
  unfold State.moveRecord
  try dsimp only
  repeat' (first | with_reducible rfl | (simp only [State.modReq_hide, State.recordAccess_hide, h_reqs, h_ports, foldl_hide, ite_hide, ite_self, implies_true, and_self]; done) | (with_reducible refine (foldl_hide _ (fun s x => ?_) _ _).trans ?_) | split | (simp only [State.modReq_hide, State.recordAccess_hide, h_reqs, h_ports, foldl_hide, ite_hide, ite_self, implies_true, and_self]))

theorem State.bringHot_hide (h_reqs : StateUnit.reqs ∈ hid) (h_ports : StateUnit.ports ∈ hid)  (h : Handle) (s : State) : (State.bringHot s h).hide hid = s.hide hid := by
  unfold State.bringHot
  try dsimp only
  repeat' (first | with_reducible rfl | (simp only [State.moveRecord_hide, h_reqs, h_ports, foldl_hide, ite_hide, ite_self, implies_true, and_self]; done) | (with_reducible refine (foldl_hide _ (fun s x => ?_) _ _).trans ?_) | split | (simp only [State.moveRecord_hide, h_reqs, h_ports, foldl_hide, ite_hide, ite_self, implies_true, and_self]))

/-! ### Machine/Mail.lean -/

theorem State.tryDetach_hide (h_skim : StateUnit.skim ∈ hid) (h_mbox : StateUnit.mbox ∈ hid) (h_ports : StateUnit.ports ∈ hid)  (b : Sender) (s : State) : (State.tryDetach s b).hide hid = s.hide hid := by
  unfold State.tryDetach
  try dsimp only
  repeat' (first | with_reducible rfl | (simp only [State.modCtx_hide, State.ringWrite_hide, State.askRing_hide, State.modMbox_hide, h_skim, h_mbox, h_ports, lmod_length, putBack_length, List.length_map, ite_length, foldl_hide, ite_hide, ite_self, implies_true, and_self]; done) | (with_reducible refine (foldl_hide _ (fun s x => ?_) _ _).trans ?_) | split | (simp only [State.modCtx_hide, State.ringWrite_hide, State.askRing_hide, State.modMbox_hide, h_skim, h_mbox, h_ports, lmod_length, putBack_length, List.length_map, ite_length, foldl_hide, ite_hide, ite_self, implies_true, and_self]))

theorem State.tryDetaches_hide (h_skim : StateUnit.skim ∈ hid) (h_mbox : StateUnit.mbox ∈ hid) (h_ports : StateUnit.ports ∈ hid)  (c : Nat) (s : State) : (State.tryDetaches s c).hide hid = s.hide hid := by
  unfold State.tryDetaches
  try dsimp only
  repeat' (first | with_reducible rfl | (simp only [State.tryDetach_hide, h_skim, h_mbox, h_ports, foldl_hide, ite_hide, ite_self, implies_true, and_self]; done) | (with_reducible refine (foldl_hide _ (fun s x => ?_) _ _).trans ?_) | split | (simp only [State.tryDetach_hide, h_skim, h_mbox, h_ports, foldl_hide, ite_hide, ite_self, implies_true, and_self]))

theorem State.answerFirst_hide (h_skim : StateUnit.skim ∈ hid) (h_mbox : StateUnit.mbox ∈ hid) (h_ports : StateUnit.ports ∈ hid)  (b : Sender) (p : Taken → Bool) (op : Nat) (status : Nat) (body : List Byte) (s : State) : (State.answerFirst s b p op status body).hide hid = s.hide hid := by
  unfold State.answerFirst
  try dsimp only
  repeat' (first | with_reducible rfl | (simp only [State.modCtx_hide, State.giveResponse_hide, State.tryDetaches_hide, h_skim, h_mbox, h_ports, foldl_hide, ite_hide, ite_self, implies_true, and_self]; done) | (with_reducible refine (foldl_hide _ (fun s x => ?_) _ _).trans ?_) | split | (simp only [State.modCtx_hide, State.giveResponse_hide, State.tryDetaches_hide, h_skim, h_mbox, h_ports, foldl_hide, ite_hide, ite_self, implies_true, and_self]))

theorem State.answer_hide (h_skim : StateUnit.skim ∈ hid) (h_mbox : StateUnit.mbox ∈ hid) (h_ports : StateUnit.ports ∈ hid)  (b : Sender) (op : Nat) (status : Nat) (body : List Byte) (s : State) : (State.answer s b op status body).hide hid = s.hide hid := by
  unfold State.answer
  try dsimp only
  repeat' (first | with_reducible rfl | (simp only [State.answerFirst_hide, h_skim, h_mbox, h_ports, foldl_hide, ite_hide, ite_self, implies_true, and_self]; done) | (with_reducible refine (foldl_hide _ (fun s x => ?_) _ _).trans ?_) | split | (simp only [State.answerFirst_hide, h_skim, h_mbox, h_ports, foldl_hide, ite_hide, ite_self, implies_true, and_self]))

theorem State.refuse_hide (h_skim : StateUnit.skim ∈ hid) (h_mbox : StateUnit.mbox ∈ hid) (h_ports : StateUnit.ports ∈ hid)  (b : Sender) (op : Nat) (status : Nat) (s : State) : (State.refuse s b op status).hide hid = s.hide hid := by
  unfold State.refuse
  try dsimp only
  repeat' (first | with_reducible rfl | (simp only [State.answer_hide, h_skim, h_mbox, h_ports, foldl_hide, ite_hide, ite_self, implies_true, and_self]; done) | (with_reducible refine (foldl_hide _ (fun s x => ?_) _ _).trans ?_) | split | (simp only [State.answer_hide, h_skim, h_mbox, h_ports, foldl_hide, ite_hide, ite_self, implies_true, and_self]))

theorem State.dropCmd_hide (h_mbox : StateUnit.mbox ∈ hid)  (b : Sender) (op : Nat) (s : State) : (State.dropCmd s b op).hide hid = s.hide hid := by
  unfold State.dropCmd
  try dsimp only
  repeat' (first | with_reducible rfl | (simp only [State.modCtx_hide, h_mbox, foldl_hide, ite_hide, ite_self, implies_true, and_self]; done) | (with_reducible refine (foldl_hide _ (fun s x => ?_) _ _).trans ?_) | split | (simp only [State.modCtx_hide, h_mbox, foldl_hide, ite_hide, ite_self, implies_true, and_self]))

theorem State.serve_hide (h_skim : StateUnit.skim ∈ hid) (h_mbox : StateUnit.mbox ∈ hid) (h_ports : StateUnit.ports ∈ hid)  (b : Sender) (op : Nat) (f : State → State) (hf_f : ∀ (x0 : State), (f x0).hide hid = x0.hide hid) (s : State) : (State.serve s b op f).hide hid = s.hide hid := by
  unfold State.serve
  try dsimp only
  repeat' (first | with_reducible rfl | (simp only [hf_f, State.modCtx_hide, State.refuse_hide, h_skim, h_mbox, h_ports, foldl_hide, ite_hide, ite_self, implies_true, and_self]; done) | (with_reducible refine (foldl_hide _ (fun s x => ?_) _ _).trans ?_) | split | (simp only [hf_f, State.modCtx_hide, State.refuse_hide, h_skim, h_mbox, h_ports, foldl_hide, ite_hide, ite_self, implies_true, and_self]))

theorem cmdIdentify_hide (h_skim : StateUnit.skim ∈ hid) (h_mbox : StateUnit.mbox ∈ hid) (h_ports : StateUnit.ports ∈ hid)  (b : Sender) (s : State) : (cmdIdentify b s).hide hid = s.hide hid := by
  unfold cmdIdentify
  try dsimp only
  repeat' (first | with_reducible rfl | (simp only [State.answer_hide, h_skim, h_mbox, h_ports, foldl_hide, ite_hide, ite_self, implies_true, and_self]; done) | (with_reducible refine (foldl_hide _ (fun s x => ?_) _ _).trans ?_) | split | (simp only [State.answer_hide, h_skim, h_mbox, h_ports, foldl_hide, ite_hide, ite_self, implies_true, and_self]))

theorem State.refuseAttach_hide (h_mbox : StateUnit.mbox ∈ hid)  (b : Sender) (status : Nat) (s : State) : (State.refuseAttach s b status).hide hid = s.hide hid := by
  unfold State.refuseAttach
  try dsimp only
  repeat' (first | with_reducible rfl | (simp only [State.modCtx_hide, State.dropCmd_hide, h_mbox, foldl_hide, ite_hide, ite_self, implies_true, and_self]; done) | (with_reducible refine (foldl_hide _ (fun s x => ?_) _ _).trans ?_) | split | (simp only [State.modCtx_hide, State.dropCmd_hide, h_mbox, foldl_hide, ite_hide, ite_self, implies_true, and_self]))

theorem cmdAttach_hide (h_skim : StateUnit.skim ∈ hid) (h_mbox : StateUnit.mbox ∈ hid) (h_ports : StateUnit.ports ∈ hid)  (b : Sender) (ring : BitVec 64) (cidx : BitVec 64) (log2r : Byte) (flags : Byte) (s : State) : (cmdAttach b ring cidx log2r flags s).hide hid = s.hide hid := by
  unfold cmdAttach
  try dsimp only
  repeat' (first | with_reducible rfl | (simp only [State.modCtx_hide, State.answer_hide, State.refuse_hide, State.refuseAttach_hide, h_skim, h_mbox, h_ports, foldl_hide, ite_hide, ite_self, implies_true, and_self]; done) | (with_reducible refine (foldl_hide _ (fun s x => ?_) _ _).trans ?_) | split | (simp only [State.modCtx_hide, State.answer_hide, State.refuse_hide, State.refuseAttach_hide, h_skim, h_mbox, h_ports, foldl_hide, ite_hide, ite_self, implies_true, and_self]))

theorem cmdDetach_hide (h_skim : StateUnit.skim ∈ hid) (h_mbox : StateUnit.mbox ∈ hid) (h_ports : StateUnit.ports ∈ hid)  (b : Sender) (context : Nat) (s : State) : (cmdDetach b context s).hide hid = s.hide hid := by
  unfold cmdDetach
  try dsimp only
  repeat' (first | with_reducible rfl | (simp only [State.modCtx_hide, State.tryDetach_hide, State.answer_hide, State.refuse_hide, State.modMbox_hide, h_skim, h_mbox, h_ports, lmod_length, putBack_length, List.length_map, ite_length, foldl_hide, ite_hide, ite_self, implies_true, and_self]; done) | (with_reducible refine (foldl_hide _ (fun s x => ?_) _ _).trans ?_) | split | (simp only [State.modCtx_hide, State.tryDetach_hide, State.answer_hide, State.refuse_hide, State.modMbox_hide, h_skim, h_mbox, h_ports, lmod_length, putBack_length, List.length_map, ite_length, foldl_hide, ite_hide, ite_self, implies_true, and_self]))

theorem cmdReadLog_hide (h_skim : StateUnit.skim ∈ hid) (h_mbox : StateUnit.mbox ∈ hid) (h_ports : StateUnit.ports ∈ hid)  (b : Sender) (dest : BitVec 64) (first : Word) (count : Word) (s : State) : (cmdReadLog b dest first count s).hide hid = s.hide hid := by
  unfold cmdReadLog
  try dsimp only
  repeat' (first | with_reducible rfl | (simp only [State.hostWrite_hide, State.answer_hide, State.refuse_hide, h_skim, h_mbox, h_ports, foldl_hide, ite_hide, ite_self, implies_true, and_self]; done) | (with_reducible refine (foldl_hide _ (fun s x => ?_) _ _).trans ?_) | split | (simp only [State.hostWrite_hide, State.answer_hide, State.refuse_hide, h_skim, h_mbox, h_ports, foldl_hide, ite_hide, ite_self, implies_true, and_self]))

theorem cmdReadBootReport_hide (h_skim : StateUnit.skim ∈ hid) (h_mbox : StateUnit.mbox ∈ hid) (h_ports : StateUnit.ports ∈ hid)  (b : Sender) (s : State) : (cmdReadBootReport b s).hide hid = s.hide hid := by
  unfold cmdReadBootReport
  try dsimp only
  repeat' (first | with_reducible rfl | (simp only [State.answer_hide, h_skim, h_mbox, h_ports, foldl_hide, ite_hide, ite_self, implies_true, and_self]; done) | (with_reducible refine (foldl_hide _ (fun s x => ?_) _ _).trans ?_) | split | (simp only [State.answer_hide, h_skim, h_mbox, h_ports, foldl_hide, ite_hide, ite_self, implies_true, and_self]))

theorem execIdentify_hide (h_clk : StateUnit.clk ∈ hid) (h_skim : StateUnit.skim ∈ hid) (h_mbox : StateUnit.mbox ∈ hid) (h_ports : StateUnit.ports ∈ hid) (t : Time) (by_ : Sender) {s t' : State} (e : execIdentify t by_ s = .next t') : t'.hide hid = s.hide hid := by
  unfold execIdentify at e
  try dsimp only at e
  rw [Host.Outcome.next.injEq] at e
  subst e
  repeat' (first | with_reducible rfl | (simp only [State.at_hide, State.serve_hide, cmdIdentify_hide, h_clk, h_skim, h_mbox, h_ports, foldl_hide, ite_hide, ite_self, implies_true, and_self]; done) | (with_reducible refine (foldl_hide _ (fun s x => ?_) _ _).trans ?_) | split | (simp only [State.at_hide, State.serve_hide, cmdIdentify_hide, h_clk, h_skim, h_mbox, h_ports, foldl_hide, ite_hide, ite_self, implies_true, and_self]))

theorem execAttach_hide (h_clk : StateUnit.clk ∈ hid) (h_skim : StateUnit.skim ∈ hid) (h_mbox : StateUnit.mbox ∈ hid) (h_ports : StateUnit.ports ∈ hid) (t : Time) (by_ : Sender) (ring : BitVec 64) (cidxAddr : BitVec 64) (log2r : Byte) (flags : Byte) {s t' : State} (e : execAttach t by_ ring cidxAddr log2r flags s = .next t') : t'.hide hid = s.hide hid := by
  unfold execAttach at e
  try dsimp only at e
  rw [Host.Outcome.next.injEq] at e
  subst e
  repeat' (first | with_reducible rfl | (simp only [State.at_hide, State.serve_hide, cmdAttach_hide, h_clk, h_skim, h_mbox, h_ports, foldl_hide, ite_hide, ite_self, implies_true, and_self]; done) | (with_reducible refine (foldl_hide _ (fun s x => ?_) _ _).trans ?_) | split | (simp only [State.at_hide, State.serve_hide, cmdAttach_hide, h_clk, h_skim, h_mbox, h_ports, foldl_hide, ite_hide, ite_self, implies_true, and_self]))

theorem execDetach_hide (h_clk : StateUnit.clk ∈ hid) (h_skim : StateUnit.skim ∈ hid) (h_mbox : StateUnit.mbox ∈ hid) (h_ports : StateUnit.ports ∈ hid) (t : Time) (by_ : Sender) (context : BitVec 8) {s t' : State} (e : execDetach t by_ context s = .next t') : t'.hide hid = s.hide hid := by
  unfold execDetach at e
  try dsimp only at e
  rw [Host.Outcome.next.injEq] at e
  subst e
  repeat' (first | with_reducible rfl | (simp only [State.at_hide, State.serve_hide, cmdDetach_hide, h_clk, h_skim, h_mbox, h_ports, foldl_hide, ite_hide, ite_self, implies_true, and_self]; done) | (with_reducible refine (foldl_hide _ (fun s x => ?_) _ _).trans ?_) | split | (simp only [State.at_hide, State.serve_hide, cmdDetach_hide, h_clk, h_skim, h_mbox, h_ports, foldl_hide, ite_hide, ite_self, implies_true, and_self]))

theorem execReadLog_hide (h_clk : StateUnit.clk ∈ hid) (h_skim : StateUnit.skim ∈ hid) (h_mbox : StateUnit.mbox ∈ hid) (h_ports : StateUnit.ports ∈ hid) (t : Time) (by_ : Sender) (dest : BitVec 64) (first : Word) (count : Word) {s t' : State} (e : execReadLog t by_ dest first count s = .next t') : t'.hide hid = s.hide hid := by
  unfold execReadLog at e
  try dsimp only at e
  rw [Host.Outcome.next.injEq] at e
  subst e
  repeat' (first | with_reducible rfl | (simp only [State.at_hide, State.serve_hide, cmdReadLog_hide, h_clk, h_skim, h_mbox, h_ports, foldl_hide, ite_hide, ite_self, implies_true, and_self]; done) | (with_reducible refine (foldl_hide _ (fun s x => ?_) _ _).trans ?_) | split | (simp only [State.at_hide, State.serve_hide, cmdReadLog_hide, h_clk, h_skim, h_mbox, h_ports, foldl_hide, ite_hide, ite_self, implies_true, and_self]))

theorem execReadBootReport_hide (h_clk : StateUnit.clk ∈ hid) (h_skim : StateUnit.skim ∈ hid) (h_mbox : StateUnit.mbox ∈ hid) (h_ports : StateUnit.ports ∈ hid) (t : Time) (by_ : Sender) {s t' : State} (e : execReadBootReport t by_ s = .next t') : t'.hide hid = s.hide hid := by
  unfold execReadBootReport at e
  try dsimp only at e
  rw [Host.Outcome.next.injEq] at e
  subst e
  repeat' (first | with_reducible rfl | (simp only [State.at_hide, State.serve_hide, cmdReadBootReport_hide, h_clk, h_skim, h_mbox, h_ports, foldl_hide, ite_hide, ite_self, implies_true, and_self]; done) | (with_reducible refine (foldl_hide _ (fun s x => ?_) _ _).trans ?_) | split | (simp only [State.at_hide, State.serve_hide, cmdReadBootReport_hide, h_clk, h_skim, h_mbox, h_ports, foldl_hide, ite_hide, ite_self, implies_true, and_self]))

theorem State.limitedErr_hide (h_regs : StateUnit.regs ∈ hid) (h_log : StateUnit.log ∈ hid)  (last : Option Nat) (code : Nat) (d0 : Nat) (d1 : Nat) (s : State) : (State.limitedErr s last code d0 d1).1.hide hid = s.hide hid := by
  unfold State.limitedErr
  try dsimp only
  repeat' (first | with_reducible rfl | (simp only [State.logErr_hide, State.modRegs_hide, h_regs, h_log, foldl_hide, ite_hide, ite_self, implies_true, and_self]; done) | (with_reducible refine (foldl_hide _ (fun s x => ?_) _ _).trans ?_) | split | (simp only [State.logErr_hide, State.modRegs_hide, h_regs, h_log, foldl_hide, ite_hide, ite_self, implies_true, and_self]))

theorem State.dropAccess_hide (h_regs : StateUnit.regs ∈ hid) (h_log : StateUnit.log ∈ hid)  (offset : Nat) (wr : Bool) (s : State) : (State.dropAccess s offset wr).hide hid = s.hide hid := by
  unfold State.dropAccess
  try dsimp only
  repeat' (first | with_reducible rfl | (simp only [State.limitedErr_hide, State.modRegs_hide, h_regs, h_log, foldl_hide, ite_hide, ite_self, implies_true, and_self]; done) | (with_reducible refine (foldl_hide _ (fun s x => ?_) _ _).trans ?_) | split | (simp only [State.limitedErr_hide, State.modRegs_hide, h_regs, h_log, foldl_hide, ite_hide, ite_self, implies_true, and_self]))

theorem State.dropStaging_hide (h_regs : StateUnit.regs ∈ hid) (h_log : StateUnit.log ∈ hid)  (offset : Nat) (s : State) : (State.dropStaging s offset).hide hid = s.hide hid := by
  unfold State.dropStaging
  try dsimp only
  repeat' (first | with_reducible rfl | (simp only [State.limitedErr_hide, State.modRegs_hide, h_regs, h_log, foldl_hide, ite_hide, ite_self, implies_true, and_self]; done) | (with_reducible refine (foldl_hide _ (fun s x => ?_) _ _).trans ?_) | split | (simp only [State.limitedErr_hide, State.modRegs_hide, h_regs, h_log, foldl_hide, ite_hide, ite_self, implies_true, and_self]))

theorem State.windowWrite_hide (h_mbox : StateUnit.mbox ∈ hid) (h_cmdWin : StateUnit.cmdWin ∈ hid) (h_regs : StateUnit.regs ∈ hid) (h_log : StateUnit.log ∈ hid)  (offset : Nat) (data : List Byte) (s : State) : (State.windowWrite s offset data).hide hid = s.hide hid := by
  unfold State.windowWrite
  try dsimp only
  repeat' (first | with_reducible rfl | (simp only [State.dropAccess_hide, State.dropStaging_hide, State.modMbox_hide, State.modRegs_hide, State.modMbox_hide_win, h_mbox, h_cmdWin, h_regs, h_log, lmod_length, putBack_length, List.length_map, ite_length, foldl_hide, ite_hide, ite_self, implies_true, and_self]; done) | (with_reducible refine (foldl_hide _ (fun s x => ?_) _ _).trans ?_) | split | (simp only [State.dropAccess_hide, State.dropStaging_hide, State.modMbox_hide, State.modRegs_hide, State.modMbox_hide_win, h_mbox, h_cmdWin, h_regs, h_log, lmod_length, putBack_length, List.length_map, ite_length, foldl_hide, ite_hide, ite_self, implies_true, and_self]))

theorem execCommandWindowWrite_hide (h_clk : StateUnit.clk ∈ hid) (h_mbox : StateUnit.mbox ∈ hid) (h_cmdWin : StateUnit.cmdWin ∈ hid) (h_regs : StateUnit.regs ∈ hid) (h_log : StateUnit.log ∈ hid) (t : Time) (offset : Nat) (data : List Byte) {s t' : State} (e : execCommandWindowWrite t offset data s = .next t') : t'.hide hid = s.hide hid := by
  unfold execCommandWindowWrite at e
  try dsimp only at e
  rw [Host.Outcome.next.injEq] at e
  subst e
  repeat' (first | with_reducible rfl | (simp only [State.at_hide, State.windowWrite_hide, h_clk, h_mbox, h_cmdWin, h_regs, h_log, foldl_hide, ite_hide, ite_self, implies_true, and_self]; done) | (with_reducible refine (foldl_hide _ (fun s x => ?_) _ _).trans ?_) | split | (simp only [State.at_hide, State.windowWrite_hide, h_clk, h_mbox, h_cmdWin, h_regs, h_log, foldl_hide, ite_hide, ite_self, implies_true, and_self]))

theorem State.takeDoorbell_hide (h_mbox : StateUnit.mbox ∈ hid) (h_regs : StateUnit.regs ∈ hid) (h_log : StateUnit.log ∈ hid)  (c : Nat) (v : Nat) (s : State) : (State.takeDoorbell s c v).hide hid = s.hide hid := by
  unfold State.takeDoorbell
  try dsimp only
  repeat' (first | with_reducible rfl | (simp only [State.logErr_hide, State.modCtx_hide, h_mbox, h_regs, h_log, foldl_hide, ite_hide, ite_self, implies_true, and_self]; done) | (with_reducible refine (foldl_hide _ (fun s x => ?_) _ _).trans ?_) | split | (simp only [State.logErr_hide, State.modCtx_hide, h_mbox, h_regs, h_log, foldl_hide, ite_hide, ite_self, implies_true, and_self]))

theorem State.doorbell_hide (h_mbox : StateUnit.mbox ∈ hid) (h_regs : StateUnit.regs ∈ hid) (h_log : StateUnit.log ∈ hid)  (c : Nat) (value : Word) (s : State) : (State.doorbell s c value).hide hid = s.hide hid := by
  unfold State.doorbell
  try dsimp only
  repeat' (first | with_reducible rfl | (simp only [State.modCtx_hide, State.dropAccess_hide, State.takeDoorbell_hide, h_mbox, h_regs, h_log, foldl_hide, ite_hide, ite_self, implies_true, and_self]; done) | (with_reducible refine (foldl_hide _ (fun s x => ?_) _ _).trans ?_) | split | (simp only [State.modCtx_hide, State.dropAccess_hide, State.takeDoorbell_hide, h_mbox, h_regs, h_log, foldl_hide, ite_hide, ite_self, implies_true, and_self]))

theorem execDoorbell_hide (h_clk : StateUnit.clk ∈ hid) (h_mbox : StateUnit.mbox ∈ hid) (h_regs : StateUnit.regs ∈ hid) (h_log : StateUnit.log ∈ hid) (t : Time) (ctx : BitVec 8) (value : Word) {s t' : State} (e : execDoorbell t ctx value s = .next t') : t'.hide hid = s.hide hid := by
  unfold execDoorbell at e
  try dsimp only at e
  rw [Host.Outcome.next.injEq] at e
  subst e
  repeat' (first | with_reducible rfl | (simp only [State.at_hide, State.hostAct_hide, State.doorbell_hide, h_clk, h_mbox, h_regs, h_log, foldl_hide, ite_hide, ite_self, implies_true, and_self]; done) | (with_reducible refine (foldl_hide _ (fun s x => ?_) _ _).trans ?_) | split | (simp only [State.at_hide, State.hostAct_hide, State.doorbell_hide, h_clk, h_mbox, h_regs, h_log, foldl_hide, ite_hide, ite_self, implies_true, and_self]))

theorem execRingConsumerPoll_hide (h_clk : StateUnit.clk ∈ hid) (h_skim : StateUnit.skim ∈ hid) (h_mbox : StateUnit.mbox ∈ hid) (h_ports : StateUnit.ports ∈ hid) (t : Time) (ctx : BitVec 8) {s t' : State} (e : execRingConsumerPoll t ctx s = .next t') : t'.hide hid = s.hide hid := by
  unfold execRingConsumerPoll at e
  try dsimp only at e
  rw [Host.Outcome.next.injEq] at e
  subst e
  repeat' (first | with_reducible rfl | (simp only [State.at_hide, State.ringAll_hide, State.askRing_hide, h_clk, h_skim, h_mbox, h_ports, foldl_hide, ite_hide, ite_self, implies_true, and_self]; done) | (with_reducible refine (foldl_hide _ (fun s x => ?_) _ _).trans ?_) | split | (simp only [State.at_hide, State.ringAll_hide, State.askRing_hide, h_clk, h_skim, h_mbox, h_ports, foldl_hide, ite_hide, ite_self, implies_true, and_self]))

theorem State.giveLost_hide (h_skim : StateUnit.skim ∈ hid) (h_mbox : StateUnit.mbox ∈ hid) (h_ports : StateUnit.ports ∈ hid)  (c : Nat) (s : State) : (State.giveLost s c).hide hid = s.hide hid := by
  unfold State.giveLost
  try dsimp only
  repeat' (first | with_reducible rfl | (simp only [State.modCtx_hide, State.tryEvent_hide, h_skim, h_mbox, h_ports, foldl_hide, ite_hide, ite_self, implies_true, and_self]; done) | (with_reducible refine (foldl_hide _ (fun s x => ?_) _ _).trans ?_) | split | (simp only [State.modCtx_hide, State.tryEvent_hide, h_skim, h_mbox, h_ports, foldl_hide, ite_hide, ite_self, implies_true, and_self]))

theorem State.ringRead_hide (h_skim : StateUnit.skim ∈ hid) (h_mbox : StateUnit.mbox ∈ hid) (h_regs : StateUnit.regs ∈ hid) (h_log : StateUnit.log ∈ hid) (h_ports : StateUnit.ports ∈ hid)  (c : Nat) (value : Option (BitVec 64)) (s : State) : (State.ringRead s c value).hide hid = s.hide hid := by
  unfold State.ringRead
  try dsimp only
  repeat' (first | with_reducible rfl | (simp only [State.logErr_hide, State.modCtx_hide, State.drainRing_hide, State.tryDetaches_hide, State.giveLost_hide, h_skim, h_mbox, h_regs, h_log, h_ports, foldl_hide, ite_hide, ite_self, implies_true, and_self]; done) | (with_reducible refine (foldl_hide _ (fun s x => ?_) _ _).trans ?_) | split | (simp only [State.logErr_hide, State.modCtx_hide, State.drainRing_hide, State.tryDetaches_hide, State.giveLost_hide, h_skim, h_mbox, h_regs, h_log, h_ports, foldl_hide, ite_hide, ite_self, implies_true, and_self]))

theorem execRingConsumerReadDone_hide (h_clk : StateUnit.clk ∈ hid) (h_skim : StateUnit.skim ∈ hid) (h_mbox : StateUnit.mbox ∈ hid) (h_regs : StateUnit.regs ∈ hid) (h_log : StateUnit.log ∈ hid) (h_ports : StateUnit.ports ∈ hid) (t : Time) (ctx : BitVec 8) (value : Option (BitVec 64)) {s t' : State} (e : execRingConsumerReadDone t ctx value s = .next t') : t'.hide hid = s.hide hid := by
  unfold execRingConsumerReadDone at e
  try dsimp only at e
  rw [Host.Outcome.next.injEq] at e
  subst e
  repeat' (first | with_reducible rfl | (simp only [State.at_hide, State.modCtx_hide, State.ringRead_hide, h_clk, h_skim, h_mbox, h_regs, h_log, h_ports, foldl_hide, ite_hide, ite_self, implies_true, and_self]; done) | (with_reducible refine (foldl_hide _ (fun s x => ?_) _ _).trans ?_) | split | (simp only [State.at_hide, State.modCtx_hide, State.ringRead_hide, h_clk, h_skim, h_mbox, h_regs, h_log, h_ports, foldl_hide, ite_hide, ite_self, implies_true, and_self]))

/-! ### Machine/Rows.lean -/

theorem State.modRow_hide (h_str : StateUnit.str ∈ hid)  (slot : Nat) (posn : Nat) (f : Row → Row) (s : State) : (State.modRow slot posn f s).hide hid = s.hide hid := by
  unfold State.modRow
  try dsimp only
  repeat' (first | with_reducible rfl | (simp only [State.modStr_hide, h_str, lmod_length, putBack_length, List.length_map, ite_length, foldl_hide, ite_hide, ite_self, implies_true, and_self]; done) | (with_reducible refine (foldl_hide _ (fun s x => ?_) _ _).trans ?_) | split | (simp only [State.modStr_hide, h_str, lmod_length, putBack_length, List.length_map, ite_length, foldl_hide, ite_hide, ite_self, implies_true, and_self]))

theorem State.dropRow_hide (h_str : StateUnit.str ∈ hid)  (slot : Nat) (posn : Nat) (s : State) : (State.dropRow slot posn s).hide hid = s.hide hid := by
  unfold State.dropRow
  try dsimp only
  repeat' (first | with_reducible rfl | (simp only [State.modStr_hide, h_str, lmod_length, putBack_length, List.length_map, ite_length, foldl_hide, ite_hide, ite_self, implies_true, and_self]; done) | (with_reducible refine (foldl_hide _ (fun s x => ?_) _ _).trans ?_) | split | (simp only [State.modStr_hide, h_str, lmod_length, putBack_length, List.length_map, ite_length, foldl_hide, ite_hide, ite_self, implies_true, and_self]))

theorem State.freeTiles_hide (h_shell : StateUnit.shell ∈ hid)   (s : State) : (State.freeTiles s).hide hid = s.hide hid := by
  unfold State.freeTiles
  try dsimp only
  repeat' (first | with_reducible rfl | (simp only [State.modShell_hide, h_shell, foldl_hide, ite_hide, ite_self, implies_true, and_self]; done) | (with_reducible refine (foldl_hide _ (fun s x => ?_) _ _).trans ?_) | split | (simp only [State.modShell_hide, h_shell, foldl_hide, ite_hide, ite_self, implies_true, and_self]))

theorem State.modSel_hide (h_coll : StateUnit.coll ∈ hid)  (step : Nat) (slot : Nat) (posn : Nat) (f : Sel → Sel) (s : State) : (State.modSel step slot posn f s).hide hid = s.hide hid := by
  unfold State.modSel
  try dsimp only
  repeat' (first | with_reducible rfl | (simp only [State.modColl_hide, h_coll, foldl_hide, ite_hide, ite_self, implies_true, and_self]; done) | (with_reducible refine (foldl_hide _ (fun s x => ?_) _ _).trans ?_) | split | (simp only [State.modColl_hide, h_coll, foldl_hide, ite_hide, ite_self, implies_true, and_self]))

theorem State.releasePins_hide (h_ren : StateUnit.ren ∈ hid)  (slot : Nat) (step : Nat) (s : State) : (State.releasePins s slot step).hide hid = s.hide hid := by
  unfold State.releasePins
  try dsimp only
  repeat' (first | with_reducible rfl | (simp only [State.modRen_hide, h_ren, foldl_hide, ite_hide, ite_self, implies_true, and_self]; done) | (with_reducible refine (foldl_hide _ (fun s x => ?_) _ _).trans ?_) | split | (simp only [State.modRen_hide, h_ren, foldl_hide, ite_hide, ite_self, implies_true, and_self]))

theorem State.sweepPins_hide (h_ren : StateUnit.ren ∈ hid)  (slot : Nat) (upTo : Nat) (s : State) : (State.sweepPins s slot upTo).hide hid = s.hide hid := by
  unfold State.sweepPins
  try dsimp only
  repeat' (first | with_reducible rfl | (simp only [State.releasePins_hide, h_ren, Vat.release_mem, Vat.release_tags, Vat.release_checks, Vat.release_parity, Vat.release_banks, foldl_hide, ite_hide, ite_self, implies_true, and_self]; done) | (with_reducible refine (foldl_hide _ (fun s x => ?_) _ _).trans ?_) | split | (simp only [State.releasePins_hide, h_ren, Vat.release_mem, Vat.release_tags, Vat.release_checks, Vat.release_parity, Vat.release_banks, foldl_hide, ite_hide, ite_self, implies_true, and_self]))

theorem State.startAsk_hide (h_str : StateUnit.str ∈ hid)  (order : Nat) (s : State) : (State.startAsk s order).hide hid = s.hide hid := by
  unfold State.startAsk
  try dsimp only
  repeat' (first | with_reducible rfl | (simp only [State.modRow_hide, h_str, foldl_hide, ite_hide, ite_self, implies_true, and_self]; done) | (with_reducible refine (foldl_hide _ (fun s x => ?_) _ _).trans ?_) | split | (simp only [State.modRow_hide, h_str, foldl_hide, ite_hide, ite_self, implies_true, and_self]))

theorem State.startRow_hide (h_str : StateUnit.str ∈ hid)  (r : Row) (s : State) : (State.startRow s r).hide hid = s.hide hid := by
  unfold State.startRow
  try dsimp only
  repeat' (first | with_reducible rfl | (simp only [State.modRow_hide, h_str, foldl_hide, ite_hide, ite_self, implies_true, and_self]; done) | (with_reducible refine (foldl_hide _ (fun s x => ?_) _ _).trans ?_) | split | (simp only [State.modRow_hide, h_str, foldl_hide, ite_hide, ite_self, implies_true, and_self]))

theorem State.startWork_hide (h_str : StateUnit.str ∈ hid)   (s : State) : (State.startWork s).hide hid = s.hide hid := by
  unfold State.startWork
  try dsimp only
  repeat' (first | with_reducible rfl | (simp only [State.startAsk_hide, State.startRow_hide, h_str, foldl_hide, ite_hide, ite_self, implies_true, and_self]; done) | (with_reducible refine (foldl_hide _ (fun s x => ?_) _ _).trans ?_) | split | (simp only [State.startAsk_hide, State.startRow_hide, h_str, foldl_hide, ite_hide, ite_self, implies_true, and_self]))

theorem State.askWork_hide (h_str : StateUnit.str ∈ hid)  (slot : Nat) (posn : Nat) (w : RowWork) (s : State) : (State.askWork s slot posn w).hide hid = s.hide hid := by
  unfold State.askWork
  try dsimp only
  repeat' (first | with_reducible rfl | (simp only [State.modRow_hide, State.startWork_hide, State.modStr_hide, h_str, lmod_length, putBack_length, List.length_map, ite_length, foldl_hide, ite_hide, ite_self, implies_true, and_self]; done) | (with_reducible refine (foldl_hide _ (fun s x => ?_) _ _).trans ?_) | split | (simp only [State.modRow_hide, State.startWork_hide, State.modStr_hide, h_str, lmod_length, putBack_length, List.length_map, ite_length, foldl_hide, ite_hide, ite_self, implies_true, and_self]))

/-! ### Machine/Shell.lean -/

theorem State.modGroup_hide (h_shell : StateUnit.shell ∈ hid)  (g : Nat) (f : Group → Group) (s : State) : (State.modGroup g f s).hide hid = s.hide hid := by
  unfold State.modGroup
  try dsimp only
  repeat' (first | with_reducible rfl | (simp only [State.modShell_hide, h_shell, foldl_hide, ite_hide, ite_self, implies_true, and_self]; done) | (with_reducible refine (foldl_hide _ (fun s x => ?_) _ _).trans ?_) | split | (simp only [State.modShell_hide, h_shell, foldl_hide, ite_hide, ite_self, implies_true, and_self]))

theorem State.modPosition_hide (h_shell : StateUnit.shell ∈ hid)  (g : Nat) (draft : Bool) (posn : Nat) (f : Position → Position) (s : State) : (State.modPosition g draft posn f s).hide hid = s.hide hid := by
  unfold State.modPosition
  try dsimp only
  repeat' (first | with_reducible rfl | (simp only [State.modShell_hide, h_shell, foldl_hide, ite_hide, ite_self, implies_true, and_self]; done) | (with_reducible refine (foldl_hide _ (fun s x => ?_) _ _).trans ?_) | split | (simp only [State.modShell_hide, h_shell, foldl_hide, ite_hide, ite_self, implies_true, and_self]))

theorem State.dropRows_hide (h_shell : StateUnit.shell ∈ hid) (h_str : StateUnit.str ∈ hid) (h_ren : StateUnit.ren ∈ hid)  (gone : Row → Bool) (s : State) : (State.dropRows s gone).hide hid = s.hide hid := by
  unfold State.dropRows
  try dsimp only
  repeat' (first | with_reducible rfl | (simp only [State.freeTiles_hide, State.sweepPins_hide, State.startWork_hide, State.modStr_hide, h_shell, h_str, h_ren, lmod_length, putBack_length, List.length_map, ite_length, foldl_hide, ite_hide, ite_self, implies_true, and_self]; done) | (with_reducible refine (foldl_hide _ (fun s x => ?_) _ _).trans ?_) | split | (simp only [State.freeTiles_hide, State.sweepPins_hide, State.startWork_hide, State.modStr_hide, h_shell, h_str, h_ren, lmod_length, putBack_length, List.length_map, ite_length, foldl_hide, ite_hide, ite_self, implies_true, and_self]))

theorem State.dropGroup_hide (h_shell : StateUnit.shell ∈ hid) (h_str : StateUnit.str ∈ hid) (h_ren : StateUnit.ren ∈ hid)  (g : Nat) (s : State) : (State.dropGroup s g).hide hid = s.hide hid := by
  unfold State.dropGroup
  try dsimp only
  repeat' (first | with_reducible rfl | (simp only [State.modGroup_hide, State.dropRows_hide, State.modShell_hide, h_shell, h_str, h_ren, foldl_hide, ite_hide, ite_self, implies_true, and_self]; done) | (with_reducible refine (foldl_hide _ (fun s x => ?_) _ _).trans ?_) | split | (simp only [State.modGroup_hide, State.dropRows_hide, State.modShell_hide, h_shell, h_str, h_ren, foldl_hide, ite_hide, ite_self, implies_true, and_self]))

theorem State.dryGroup_hide (h_shell : StateUnit.shell ∈ hid) (h_reqs : StateUnit.reqs ∈ hid)  (f : Shape) (g : Nat) (cause : Nat) (s : State) : (State.dryGroup s f g cause).hide hid = s.hide hid := by
  unfold State.dryGroup
  try dsimp only
  repeat' (first | with_reducible rfl | (simp only [State.markDryAll_hide, h_shell, h_reqs, foldl_hide, ite_hide, ite_self, implies_true, and_self]; done) | (with_reducible refine (foldl_hide _ (fun s x => ?_) _ _).trans ?_) | split | (simp only [State.markDryAll_hide, h_shell, h_reqs, foldl_hide, ite_hide, ite_self, implies_true, and_self]))

theorem State.putEntry_hide (h_shell : StateUnit.shell ∈ hid)  (slot : Nat) (e : Entry) (r : TokRecord) (s : State) : (State.putEntry s slot e r).hide hid = s.hide hid := by
  unfold State.putEntry
  try dsimp only
  repeat' (first | with_reducible rfl | (simp only [State.modShell_hide, h_shell, foldl_hide, ite_hide, ite_self, implies_true, and_self]; done) | (with_reducible refine (foldl_hide _ (fun s x => ?_) _ _).trans ?_) | split | (simp only [State.modShell_hide, h_shell, foldl_hide, ite_hide, ite_self, implies_true, and_self]))

theorem State.flushHeld_hide (h_shell : StateUnit.shell ∈ hid)   (s : State) : (State.flushHeld s).hide hid = s.hide hid := by
  unfold State.flushHeld
  try dsimp only
  repeat' (first | with_reducible rfl | (simp only [State.putEntry_hide, State.modShell_hide, h_shell, foldl_hide, ite_hide, ite_self, implies_true, and_self]; done) | (with_reducible refine (foldl_hide _ (fun s x => ?_) _ _).trans ?_) | split | (simp only [State.putEntry_hide, State.modShell_hide, h_shell, foldl_hide, ite_hide, ite_self, implies_true, and_self]))

theorem State.writeEntry_hide (h_shell : StateUnit.shell ∈ hid)  (slot : Nat) (e : Entry) (r : TokRecord) (s : State) : (State.writeEntry s slot e r).hide hid = s.hide hid := by
  unfold State.writeEntry
  try dsimp only
  repeat' (first | with_reducible rfl | (simp only [State.putEntry_hide, State.flushHeld_hide, State.modShell_hide, h_shell, foldl_hide, ite_hide, ite_self, implies_true, and_self]; done) | (with_reducible refine (foldl_hide _ (fun s x => ?_) _ _).trans ?_) | split | (simp only [State.putEntry_hide, State.flushHeld_hide, State.modShell_hide, h_shell, foldl_hide, ite_hide, ite_self, implies_true, and_self]))

theorem State.frozenLive_hide (h_reqs : StateUnit.reqs ∈ hid)  (b : Buffer) (s : State) : (State.frozenLive s b).hide hid = s.hide hid := by
  unfold State.frozenLive
  try dsimp only
  repeat' (first | with_reducible rfl | (simp only [State.modReqs_hide, h_reqs, foldl_hide, ite_hide, ite_self, implies_true, and_self]; done) | (with_reducible refine (foldl_hide _ (fun s x => ?_) _ _).trans ?_) | split | (simp only [State.modReqs_hide, h_reqs, foldl_hide, ite_hide, ite_self, implies_true, and_self]))

theorem State.freezeNow_hide (h_shell : StateUnit.shell ∈ hid) (h_reqs : StateUnit.reqs ∈ hid)   (s : State) : (State.freezeNow s).hide hid = s.hide hid := by
  unfold State.freezeNow
  try dsimp only
  repeat' (first | with_reducible rfl | (simp only [State.flushHeld_hide, State.frozenLive_hide, State.modShell_hide, h_shell, h_reqs, foldl_hide, ite_hide, ite_self, implies_true, and_self]; done) | (with_reducible refine (foldl_hide _ (fun s x => ?_) _ _).trans ?_) | split | (simp only [State.flushHeld_hide, State.frozenLive_hide, State.modShell_hide, h_shell, h_reqs, foldl_hide, ite_hide, ite_self, implies_true, and_self]))

theorem execFreeze_hide (h_clk : StateUnit.clk ∈ hid) (h_shell : StateUnit.shell ∈ hid) (h_reqs : StateUnit.reqs ∈ hid) (t : Time) {s t' : State} (e : execFreeze t s = .next t') : t'.hide hid = s.hide hid := by
  unfold execFreeze at e
  try dsimp only at e
  rw [Host.Outcome.next.injEq] at e
  subst e
  repeat' (first | with_reducible rfl | (simp only [State.at_hide, State.freezeNow_hide, h_clk, h_shell, h_reqs, foldl_hide, ite_hide, ite_self, implies_true, and_self]; done) | (with_reducible refine (foldl_hide _ (fun s x => ?_) _ _).trans ?_) | split | (simp only [State.at_hide, State.freezeNow_hide, h_clk, h_shell, h_reqs, foldl_hide, ite_hide, ite_self, implies_true, and_self]))

theorem execManifestEntryWrite_hide (h_clk : StateUnit.clk ∈ hid) (h_shell : StateUnit.shell ∈ hid) (t : Time) (slot : BitVec 12) (entry : BitVec 512) (record : BitVec 256) {s t' : State} (e : execManifestEntryWrite t slot entry record s = .next t') : t'.hide hid = s.hide hid := by
  unfold execManifestEntryWrite at e
  try dsimp only at e
  rw [Host.Outcome.next.injEq] at e
  subst e
  repeat' (first | with_reducible rfl | (simp only [State.at_hide, State.writeEntry_hide, h_clk, h_shell, foldl_hide, ite_hide, ite_self, implies_true, and_self]; done) | (with_reducible refine (foldl_hide _ (fun s x => ?_) _ _).trans ?_) | split | (simp only [State.at_hide, State.writeEntry_hide, h_clk, h_shell, foldl_hide, ite_hide, ite_self, implies_true, and_self]))

theorem State.crossingLog_hide (h_shell : StateUnit.shell ∈ hid) (h_regs : StateUnit.regs ∈ hid) (h_log : StateUnit.log ∈ hid)   (s : State) : (State.crossingLog s).hide hid = s.hide hid := by
  unfold State.crossingLog
  try dsimp only
  repeat' (first | with_reducible rfl | (simp only [State.logFabric_hide, h_shell, h_regs, h_log, foldl_hide, ite_hide, ite_self, implies_true, and_self]; done) | (with_reducible refine (foldl_hide _ (fun s x => ?_) _ _).trans ?_) | split | (simp only [State.logFabric_hide, h_shell, h_regs, h_log, foldl_hide, ite_hide, ite_self, implies_true, and_self]))

theorem State.issueEntry_hide (h_reqs : StateUnit.reqs ∈ hid) (h_rat : StateUnit.rat ∈ hid)  (slot : Nat) (r : Request) (s : State) : (State.issueEntry s slot r).hide hid = s.hide hid := by
  unfold State.issueEntry
  try dsimp only
  repeat' (first | with_reducible rfl | (simp only [State.modReq_hide, State.modRat_hide, h_reqs, h_rat, foldl_hide, ite_hide, ite_self, implies_true, and_self]; done) | (with_reducible refine (foldl_hide _ (fun s x => ?_) _ _).trans ?_) | split | (simp only [State.modReq_hide, State.modRat_hide, h_reqs, h_rat, foldl_hide, ite_hide, ite_self, implies_true, and_self]))

theorem State.issueAll_hide (h_reqs : StateUnit.reqs ∈ hid) (h_rat : StateUnit.rat ∈ hid)   (s : State) : (State.issueAll s).hide hid = s.hide hid := by
  unfold State.issueAll
  try dsimp only
  repeat' (first | with_reducible rfl | (simp only [State.issueEntry_hide, h_reqs, h_rat, foldl_hide, ite_hide, ite_self, implies_true, and_self]; done) | (with_reducible refine (foldl_hide _ (fun s x => ?_) _ _).trans ?_) | split | (simp only [State.issueEntry_hide, h_reqs, h_rat, foldl_hide, ite_hide, ite_self, implies_true, and_self]))

theorem State.keepLost_hide (h_shell : StateUnit.shell ∈ hid) (h_reqs : StateUnit.reqs ∈ hid)   (s : State) : (State.keepLost s).hide hid = s.hide hid := by
  unfold State.keepLost
  try dsimp only
  repeat' (first | with_reducible rfl | (simp only [State.markDryAll_hide, h_shell, h_reqs, foldl_hide, ite_hide, ite_self, implies_true, and_self]; done) | (with_reducible refine (foldl_hide _ (fun s x => ?_) _ _).trans ?_) | split | (simp only [State.markDryAll_hide, h_shell, h_reqs, foldl_hide, ite_hide, ite_self, implies_true, and_self]))

theorem State.beginStep_hide (h_clk : StateUnit.clk ∈ hid) (h_shell : StateUnit.shell ∈ hid) (h_vat : StateUnit.vat ∈ hid) (h_str : StateUnit.str ∈ hid) (h_ren : StateUnit.ren ∈ hid) (h_coll : StateUnit.coll ∈ hid) (h_reqs : StateUnit.reqs ∈ hid) (h_rat : StateUnit.rat ∈ hid)  (n : Nat) (s : State) : (State.beginStep s n).hide hid = s.hide hid := by
  unfold State.beginStep
  try dsimp only
  repeat' (first | with_reducible rfl | (simp only [State.markDry_hide, State.reweigh_hide, State.freeTiles_hide, State.startWork_hide, State.dropRows_hide, State.flushHeld_hide, State.issueAll_hide, State.keepLost_hide, State.modClk_hide, State.modColl_hide, State.modReqs_hide, State.modShell_hide, State.modVat_hide, h_clk, h_shell, h_vat, h_str, h_ren, h_coll, h_reqs, h_rat, Vat.zeroTag_banks, Vat.writeRow_banks, Vat.writeRows_banks, Vat.zeroBank_banks, lmod_length, putBack_length, List.length_map, ite_length, foldl_hide, ite_hide, ite_self, implies_true, and_self]; done) | (with_reducible refine (foldl_hide _ (fun s x => ?_) _ _).trans ?_) | split | (simp only [State.markDry_hide, State.reweigh_hide, State.freeTiles_hide, State.startWork_hide, State.dropRows_hide, State.flushHeld_hide, State.issueAll_hide, State.keepLost_hide, State.modClk_hide, State.modColl_hide, State.modReqs_hide, State.modShell_hide, State.modVat_hide, h_clk, h_shell, h_vat, h_str, h_ren, h_coll, h_reqs, h_rat, Vat.zeroTag_banks, Vat.writeRow_banks, Vat.writeRows_banks, Vat.zeroBank_banks, lmod_length, putBack_length, List.length_map, ite_length, foldl_hide, ite_hide, ite_self, implies_true, and_self]))

theorem State.laterStart_hide (h_clk : StateUnit.clk ∈ hid) (h_shell : StateUnit.shell ∈ hid) (h_vat : StateUnit.vat ∈ hid) (h_str : StateUnit.str ∈ hid) (h_ren : StateUnit.ren ∈ hid) (h_coll : StateUnit.coll ∈ hid) (h_reqs : StateUnit.reqs ∈ hid) (h_rat : StateUnit.rat ∈ hid) (h_regs : StateUnit.regs ∈ hid) (h_log : StateUnit.log ∈ hid)  (b : Buffer) (s : State) : (State.laterStart s b).hide hid = s.hide hid := by
  unfold State.laterStart
  try dsimp only
  repeat' (first | with_reducible rfl | (simp only [State.logErr_hide, State.logFabric_hide, State.freezeNow_hide, State.crossingLog_hide, State.beginStep_hide, State.modShell_hide, h_clk, h_shell, h_vat, h_str, h_ren, h_coll, h_reqs, h_rat, h_regs, h_log, foldl_hide, ite_hide, ite_self, implies_true, and_self]; done) | (with_reducible refine (foldl_hide _ (fun s x => ?_) _ _).trans ?_) | split | (simp only [State.logErr_hide, State.logFabric_hide, State.freezeNow_hide, State.crossingLog_hide, State.beginStep_hide, State.modShell_hide, h_clk, h_shell, h_vat, h_str, h_ren, h_coll, h_reqs, h_rat, h_regs, h_log, foldl_hide, ite_hide, ite_self, implies_true, and_self]))

theorem execStepStart_hide (h_clk : StateUnit.clk ∈ hid) (h_shell : StateUnit.shell ∈ hid) (h_vat : StateUnit.vat ∈ hid) (h_str : StateUnit.str ∈ hid) (h_ren : StateUnit.ren ∈ hid) (h_coll : StateUnit.coll ∈ hid) (h_reqs : StateUnit.reqs ∈ hid) (h_rat : StateUnit.rat ∈ hid) (h_regs : StateUnit.regs ∈ hid) (h_log : StateUnit.log ∈ hid) (t : Time) {s t' : State} (e : execStepStart t s = .next t') : t'.hide hid = s.hide hid := by
  unfold execStepStart at e
  try dsimp only at e
  rw [Host.Outcome.next.injEq] at e
  subst e
  repeat' (first | with_reducible rfl | (simp only [State.at_hide, State.beginStep_hide, State.laterStart_hide, h_clk, h_shell, h_vat, h_str, h_ren, h_coll, h_reqs, h_rat, h_regs, h_log, foldl_hide, ite_hide, ite_self, implies_true, and_self]; done) | (with_reducible refine (foldl_hide _ (fun s x => ?_) _ _).trans ?_) | split | (simp only [State.at_hide, State.beginStep_hide, State.laterStart_hide, h_clk, h_shell, h_vat, h_str, h_ren, h_coll, h_reqs, h_rat, h_regs, h_log, foldl_hide, ite_hide, ite_self, implies_true, and_self]))

theorem execStretch_hide (h_clk : StateUnit.clk ∈ hid) (h_shell : StateUnit.shell ∈ hid) (t : Time) {s t' : State} (e : execStretch t s = .next t') : t'.hide hid = s.hide hid := by
  unfold execStretch at e
  try dsimp only at e
  rw [Host.Outcome.next.injEq] at e
  subst e
  repeat' (first | with_reducible rfl | (simp only [State.at_hide, State.modShell_hide, h_clk, h_shell, foldl_hide, ite_hide, ite_self, implies_true, and_self]; done) | (with_reducible refine (foldl_hide _ (fun s x => ?_) _ _).trans ?_) | split | (simp only [State.at_hide, State.modShell_hide, h_clk, h_shell, foldl_hide, ite_hide, ite_self, implies_true, and_self]))

theorem execFrequencyChange_hide (h_clk : StateUnit.clk ∈ hid) (t : Time) (mhz : Nat) {s t' : State} (e : execFrequencyChange t mhz s = .next t') : t'.hide hid = s.hide hid := by
  unfold execFrequencyChange at e
  try dsimp only at e
  rw [Host.Outcome.next.injEq] at e
  subst e
  repeat' (first | with_reducible rfl | (simp only [State.at_hide, State.modClk_hide, h_clk, foldl_hide, ite_hide, ite_self, implies_true, and_self]; done) | (with_reducible refine (foldl_hide _ (fun s x => ?_) _ _).trans ?_) | split | (simp only [State.at_hide, State.modClk_hide, h_clk, foldl_hide, ite_hide, ite_self, implies_true, and_self]))

theorem State.dryInStep_hide (h_shell : StateUnit.shell ∈ hid) (h_reqs : StateUnit.reqs ∈ hid)  (step : Nat) (slot : Nat) (cause : Nat) (s : State) : (State.dryInStep s step slot cause).hide hid = s.hide hid := by
  unfold State.dryInStep
  try dsimp only
  repeat' (first | with_reducible rfl | (simp only [State.markDry_hide, State.modShell_hide, h_shell, h_reqs, foldl_hide, ite_hide, ite_self, implies_true, and_self]; done) | (with_reducible refine (foldl_hide _ (fun s x => ?_) _ _).trans ?_) | split | (simp only [State.markDry_hide, State.modShell_hide, h_shell, h_reqs, foldl_hide, ite_hide, ite_self, implies_true, and_self]))

theorem State.readEcc_hide (h_shell : StateUnit.shell ∈ hid) (h_reqs : StateUnit.reqs ∈ hid) (h_regs : StateUnit.regs ∈ hid) (h_log : StateUnit.log ∈ hid)  (b : Buffer) (slot : Nat) (port : Nat) (ecc : Ecc) (s : State) : (State.readEcc s b slot port ecc).hide hid = s.hide hid := by
  unfold State.readEcc
  try dsimp only
  repeat' (first | with_reducible rfl | (simp only [State.logFabric_hide, State.markDry_hide, State.modShell_hide, h_shell, h_reqs, h_regs, h_log, foldl_hide, ite_hide, ite_self, implies_true, and_self]; done) | (with_reducible refine (foldl_hide _ (fun s x => ?_) _ _).trans ?_) | split | (simp only [State.logFabric_hide, State.markDry_hide, State.modShell_hide, h_shell, h_reqs, h_regs, h_log, foldl_hide, ite_hide, ite_self, implies_true, and_self]))

theorem State.readSlot_hide (h_shell : StateUnit.shell ∈ hid) (h_reqs : StateUnit.reqs ∈ hid) (h_regs : StateUnit.regs ∈ hid) (h_log : StateUnit.log ∈ hid)  (b : Buffer) (slot : Nat) (port : Nat) (ecc : Ecc) (s : State) : (State.readSlot s b slot port ecc).hide hid = s.hide hid := by
  unfold State.readSlot
  try dsimp only
  repeat' (first | with_reducible rfl | (simp only [State.logErr_hide, State.dryInStep_hide, State.readEcc_hide, h_shell, h_reqs, h_regs, h_log, foldl_hide, ite_hide, ite_self, implies_true, and_self]; done) | (with_reducible refine (foldl_hide _ (fun s x => ?_) _ _).trans ?_) | split | (simp only [State.logErr_hide, State.dryInStep_hide, State.readEcc_hide, h_shell, h_reqs, h_regs, h_log, foldl_hide, ite_hide, ite_self, implies_true, and_self]))

theorem execManifestRead_hide (h_clk : StateUnit.clk ∈ hid) (h_shell : StateUnit.shell ∈ hid) (h_reqs : StateUnit.reqs ∈ hid) (h_regs : StateUnit.regs ∈ hid) (h_log : StateUnit.log ∈ hid) (t : Time) (slot : BitVec 12) (ecc : Ecc) {s t' : State} (e : execManifestRead t slot ecc s = .next t') : t'.hide hid = s.hide hid := by
  unfold execManifestRead at e
  try dsimp only at e
  rw [Host.Outcome.next.injEq] at e
  subst e
  repeat' (first | with_reducible rfl | (simp only [State.at_hide, State.readSlot_hide, State.modShell_hide, h_clk, h_shell, h_reqs, h_regs, h_log, foldl_hide, ite_hide, ite_self, implies_true, and_self]; done) | (with_reducible refine (foldl_hide _ (fun s x => ?_) _ _).trans ?_) | split | (simp only [State.at_hide, State.readSlot_hide, State.modShell_hide, h_clk, h_shell, h_reqs, h_regs, h_log, foldl_hide, ite_hide, ite_self, implies_true, and_self]))

theorem execTokenPortRead_hide (h_clk : StateUnit.clk ∈ hid) (h_shell : StateUnit.shell ∈ hid) (h_reqs : StateUnit.reqs ∈ hid) (h_regs : StateUnit.regs ∈ hid) (h_log : StateUnit.log ∈ hid) (t : Time) (pair : BitVec 11) (eccLo : Ecc) (eccHi : Ecc) {s t' : State} (e : execTokenPortRead t pair eccLo eccHi s = .next t') : t'.hide hid = s.hide hid := by
  unfold execTokenPortRead at e
  try dsimp only at e
  rw [Host.Outcome.next.injEq] at e
  subst e
  repeat' (first | with_reducible rfl | (simp only [State.at_hide, State.readSlot_hide, State.modShell_hide, h_clk, h_shell, h_reqs, h_regs, h_log, foldl_hide, ite_hide, ite_self, implies_true, and_self]; done) | (with_reducible refine (foldl_hide _ (fun s x => ?_) _ _).trans ?_) | split | (simp only [State.at_hide, State.readSlot_hide, State.modShell_hide, h_clk, h_shell, h_reqs, h_regs, h_log, foldl_hide, ite_hide, ite_self, implies_true, and_self]))

theorem State.queueHeader_hide (h_shell : StateUnit.shell ∈ hid)  (h : Header) (refused : Bool) (s : State) : (State.queueHeader s h refused).hide hid = s.hide hid := by
  unfold State.queueHeader
  try dsimp only
  repeat' (first | with_reducible rfl | (simp only [State.modShell_hide, h_shell, foldl_hide, ite_hide, ite_self, implies_true, and_self]; done) | (with_reducible refine (foldl_hide _ (fun s x => ?_) _ _).trans ?_) | split | (simp only [State.modShell_hide, h_shell, foldl_hide, ite_hide, ite_self, implies_true, and_self]))

theorem State.lateBeat_hide (h_shell : StateUnit.shell ∈ hid)  (f : Shape) (g : Nat) (tile : Option Nat) (s : State) : (State.lateBeat s f g tile).hide hid = s.hide hid := by
  unfold State.lateBeat
  try dsimp only
  repeat' (first | with_reducible rfl | (simp only [State.modGroup_hide, State.modShell_hide, h_shell, foldl_hide, ite_hide, ite_self, implies_true, and_self]; done) | (with_reducible refine (foldl_hide _ (fun s x => ?_) _ _).trans ?_) | split | (simp only [State.modGroup_hide, State.modShell_hide, h_shell, foldl_hide, ite_hide, ite_self, implies_true, and_self]))

theorem State.headerBeat_hide (h_shell : StateUnit.shell ∈ hid) (h_str : StateUnit.str ∈ hid) (h_ren : StateUnit.ren ∈ hid) (h_reqs : StateUnit.reqs ∈ hid) (h_regs : StateUnit.regs ∈ hid) (h_log : StateUnit.log ∈ hid)  (f : Shape) (raw : Nat) (s : State) : (State.headerBeat s f raw).hide hid = s.hide hid := by
  unfold State.headerBeat
  try dsimp only
  repeat' (first | with_reducible rfl | (simp only [State.logFabric_hide, State.modPosition_hide, State.dropGroup_hide, State.dryGroup_hide, State.queueHeader_hide, State.lateBeat_hide, h_shell, h_str, h_ren, h_reqs, h_regs, h_log, foldl_hide, ite_hide, ite_self, implies_true, and_self]; done) | (with_reducible refine (foldl_hide _ (fun s x => ?_) _ _).trans ?_) | split | (simp only [State.logFabric_hide, State.modPosition_hide, State.dropGroup_hide, State.dryGroup_hide, State.queueHeader_hide, State.lateBeat_hide, h_shell, h_str, h_ren, h_reqs, h_regs, h_log, foldl_hide, ite_hide, ite_self, implies_true, and_self]))

theorem execHeaderBeat_hide (h_clk : StateUnit.clk ∈ hid) (h_shell : StateUnit.shell ∈ hid) (h_str : StateUnit.str ∈ hid) (h_ren : StateUnit.ren ∈ hid) (h_reqs : StateUnit.reqs ∈ hid) (h_regs : StateUnit.regs ∈ hid) (h_log : StateUnit.log ∈ hid) (t : Time) (hdr : BitVec 512) {s t' : State} (e : execHeaderBeat t hdr s = .next t') : t'.hide hid = s.hide hid := by
  unfold execHeaderBeat at e
  try dsimp only at e
  rw [Host.Outcome.next.injEq] at e
  subst e
  repeat' (first | with_reducible rfl | (simp only [State.at_hide, State.headerBeat_hide, State.modShell_hide, h_clk, h_shell, h_str, h_ren, h_reqs, h_regs, h_log, foldl_hide, ite_hide, ite_self, implies_true, and_self]; done) | (with_reducible refine (foldl_hide _ (fun s x => ?_) _ _).trans ?_) | split | (simp only [State.at_hide, State.headerBeat_hide, State.modShell_hide, h_clk, h_shell, h_str, h_ren, h_reqs, h_regs, h_log, foldl_hide, ite_hide, ite_self, implies_true, and_self]))

theorem State.dealRow_hide (h_str : StateUnit.str ∈ hid)  (f : Shape) (g : Nat) (slot : Nat) (team : List Nat) (p : Bool × Nat) (s : State) : (State.dealRow s f g slot team p).hide hid = s.hide hid := by
  unfold State.dealRow
  try dsimp only
  repeat' (first | with_reducible rfl | (simp only [State.dropRow_hide, State.modStr_hide, h_str, lmod_length, putBack_length, List.length_map, ite_length, foldl_hide, ite_hide, ite_self, implies_true, and_self]; done) | (with_reducible refine (foldl_hide _ (fun s x => ?_) _ _).trans ?_) | split | (simp only [State.dropRow_hide, State.modStr_hide, h_str, lmod_length, putBack_length, List.length_map, ite_length, foldl_hide, ite_hide, ite_self, implies_true, and_self]))

theorem State.dealGroup_hide (h_shell : StateUnit.shell ∈ hid) (h_str : StateUnit.str ∈ hid)  (f : Shape) (g : Nat) (s : State) : (State.dealGroup s f g).hide hid = s.hide hid := by
  unfold State.dealGroup
  try dsimp only
  repeat' (first | with_reducible rfl | (simp only [State.modGroup_hide, State.dealRow_hide, h_shell, h_str, foldl_hide, ite_hide, ite_self, implies_true, and_self]; done) | (with_reducible refine (foldl_hide _ (fun s x => ?_) _ _).trans ?_) | split | (simp only [State.modGroup_hide, State.dealRow_hide, h_shell, h_str, foldl_hide, ite_hide, ite_self, implies_true, and_self]))

theorem State.groupFull_hide (h_shell : StateUnit.shell ∈ hid) (h_str : StateUnit.str ∈ hid) (h_ren : StateUnit.ren ∈ hid) (h_coll : StateUnit.coll ∈ hid) (h_reqs : StateUnit.reqs ∈ hid) (h_regs : StateUnit.regs ∈ hid) (h_log : StateUnit.log ∈ hid)  (f : Shape) (g : Nat) (s : State) : (State.groupFull s f g).hide hid = s.hide hid := by
  unfold State.groupFull
  try dsimp only
  repeat' (first | with_reducible rfl | (simp only [State.logFabric_hide, State.engDryAll_hide, State.modGroup_hide, State.dropGroup_hide, h_shell, h_str, h_ren, h_coll, h_reqs, h_regs, h_log, foldl_hide, ite_hide, ite_self, implies_true, and_self]; done) | (with_reducible refine (foldl_hide _ (fun s x => ?_) _ _).trans ?_) | split | (simp only [State.logFabric_hide, State.engDryAll_hide, State.modGroup_hide, State.dropGroup_hide, h_shell, h_str, h_ren, h_coll, h_reqs, h_regs, h_log, foldl_hide, ite_hide, ite_self, implies_true, and_self]))

theorem State.slabMode_hide (h_str : StateUnit.str ∈ hid)  (f : Shape) (g : Nat) (draft : Bool) (posn : Nat) (kept : List Nat) (s : State) : (State.slabMode s f g draft posn kept).hide hid = s.hide hid := by
  unfold State.slabMode
  try dsimp only
  repeat' (first | with_reducible rfl | (simp only [State.modStr_hide, h_str, lmod_length, putBack_length, List.length_map, ite_length, foldl_hide, ite_hide, ite_self, implies_true, and_self]; done) | (with_reducible refine (foldl_hide _ (fun s x => ?_) _ _).trans ?_) | split | (simp only [State.modStr_hide, h_str, lmod_length, putBack_length, List.length_map, ite_length, foldl_hide, ite_hide, ite_self, implies_true, and_self]))

theorem State.openTile_hide (h_shell : StateUnit.shell ∈ hid) (h_str : StateUnit.str ∈ hid) (h_ren : StateUnit.ren ∈ hid) (h_coll : StateUnit.coll ∈ hid) (h_reqs : StateUnit.reqs ∈ hid) (h_regs : StateUnit.regs ∈ hid) (h_log : StateUnit.log ∈ hid)  (f : Shape) (h : Header) (s : State) : (State.openTile s f h).1.hide hid = s.hide hid := by
  unfold State.openTile
  try dsimp only
  repeat' (first | with_reducible rfl | (simp only [State.dealGroup_hide, State.groupFull_hide, State.slabMode_hide, State.modShell_hide, h_shell, h_str, h_ren, h_coll, h_reqs, h_regs, h_log, foldl_hide, ite_hide, ite_self, implies_true, and_self]; done) | (with_reducible refine (foldl_hide _ (fun s x => ?_) _ _).trans ?_) | split | (simp only [State.dealGroup_hide, State.groupFull_hide, State.slabMode_hide, State.modShell_hide, h_shell, h_str, h_ren, h_coll, h_reqs, h_regs, h_log, foldl_hide, ite_hide, ite_self, implies_true, and_self]))

theorem State.timeGroup_hide (h_coll : StateUnit.coll ∈ hid)  (f : Shape) (t : Tile) (s : State) : (State.timeGroup s f t).hide hid = s.hide hid := by
  unfold State.timeGroup
  try dsimp only
  repeat' (first | with_reducible rfl | (simp only [State.modSel_hide, State.modColl_hide, h_coll, foldl_hide, ite_hide, ite_self, implies_true, and_self]; done) | (with_reducible refine (foldl_hide _ (fun s x => ?_) _ _).trans ?_) | split | (simp only [State.modSel_hide, State.modColl_hide, h_coll, foldl_hide, ite_hide, ite_self, implies_true, and_self]))

theorem State.landTile_hide (h_shell : StateUnit.shell ∈ hid) (h_coll : StateUnit.coll ∈ hid)  (f : Shape) (t : Tile) (s : State) : (State.landTile s f t).hide hid = s.hide hid := by
  unfold State.landTile
  try dsimp only
  repeat' (first | with_reducible rfl | (simp only [State.modPosition_hide, State.timeGroup_hide, State.modShell_hide, h_shell, h_coll, foldl_hide, ite_hide, ite_self, implies_true, and_self]; done) | (with_reducible refine (foldl_hide _ (fun s x => ?_) _ _).trans ?_) | split | (simp only [State.modPosition_hide, State.timeGroup_hide, State.modShell_hide, h_shell, h_coll, foldl_hide, ite_hide, ite_self, implies_true, and_self]))

theorem State.storeBeat_hide (h_shell : StateUnit.shell ∈ hid) (h_vat : StateUnit.vat ∈ hid) (h_vatMem : StateUnit.vatMem ∈ hid) (h_str : StateUnit.str ∈ hid) (h_coll : StateUnit.coll ∈ hid) (h_regs : StateUnit.regs ∈ hid) (h_log : StateUnit.log ∈ hid)  (f : Shape) (h : Header) (num : Nat) (beat : Nat) (data : List Byte) (s : State) : (State.storeBeat s f h num beat data).hide hid = s.hide hid := by
  unfold State.storeBeat
  try dsimp only
  repeat' (first | with_reducible rfl | (simp only [State.logRange_hide, State.startWork_hide, State.landTile_hide, State.modShell_hide, State.modVat_hide, State.modVat_hide_mem, h_shell, h_vat, h_vatMem, h_str, h_coll, h_regs, h_log, Vat.zeroTag_banks, Vat.writeRow_banks, Vat.writeRows_banks, Vat.zeroBank_banks, lmod_length, putBack_length, List.length_map, ite_length, foldl_hide, ite_hide, ite_self, implies_true, and_self]; done) | (with_reducible refine (foldl_hide _ (fun s x => ?_) _ _).trans ?_) | split | (simp only [State.logRange_hide, State.startWork_hide, State.landTile_hide, State.modShell_hide, State.modVat_hide, State.modVat_hide_mem, h_shell, h_vat, h_vatMem, h_str, h_coll, h_regs, h_log, Vat.zeroTag_banks, Vat.writeRow_banks, Vat.writeRows_banks, Vat.zeroBank_banks, lmod_length, putBack_length, List.length_map, ite_length, foldl_hide, ite_hide, ite_self, implies_true, and_self]))

theorem State.countBeat_hide (h_shell : StateUnit.shell ∈ hid)   (s : State) : (State.countBeat s).hide hid = s.hide hid := by
  unfold State.countBeat
  try dsimp only
  repeat' (first | with_reducible rfl | (simp only [State.modShell_hide, h_shell, foldl_hide, ite_hide, ite_self, implies_true, and_self]; done) | (with_reducible refine (foldl_hide _ (fun s x => ?_) _ _).trans ?_) | split | (simp only [State.modShell_hide, h_shell, foldl_hide, ite_hide, ite_self, implies_true, and_self]))

theorem State.refuseOldest_hide (h_shell : StateUnit.shell ∈ hid)   (s : State) : (State.refuseOldest s).hide hid = s.hide hid := by
  unfold State.refuseOldest
  try dsimp only
  repeat' (first | with_reducible rfl | (simp only [State.modShell_hide, h_shell, foldl_hide, ite_hide, ite_self, implies_true, and_self]; done) | (with_reducible refine (foldl_hide _ (fun s x => ?_) _ _).trans ?_) | split | (simp only [State.modShell_hide, h_shell, foldl_hide, ite_hide, ite_self, implies_true, and_self]))

theorem State.passBeat_hide (h_shell : StateUnit.shell ∈ hid)  (h : Header) (beat : Nat) (s : State) : (State.passBeat s h beat).hide hid = s.hide hid := by
  unfold State.passBeat
  try dsimp only
  repeat' (first | with_reducible rfl | (simp only [State.modPosition_hide, h_shell, foldl_hide, ite_hide, ite_self, implies_true, and_self]; done) | (with_reducible refine (foldl_hide _ (fun s x => ?_) _ _).trans ?_) | split | (simp only [State.modPosition_hide, h_shell, foldl_hide, ite_hide, ite_self, implies_true, and_self]))

theorem State.takeBeat_hide (h_shell : StateUnit.shell ∈ hid) (h_vat : StateUnit.vat ∈ hid) (h_vatMem : StateUnit.vatMem ∈ hid) (h_str : StateUnit.str ∈ hid) (h_ren : StateUnit.ren ∈ hid) (h_coll : StateUnit.coll ∈ hid) (h_reqs : StateUnit.reqs ∈ hid) (h_regs : StateUnit.regs ∈ hid) (h_log : StateUnit.log ∈ hid)  (f : Shape) (x : PendingHeader) (data : List Byte) (s : State) : (State.takeBeat s f x data).hide hid = s.hide hid := by
  unfold State.takeBeat
  try dsimp only
  repeat' (first | with_reducible rfl | (simp only [State.openTile_hide, State.storeBeat_hide, State.countBeat_hide, State.passBeat_hide, State.modShell_hide, h_shell, h_vat, h_vatMem, h_str, h_ren, h_coll, h_reqs, h_regs, h_log, foldl_hide, ite_hide, ite_self, implies_true, and_self]; done) | (with_reducible refine (foldl_hide _ (fun s x => ?_) _ _).trans ?_) | split | (simp only [State.openTile_hide, State.storeBeat_hide, State.countBeat_hide, State.passBeat_hide, State.modShell_hide, h_shell, h_vat, h_vatMem, h_str, h_ren, h_coll, h_reqs, h_regs, h_log, foldl_hide, ite_hide, ite_self, implies_true, and_self]))

theorem State.dataBeat_hide (h_shell : StateUnit.shell ∈ hid) (h_vat : StateUnit.vat ∈ hid) (h_vatMem : StateUnit.vatMem ∈ hid) (h_str : StateUnit.str ∈ hid) (h_ren : StateUnit.ren ∈ hid) (h_coll : StateUnit.coll ∈ hid) (h_reqs : StateUnit.reqs ∈ hid) (h_regs : StateUnit.regs ∈ hid) (h_log : StateUnit.log ∈ hid)  (f : Shape) (data : List Byte) (s : State) : (State.dataBeat s f data).hide hid = s.hide hid := by
  unfold State.dataBeat
  try dsimp only
  repeat' (first | with_reducible rfl | (simp only [State.logFabric_hide, State.lateBeat_hide, State.countBeat_hide, State.refuseOldest_hide, State.takeBeat_hide, State.modShell_hide, h_shell, h_vat, h_vatMem, h_str, h_ren, h_coll, h_reqs, h_regs, h_log, foldl_hide, ite_hide, ite_self, implies_true, and_self]; done) | (with_reducible refine (foldl_hide _ (fun s x => ?_) _ _).trans ?_) | split | (simp only [State.logFabric_hide, State.lateBeat_hide, State.countBeat_hide, State.refuseOldest_hide, State.takeBeat_hide, State.modShell_hide, h_shell, h_vat, h_vatMem, h_str, h_ren, h_coll, h_reqs, h_regs, h_log, foldl_hide, ite_hide, ite_self, implies_true, and_self]))

theorem execDataBeat_hide (h_clk : StateUnit.clk ∈ hid) (h_shell : StateUnit.shell ∈ hid) (h_vat : StateUnit.vat ∈ hid) (h_vatMem : StateUnit.vatMem ∈ hid) (h_str : StateUnit.str ∈ hid) (h_ren : StateUnit.ren ∈ hid) (h_coll : StateUnit.coll ∈ hid) (h_reqs : StateUnit.reqs ∈ hid) (h_regs : StateUnit.regs ∈ hid) (h_log : StateUnit.log ∈ hid) (t : Time) (data : BitVec 8192) {s t' : State} (e : execDataBeat t data s = .next t') : t'.hide hid = s.hide hid := by
  unfold execDataBeat at e
  try dsimp only at e
  rw [Host.Outcome.next.injEq] at e
  subst e
  repeat' (first | with_reducible rfl | (simp only [State.at_hide, State.dataBeat_hide, State.modShell_hide, h_clk, h_shell, h_vat, h_vatMem, h_str, h_ren, h_coll, h_reqs, h_regs, h_log, foldl_hide, ite_hide, ite_self, implies_true, and_self]; done) | (with_reducible refine (foldl_hide _ (fun s x => ?_) _ _).trans ?_) | split | (simp only [State.at_hide, State.dataBeat_hide, State.modShell_hide, h_clk, h_shell, h_vat, h_vatMem, h_str, h_ren, h_coll, h_reqs, h_regs, h_log, foldl_hide, ite_hide, ite_self, implies_true, and_self]))

theorem State.judgePosition_hide (h_shell : StateUnit.shell ∈ hid) (h_str : StateUnit.str ∈ hid) (h_ren : StateUnit.ren ∈ hid) (h_reqs : StateUnit.reqs ∈ hid)  (f : Shape) (g : Nat) (draft : Bool) (posn : Nat) (s : State) : (State.judgePosition s f g draft posn).hide hid = s.hide hid := by
  unfold State.judgePosition
  try dsimp only
  repeat' (first | with_reducible rfl | (simp only [State.modGroup_hide, State.dropGroup_hide, State.dryGroup_hide, h_shell, h_str, h_ren, h_reqs, foldl_hide, ite_hide, ite_self, implies_true, and_self]; done) | (with_reducible refine (foldl_hide _ (fun s x => ?_) _ _).trans ?_) | split | (simp only [State.modGroup_hide, State.dropGroup_hide, State.dryGroup_hide, h_shell, h_str, h_ren, h_reqs, foldl_hide, ite_hide, ite_self, implies_true, and_self]))

theorem State.judgeGroup_hide (h_shell : StateUnit.shell ∈ hid) (h_str : StateUnit.str ∈ hid) (h_ren : StateUnit.ren ∈ hid) (h_reqs : StateUnit.reqs ∈ hid)  (f : Shape) (g : Nat) (s : State) : (State.judgeGroup s f g).hide hid = s.hide hid := by
  unfold State.judgeGroup
  try dsimp only
  repeat' (first | with_reducible rfl | (simp only [State.judgePosition_hide, h_shell, h_str, h_ren, h_reqs, foldl_hide, ite_hide, ite_self, implies_true, and_self]; done) | (with_reducible refine (foldl_hide _ (fun s x => ?_) _ _).trans ?_) | split | (simp only [State.judgePosition_hide, h_shell, h_str, h_ren, h_reqs, foldl_hide, ite_hide, ite_self, implies_true, and_self]))

theorem State.rowlessParts_hide (h_coll : StateUnit.coll ∈ hid)  (f : Shape) (s : State) : (State.rowlessParts s f).hide hid = s.hide hid := by
  unfold State.rowlessParts
  try dsimp only
  repeat' (first | with_reducible rfl | (simp only [State.modSel_hide, h_coll, foldl_hide, ite_hide, ite_self, implies_true, and_self]; done) | (with_reducible refine (foldl_hide _ (fun s x => ?_) _ _).trans ?_) | split | (simp only [State.modSel_hide, h_coll, foldl_hide, ite_hide, ite_self, implies_true, and_self]))

theorem execIngestDeadline_hide (h_clk : StateUnit.clk ∈ hid) (h_shell : StateUnit.shell ∈ hid) (h_str : StateUnit.str ∈ hid) (h_ren : StateUnit.ren ∈ hid) (h_coll : StateUnit.coll ∈ hid) (h_reqs : StateUnit.reqs ∈ hid) (t : Time) {s t' : State} (e : execIngestDeadline t s = .next t') : t'.hide hid = s.hide hid := by
  unfold execIngestDeadline at e
  try dsimp only at e
  rw [Host.Outcome.next.injEq] at e
  subst e
  repeat' (first | with_reducible rfl | (simp only [State.at_hide, State.judgeGroup_hide, State.rowlessParts_hide, State.modShell_hide, h_clk, h_shell, h_str, h_ren, h_coll, h_reqs, foldl_hide, ite_hide, ite_self, implies_true, and_self]; done) | (with_reducible refine (foldl_hide _ (fun s x => ?_) _ _).trans ?_) | split | (simp only [State.at_hide, State.judgeGroup_hide, State.rowlessParts_hide, State.modShell_hide, h_clk, h_shell, h_str, h_ren, h_coll, h_reqs, foldl_hide, ite_hide, ite_self, implies_true, and_self]))

/-! ### Machine/VatOps.lean -/

theorem State.markBuffer_hide (h_vat : StateUnit.vat ∈ hid)  (n : Nat) (off : Nat) (s : State) : (State.markBuffer s n off).hide hid = s.hide hid := by
  unfold State.markBuffer
  try dsimp only
  repeat' (first | with_reducible rfl | (simp only [State.modVat_hide, h_vat, Vat.zeroTag_banks, Vat.writeRow_banks, Vat.writeRows_banks, Vat.zeroBank_banks, lmod_length, putBack_length, List.length_map, ite_length, foldl_hide, ite_hide, ite_self, implies_true, and_self]; done) | (with_reducible refine (foldl_hide _ (fun s x => ?_) _ _).trans ?_) | split | (simp only [State.modVat_hide, h_vat, Vat.zeroTag_banks, Vat.writeRow_banks, Vat.writeRows_banks, Vat.zeroBank_banks, lmod_length, putBack_length, List.length_map, ite_length, foldl_hide, ite_hide, ite_self, implies_true, and_self]))

theorem State.rejectInbound_hide (h_vat : StateUnit.vat ∈ hid) (h_regs : StateUnit.regs ∈ hid) (h_log : StateUnit.log ∈ hid)  (a : BitVec 64) (resp : Nat) (s : State) : (State.rejectInbound s a resp).hide hid = s.hide hid := by
  unfold State.rejectInbound
  try dsimp only
  repeat' (first | with_reducible rfl | (simp only [State.logErr_hide, State.modVat_hide, h_vat, h_regs, h_log, Vat.zeroTag_banks, Vat.writeRow_banks, Vat.writeRows_banks, Vat.zeroBank_banks, lmod_length, putBack_length, List.length_map, ite_length, foldl_hide, ite_hide, ite_self, implies_true, and_self]; done) | (with_reducible refine (foldl_hide _ (fun s x => ?_) _ _).trans ?_) | split | (simp only [State.logErr_hide, State.modVat_hide, h_vat, h_regs, h_log, Vat.zeroTag_banks, Vat.writeRow_banks, Vat.writeRows_banks, Vat.zeroBank_banks, lmod_length, putBack_length, List.length_map, ite_length, foldl_hide, ite_hide, ite_self, implies_true, and_self]))

theorem State.inbound_hide (h_vat : StateUnit.vat ∈ hid) (h_vatMem : StateUnit.vatMem ∈ hid) (h_regs : StateUnit.regs ∈ hid) (h_log : StateUnit.log ∈ hid) (h_ports : StateUnit.ports ∈ hid)  (a : BitVec 64) (data : BitVec 512) (tagBad : Bool) (s : State) : (State.inbound s a data tagBad).hide hid = s.hide hid := by
  unfold State.inbound
  try dsimp only
  repeat' (first | with_reducible rfl | (simp only [State.markBuffer_hide, State.rejectInbound_hide, State.modPorts_hide, State.modVat_hide, State.modVat_hide_mem, h_vat, h_vatMem, h_regs, h_log, h_ports, Vat.zeroTag_banks, Vat.writeRow_banks, Vat.writeRows_banks, Vat.zeroBank_banks, lmod_length, putBack_length, List.length_map, ite_length, foldl_hide, ite_hide, ite_self, implies_true, and_self]; done) | (with_reducible refine (foldl_hide _ (fun s x => ?_) _ _).trans ?_) | split | (simp only [State.markBuffer_hide, State.rejectInbound_hide, State.modPorts_hide, State.modVat_hide, State.modVat_hide_mem, h_vat, h_vatMem, h_regs, h_log, h_ports, Vat.zeroTag_banks, Vat.writeRow_banks, Vat.writeRows_banks, Vat.zeroBank_banks, lmod_length, putBack_length, List.length_map, ite_length, foldl_hide, ite_hide, ite_self, implies_true, and_self]))

theorem execInboundWrite_hide (h_clk : StateUnit.clk ∈ hid) (h_vat : StateUnit.vat ∈ hid) (h_vatMem : StateUnit.vatMem ∈ hid) (h_regs : StateUnit.regs ∈ hid) (h_log : StateUnit.log ∈ hid) (h_ports : StateUnit.ports ∈ hid) (t : Time) (addr : BitVec 64) (data : BitVec 512) (tagBad : Bool) {s t' : State} (e : execInboundWrite t addr data tagBad s = .next t') : t'.hide hid = s.hide hid := by
  unfold execInboundWrite at e
  try dsimp only at e
  rw [Host.Outcome.next.injEq] at e
  subst e
  repeat' (first | with_reducible rfl | (simp only [State.at_hide, State.inbound_hide, h_clk, h_vat, h_vatMem, h_regs, h_log, h_ports, foldl_hide, ite_hide, ite_self, implies_true, and_self]; done) | (with_reducible refine (foldl_hide _ (fun s x => ?_) _ _).trans ?_) | split | (simp only [State.at_hide, State.inbound_hide, h_clk, h_vat, h_vatMem, h_regs, h_log, h_ports, foldl_hide, ite_hide, ite_self, implies_true, and_self]))

theorem State.rowRead_hide (h_vat : StateUnit.vat ∈ hid) (h_vatMem : StateUnit.vatMem ∈ hid) (h_regs : StateUnit.regs ∈ hid) (h_log : StateUnit.log ∈ hid)  (pra : Nat) (e : Ecc) (s : State) : (State.rowRead s pra e).hide hid = s.hide hid := by
  unfold State.rowRead
  try dsimp only
  repeat' (first | with_reducible rfl | (simp only [State.rowCorrected_hide, State.rowPoisoned_hide, h_vat, h_vatMem, h_regs, h_log, foldl_hide, ite_hide, ite_self, implies_true, and_self]; done) | (with_reducible refine (foldl_hide _ (fun s x => ?_) _ _).trans ?_) | split | (simp only [State.rowCorrected_hide, State.rowPoisoned_hide, h_vat, h_vatMem, h_regs, h_log, foldl_hide, ite_hide, ite_self, implies_true, and_self]))

theorem State.scrubBank_hide (h_vat : StateUnit.vat ∈ hid) (h_vatMem : StateUnit.vatMem ∈ hid) (h_regs : StateUnit.regs ∈ hid) (h_log : StateUnit.log ∈ hid)  (b : Nat) (e : Ecc) (s : State) : (State.scrubBank s b e).hide hid = s.hide hid := by
  unfold State.scrubBank
  try dsimp only
  repeat' (first | with_reducible rfl | (simp only [State.rowRead_hide, State.modVat_hide, h_vat, h_vatMem, h_regs, h_log, Vat.zeroTag_banks, Vat.writeRow_banks, Vat.writeRows_banks, Vat.zeroBank_banks, lmod_length, putBack_length, List.length_map, ite_length, foldl_hide, ite_hide, ite_self, implies_true, and_self]; done) | (with_reducible refine (foldl_hide _ (fun s x => ?_) _ _).trans ?_) | split | (simp only [State.rowRead_hide, State.modVat_hide, h_vat, h_vatMem, h_regs, h_log, Vat.zeroTag_banks, Vat.writeRow_banks, Vat.writeRows_banks, Vat.zeroBank_banks, lmod_length, putBack_length, List.length_map, ite_length, foldl_hide, ite_hide, ite_self, implies_true, and_self]))

theorem execScrubVisit_hide (h_clk : StateUnit.clk ∈ hid) (h_vat : StateUnit.vat ∈ hid) (h_vatMem : StateUnit.vatMem ∈ hid) (h_regs : StateUnit.regs ∈ hid) (h_log : StateUnit.log ∈ hid) (t : Time) (bank : BitVec 6) (ecc : Ecc) {s t' : State} (e : execScrubVisit t bank ecc s = .next t') : t'.hide hid = s.hide hid := by
  unfold execScrubVisit at e
  try dsimp only at e
  rw [Host.Outcome.next.injEq] at e
  subst e
  repeat' (first | with_reducible rfl | (simp only [State.at_hide, State.scrubBank_hide, h_clk, h_vat, h_vatMem, h_regs, h_log, foldl_hide, ite_hide, ite_self, implies_true, and_self]; done) | (with_reducible refine (foldl_hide _ (fun s x => ?_) _ _).trans ?_) | split | (simp only [State.at_hide, State.scrubBank_hide, h_clk, h_vat, h_vatMem, h_regs, h_log, foldl_hide, ite_hide, ite_self, implies_true, and_self]))

theorem execWriteBack_hide (h_clk : StateUnit.clk ∈ hid) (h_vat : StateUnit.vat ∈ hid) (h_vatMem : StateUnit.vatMem ∈ hid) (t : Time) (pra : BitVec 17) {s t' : State} (e : execWriteBack t pra s = .next t') : t'.hide hid = s.hide hid := by
  unfold execWriteBack at e
  try dsimp only at e
  rw [Host.Outcome.next.injEq] at e
  subst e
  repeat' (first | with_reducible rfl | (simp only [State.at_hide, State.modVat_hide, State.modVat_hide_mem, h_clk, h_vat, h_vatMem, Vat.zeroTag_banks, Vat.writeRow_banks, Vat.writeRows_banks, Vat.zeroBank_banks, lmod_length, putBack_length, List.length_map, ite_length, foldl_hide, ite_hide, ite_self, implies_true, and_self]; done) | (with_reducible refine (foldl_hide _ (fun s x => ?_) _ _).trans ?_) | split | (simp only [State.at_hide, State.modVat_hide, State.modVat_hide_mem, h_clk, h_vat, h_vatMem, Vat.zeroTag_banks, Vat.writeRow_banks, Vat.writeRows_banks, Vat.zeroBank_banks, lmod_length, putBack_length, List.length_map, ite_length, foldl_hide, ite_hide, ite_self, implies_true, and_self]))

theorem execWriteBackDrop_hide (h_clk : StateUnit.clk ∈ hid) (h_vat : StateUnit.vat ∈ hid) (t : Time) (pra : BitVec 17) {s t' : State} (e : execWriteBackDrop t pra s = .next t') : t'.hide hid = s.hide hid := by
  unfold execWriteBackDrop at e
  try dsimp only at e
  rw [Host.Outcome.next.injEq] at e
  subst e
  repeat' (first | with_reducible rfl | (simp only [State.at_hide, State.modVat_hide, h_clk, h_vat, Vat.zeroTag_banks, Vat.writeRow_banks, Vat.writeRows_banks, Vat.zeroBank_banks, lmod_length, putBack_length, List.length_map, ite_length, foldl_hide, ite_hide, ite_self, implies_true, and_self]; done) | (with_reducible refine (foldl_hide _ (fun s x => ?_) _ _).trans ?_) | split | (simp only [State.at_hide, State.modVat_hide, h_clk, h_vat, Vat.zeroTag_banks, Vat.writeRow_banks, Vat.writeRows_banks, Vat.zeroBank_banks, lmod_length, putBack_length, List.length_map, ite_length, foldl_hide, ite_hide, ite_self, implies_true, and_self]))

end Sys2Proof.Machine
end

