-- ==== Sys2Proof/Laws/Answer.lean ====
section
/-! SUPPORT. What answering a command does where its context's ring takes the response at once. -/

set_option Elab.async false

namespace Sys2Proof.Machine

/-- An attached context is one of the list. -/
theorem State.ctx_lt {s : State} {c : Nat} (h : (s.ctx c).attached = true) : c < s.mbox.ctxs.length := by
  by_contra hc
  have : s.ctx c = {} := by simp [State.ctx, List.getD, List.getElem?_eq_none (Nat.le_of_not_lt hc)]
  rw [this] at h
  exact absurd h (by decide)

theorem State.modCtx_ctx_self {s : State} {c : Nat} (f : Context → Context) (h : c < s.mbox.ctxs.length) : (s.modCtx c f).ctx c = f (s.ctx c) := by
  rw [State.modCtx_ctx, if_pos ⟨rfl, h⟩]

@[simp] theorem State.bell_ctx (s : State) (c d : Nat) (h : Option Handle) : (s.bell c h).ctx d = s.ctx d := by
  unfold State.bell State.ringDue State.carried
  dsimp only; (repeat' split) <;> rfl

@[simp] theorem State.bell_host (s : State) (c : Nat) (h : Option Handle) : (s.bell c h).ports.host = s.ports.host := by
  unfold State.bell State.ringDue State.carried
  dsimp only; (repeat' split) <;> rfl

@[simp] theorem State.bell_mbox (s : State) (c : Nat) (h : Option Handle) : (s.bell c h).mbox = s.mbox := by
  unfold State.bell State.ringDue State.carried
  dsimp only; (repeat' split) <;> rfl

theorem leBytes_length (n x : Nat) : (leBytes n x).length = n := by
  induction n generalizing x with
  | zero => rfl
  | succ n ih => simp [leBytes, ih]

theorem slice_length (bs : List Byte) (off len : Nat) : (slice bs off len).length = len := by
  unfold slice
  simp only [List.length_append, List.length_take, List.length_drop, List.length_replicate]
  omega

theorem ringBytes_length (c q log2r : Nat) (e : RingEntry) : (ringBytes c q log2r e).length = 256 := slice_length _ _ _

/-- A ring entry is written at P, which advances (R353). -/
theorem State.ringWrite_host (s : State) (c : Nat) (e : RingEntry) :
    (s.ringWrite c e).ports.host = s.ports.host ++ [((s.ctx c).slotAddr, ringBytes c (s.ctx c).p (s.ctx c).log2r e)] := by
  have h : (ringBytes c (s.ctx c).p (s.ctx c).log2r e).isEmpty = false := by
    cases hb : ringBytes c (s.ctx c).p (s.ctx c).log2r e with
    | nil => exact absurd (ringBytes_length c (s.ctx c).p (s.ctx c).log2r e) (by rw [hb]; decide)
    | cons x r => rfl
  have hw : ∀ a, (s.hostWrite a (ringBytes c (s.ctx c).p (s.ctx c).log2r e)).ports.host
      = s.ports.host ++ [(a, ringBytes c (s.ctx c).p (s.ctx c).log2r e)] := by
    intro a
    simp only [State.hostWrite, h]
    rfl
  simp only [State.ringWrite]
  split
  · rw [State.bell_host, State.modCtx_ports, hw]; rfl
  · rw [State.modCtx_ports, hw]; rfl

theorem State.hostWrite_mbox (s : State) (a : BitVec 64) (bs : List Byte) : (s.hostWrite a bs).mbox = s.mbox := by
  unfold State.hostWrite; split <;> rfl

theorem State.ringWrite_ctxs (s : State) (c : Nat) (e : RingEntry) :
    (s.ringWrite c e).mbox = { s.mbox with ctxs := lmod c (fun x => { x with p := (x.p + 1) % 2 ^ 32 }) s.mbox.ctxs } := by
  simp only [State.ringWrite]
  split
  · rw [State.bell_mbox, State.modCtx_mbox, State.hostWrite_mbox]
  · rw [State.modCtx_mbox, State.hostWrite_mbox]

theorem State.ringWrite_ctx {s : State} {c : Nat} (h : c < s.mbox.ctxs.length) (e : RingEntry) :
    (s.ringWrite c e).ctx c = { s.ctx c with p := ((s.ctx c).p + 1) % 2 ^ 32 } := by
  have : (s.ringWrite c e).ctx c = (lmod c (fun x => { x with p := (x.p + 1) % 2 ^ 32 }) s.mbox.ctxs).getD c {} := by
    unfold State.ctx; rw [State.ringWrite_ctxs]
  rw [this, lmod_getD, if_pos ⟨rfl, h⟩]; rfl

theorem State.tryDetaches_none {s : State} {c : Nat} (h : s.mbox.detaches.all (fun d => d.ctx.toNat != c) = true) : s.tryDetaches c = s := by
  have : s.mbox.detaches.filter (fun d => d.ctx.toNat == c) = [] := by
    rw [List.filter_eq_nil_iff]
    intro d hd
    have := List.all_eq_true.mp h d hd
    simpa using this
  unfold State.tryDetaches
  rw [this]; rfl

/-- A response is written at once in a context whose ring is free. -/
theorem State.giveResponse_free {s : State} {c : Nat} (h : s.ringFree c) (e : RingEntry) : s.giveResponse c e = s.ringWrite c e := by
  obtain ⟨h1, h2, h3, -⟩ := h
  unfold State.giveResponse
  simp only [h1, h2, h3, Bool.not_true, Bool.false_eq_true, if_false, List.isEmpty_nil, decide_true, Bool.and_self, if_true]

/-- Ending a command leaves the ring free. -/
theorem State.ringFree_modCmds {s : State} {c : Nat} (h : s.ringFree c) (f : List Taken → List Taken) :
    (s.modCtx c (fun x => { x with cmds := f x.cmds })).ringFree c := by
  have hl := State.ctx_lt h.1
  obtain ⟨h1, h2, h3, h4⟩ := h
  unfold State.ringFree
  rw [State.modCtx_ctx_self _ hl]
  exact ⟨h1, h2, h3, h4⟩

/-- ANSWERING a command in a context whose ring is free writes its response and ends it. -/
theorem State.answer_responds {s : State} {b : Sender} (h : s.ringFree b.ctx.toNat) (op status : Nat) (body : List Byte) :
    s.responds (s.answer b op status body) b op status body [] := by
  have hl := State.ctx_lt h.1
  have hf := State.ringFree_modCmds h (dropFirst (fun k => k.isFor b.tag op))
  have hx := State.modCtx_ctx_self (fun x => { x with cmds := dropFirst (fun k => k.isFor b.tag op) x.cmds }) hl
  have hl' : b.ctx.toNat < (s.modCtx b.ctx.toNat (fun x => { x with cmds := dropFirst (fun k => k.isFor b.tag op) x.cmds })).mbox.ctxs.length := by
    rw [State.modCtx_mbox]; simpa [lmod_length] using hl
  unfold State.answer State.answerFirst
  dsimp only
  rw [State.giveResponse_free hf, State.tryDetaches_none (by rw [State.ringWrite_ctxs]; exact h.2.2.2)]
  refine ⟨?_, ?_⟩
  · rw [State.ringWrite_host, hx, State.modCtx_ports, List.append_nil]
    rfl
  · rw [State.ringWrite_ctx hl', hx]

/-- Serving a command that firmware serves runs its meaning. -/
theorem State.serve_serves {s : State} {b : Sender} {op : Nat} (h : s.serves b op) (f : State → State) : s.serve b op f = f s := by
  obtain ⟨h1, h2, h3, h4⟩ := h
  have h5 : s.duty (opRole op) = true := by simp only [State.duty, h1, h2, h3, beq_self_eq_true, Bool.and_self]
  have h6 : s.skimServes = false := by simp [State.skimServes, State.skimMode, h2]
  unfold State.serve
  simp only [h4, h5, h6, Bool.not_true, Bool.false_and, Bool.false_eq_true, if_false, if_true]

/-- In skim mode the commands of R348 run. -/
theorem State.serve_skim {s : State} {b : Sender} {op : Nat} (h : s.skimAnswers b) (ho : opSkim op = true) (f : State → State) : s.serve b op f = f s := by
  obtain ⟨h1, h0, h2⟩ := h
  have h6 : s.skimServes = true := by simp [State.skimServes, State.skimMode, h1, h0]
  unfold State.serve
  simp only [h2, h6, ho, Bool.not_true, Bool.false_and, Bool.false_eq_true, if_false, if_true]

/-- In skim mode every other opcode is refused. -/
theorem State.serve_skim_refused {s : State} {b : Sender} {op : Nat} (h : s.skimAnswers b) (ho : opSkim op = false) (f : State → State) :
    s.serve b op f = s.refuse b op stSkim := by
  obtain ⟨h1, h0, h2⟩ := h
  have h6 : s.skimServes = true := by simp [State.skimServes, State.skimMode, h1, h0]
  unfold State.serve
  simp only [h2, h6, ho, Bool.not_true, Bool.false_and, Bool.false_eq_true, if_false, if_true]

theorem State.serves_at {s : State} {b : Sender} {op : Nat} (t : Time) : (s.at t).serves b op ↔ s.serves b op := Iff.rfl
theorem State.ringFree_at {s : State} {c : Nat} (t : Time) : (s.at t).ringFree c ↔ s.ringFree c := Iff.rfl

/-! ### What an answer leaves as it was: all but mailboxes, doorbells and ports -/

@[simp] theorem State.answer_clk (s : State) (b : Sender) (op status : Nat) (body : List Byte) : (s.answer b op status body).clk = s.clk := by
  have h := congrArg State.clk (State.answer_hide (hid := [.skim, .mbox, .ports]) (by decide) (by decide) (by decide) b op status body s)
  exact h
@[simp] theorem State.answer_shell (s : State) (b : Sender) (op status : Nat) (body : List Byte) : (s.answer b op status body).shell = s.shell := by
  have h := congrArg State.shell (State.answer_hide (hid := [.skim, .mbox, .ports]) (by decide) (by decide) (by decide) b op status body s)
  exact h
@[simp] theorem State.answer_vat (s : State) (b : Sender) (op status : Nat) (body : List Byte) : (s.answer b op status body).vat = s.vat := by
  have h := congrArg State.vat (State.answer_hide (hid := [.skim, .mbox, .ports]) (by decide) (by decide) (by decide) b op status body s)
  exact h
@[simp] theorem State.answer_str (s : State) (b : Sender) (op status : Nat) (body : List Byte) : (s.answer b op status body).str = s.str := by
  have h := congrArg State.str (State.answer_hide (hid := [.skim, .mbox, .ports]) (by decide) (by decide) (by decide) b op status body s)
  exact h
@[simp] theorem State.answer_drw (s : State) (b : Sender) (op status : Nat) (body : List Byte) : (s.answer b op status body).drw = s.drw := by
  have h := congrArg State.drw (State.answer_hide (hid := [.skim, .mbox, .ports]) (by decide) (by decide) (by decide) b op status body s)
  exact h
@[simp] theorem State.answer_ren (s : State) (b : Sender) (op status : Nat) (body : List Byte) : (s.answer b op status body).ren = s.ren := by
  have h := congrArg State.ren (State.answer_hide (hid := [.skim, .mbox, .ports]) (by decide) (by decide) (by decide) b op status body s)
  exact h
@[simp] theorem State.answer_churn (s : State) (b : Sender) (op status : Nat) (body : List Byte) : (s.answer b op status body).churn = s.churn := by
  have h := congrArg State.churn (State.answer_hide (hid := [.skim, .mbox, .ports]) (by decide) (by decide) (by decide) b op status body s)
  exact h
@[simp] theorem State.answer_coll (s : State) (b : Sender) (op status : Nat) (body : List Byte) : (s.answer b op status body).coll = s.coll := by
  have h := congrArg State.coll (State.answer_hide (hid := [.skim, .mbox, .ports]) (by decide) (by decide) (by decide) b op status body s)
  exact h
@[simp] theorem State.answer_reqs (s : State) (b : Sender) (op status : Nat) (body : List Byte) : (s.answer b op status body).reqs = s.reqs := by
  have h := congrArg State.reqs (State.answer_hide (hid := [.skim, .mbox, .ports]) (by decide) (by decide) (by decide) b op status body s)
  exact h
@[simp] theorem State.answer_rat (s : State) (b : Sender) (op status : Nat) (body : List Byte) : (s.answer b op status body).rat = s.rat := by
  have h := congrArg State.rat (State.answer_hide (hid := [.skim, .mbox, .ports]) (by decide) (by decide) (by decide) b op status body s)
  exact h
@[simp] theorem State.answer_stw (s : State) (b : Sender) (op status : Nat) (body : List Byte) : (s.answer b op status body).stw = s.stw := by
  have h := congrArg State.stw (State.answer_hide (hid := [.skim, .mbox, .ports]) (by decide) (by decide) (by decide) b op status body s)
  exact h
@[simp] theorem State.answer_fuses (s : State) (b : Sender) (op status : Nat) (body : List Byte) : (s.answer b op status body).fuses = s.fuses := by
  have h := congrArg State.fuses (State.answer_hide (hid := [.skim, .mbox, .ports]) (by decide) (by decide) (by decide) b op status body s)
  exact h
@[simp] theorem State.answer_boot (s : State) (b : Sender) (op status : Nat) (body : List Byte) : (s.answer b op status body).boot = s.boot := by
  have h := congrArg State.boot (State.answer_hide (hid := [.skim, .mbox, .ports]) (by decide) (by decide) (by decide) b op status body s)
  exact h
@[simp] theorem State.answer_regs (s : State) (b : Sender) (op status : Nat) (body : List Byte) : (s.answer b op status body).regs = s.regs := by
  have h := congrArg State.regs (State.answer_hide (hid := [.skim, .mbox, .ports]) (by decide) (by decide) (by decide) b op status body s)
  exact h
@[simp] theorem State.answer_log (s : State) (b : Sender) (op status : Nat) (body : List Byte) : (s.answer b op status body).log = s.log := by
  have h := congrArg State.log (State.answer_hide (hid := [.skim, .mbox, .ports]) (by decide) (by decide) (by decide) b op status body s)
  exact h
@[simp] theorem State.answer_wrap (s : State) (b : Sender) (op status : Nat) (body : List Byte) : (s.answer b op status body).wrap = s.wrap := by
  have h := congrArg State.wrap (State.answer_hide (hid := [.skim, .mbox, .ports]) (by decide) (by decide) (by decide) b op status body s)
  exact h
@[simp] theorem State.answer_free (s : State) (b : Sender) (op status : Nat) (body : List Byte) : (s.answer b op status body).free = s.free := by
  have h := congrArg State.free (State.answer_hide (hid := [.skim, .mbox, .ports]) (by decide) (by decide) (by decide) b op status body s)
  exact h
@[simp] theorem State.answer_pending (s : State) (b : Sender) (op status : Nat) (body : List Byte) : (s.answer b op status body).pending = s.pending := by
  have h := congrArg State.pending (State.answer_hide (hid := [.skim, .mbox, .ports]) (by decide) (by decide) (by decide) b op status body s)
  exact h

/-! ### An answer leaves the SET_POWERs that wait alone -/

theorem State.hostWrite_power (s : State) (a : BitVec 64) (bs : List Byte) : (s.hostWrite a bs).mbox.power = s.mbox.power := by
  unfold State.hostWrite; split <;> rfl

theorem State.bell_power (s : State) (c : Nat) (h : Option Handle) : (s.bell c h).mbox.power = s.mbox.power := by rw [State.bell_mbox]

theorem State.askRing_power (s : State) (c : Nat) : (s.askRing c).mbox.power = s.mbox.power := by
  unfold State.askRing; dsimp only; split <;> rfl

theorem State.ringWrite_power (s : State) (c : Nat) (e : RingEntry) : (s.ringWrite c e).mbox.power = s.mbox.power := by
  unfold State.ringWrite
  dsimp only
  split
  · rw [State.bell_power]; exact State.hostWrite_power _ _ _
  · exact State.hostWrite_power _ _ _

theorem State.tryDetach_power (s : State) (b : Sender) : (s.tryDetach b).mbox.power = s.mbox.power := by
  unfold State.tryDetach
  dsimp only
  split
  · rfl
  split
  · exact State.ringWrite_power _ _ _
  split
  · exact State.askRing_power _ _
  · rfl

theorem State.tryDetaches_power (s : State) (c : Nat) : (s.tryDetaches c).mbox.power = s.mbox.power := by
  unfold State.tryDetaches
  generalize s.mbox.detaches.filter (fun d => d.ctx.toNat == c) = l
  induction l generalizing s with
  | nil => rfl
  | cons b r ih => rw [List.foldl_cons, ih, State.tryDetach_power]

theorem State.answer_power (s : State) (b : Sender) (op status : Nat) (body : List Byte) : (s.answer b op status body).mbox.power = s.mbox.power := by
  unfold State.answer State.answerFirst
  dsimp only
  rw [State.tryDetaches_power]
  unfold State.giveResponse
  dsimp only
  split
  · rfl
  split
  · exact State.ringWrite_power _ _ _
  · exact State.askRing_power _ _

end Sys2Proof.Machine
end

