-- ==== Sys2Proof/Laws/FramesSelect.lean ====
section
/-! SUPPORT. What each operation and each command leaves in sight (`State.hide`), one lemma each: selections, draws and the root of a gather. -/

set_option Elab.async false

namespace Sys2Proof.Machine

variable {hid : List StateUnit}

set_option linter.unusedSimpArgs false
set_option linter.unusedVariables false
set_option linter.unusedTactic false
set_option linter.unreachableTactic false

/-! ### Machine/Messages.lean -/

theorem State.post_hide (h_coll : StateUnit.coll ∈ hid)  (cls : Nat) (addr : Nat × Nat) (base : Nat) (h : MsgHeader) (body : List Nat) (s : State) : (State.post s cls addr base h body).hide hid = s.hide hid := by
  unfold State.post
  try dsimp only
  repeat' (first | with_reducible rfl | (simp only [State.modColl_hide, h_coll, foldl_hide, ite_hide, ite_self, implies_true, and_self]; done) | (with_reducible refine (foldl_hide _ (fun s x => ?_) _ _).trans ?_) | split | (simp only [State.modColl_hide, h_coll, foldl_hide, ite_hide, ite_self, implies_true, and_self]))

theorem State.sendPartial_hide (h_coll : StateUnit.coll ∈ hid)  (c : CollConfig) (f : Shape) (step : Nat) (slot : Nat) (posn : Nat) (p : Part) (s : State) : (State.sendPartial s c f step slot posn p).hide hid = s.hide hid := by
  unfold State.sendPartial
  try dsimp only
  repeat' (first | with_reducible rfl | (simp only [State.modSel_hide, State.post_hide, h_coll, foldl_hide, ite_hide, ite_self, implies_true, and_self]; done) | (with_reducible refine (foldl_hide _ (fun s x => ?_) _ _).trans ?_) | split | (simp only [State.modSel_hide, State.post_hide, h_coll, foldl_hide, ite_hide, ite_self, implies_true, and_self]))

theorem State.spreadOn_hide (h_coll : StateUnit.coll ∈ hid)  (c : CollConfig) (f : Shape) (h : MsgHeader) (posn : Nat) (body : List Nat) (s : State) : (State.spreadOn s c f h posn body).hide hid = s.hide hid := by
  unfold State.spreadOn
  try dsimp only
  repeat' (first | with_reducible rfl | (simp only [State.post_hide, h_coll, foldl_hide, ite_hide, ite_self, implies_true, and_self]; done) | (with_reducible refine (foldl_hide _ (fun s x => ?_) _ _).trans ?_) | split | (simp only [State.post_hide, h_coll, foldl_hide, ite_hide, ite_self, implies_true, and_self]))

theorem State.ownPart_hide (h_coll : StateUnit.coll ∈ hid)  (f : Shape) (step : Nat) (slot : Nat) (posn : Nat) (k : Nat) (p : Part) (s : State) : (State.ownPart s f step slot posn k p).hide hid = s.hide hid := by
  unfold State.ownPart
  try dsimp only
  repeat' (first | with_reducible rfl | (simp only [State.modSel_hide, State.sendPartial_hide, h_coll, foldl_hide, ite_hide, ite_self, implies_true, and_self]; done) | (with_reducible refine (foldl_hide _ (fun s x => ?_) _ _).trans ?_) | split | (simp only [State.modSel_hide, State.sendPartial_hide, h_coll, foldl_hide, ite_hide, ite_self, implies_true, and_self]))

/-! ### Machine/Root.lean -/

theorem State.askPass_hide (h_str : StateUnit.str ∈ hid)  (r : Row) (q : PassReq) (s : State) : (State.askPass s r q).hide hid = s.hide hid := by
  unfold State.askPass
  try dsimp only
  repeat' (first | with_reducible rfl | (simp only [State.askWork_hide, h_str, foldl_hide, ite_hide, ite_self, implies_true, and_self]; done) | (with_reducible refine (foldl_hide _ (fun s x => ?_) _ _).trans ?_) | split | (simp only [State.askWork_hide, h_str, foldl_hide, ite_hide, ite_self, implies_true, and_self]))

theorem State.beginWalk_hide (h_str : StateUnit.str ∈ hid) (h_coll : StateUnit.coll ∈ hid)  (x : Sel) (w : WalkMsg) (round : Nat) (s : State) : (State.beginWalk s x w round).hide hid = s.hide hid := by
  unfold State.beginWalk
  try dsimp only
  repeat' (first | with_reducible rfl | (simp only [State.modSel_hide, State.askPass_hide, h_str, h_coll, foldl_hide, ite_hide, ite_self, implies_true, and_self]; done) | (with_reducible refine (foldl_hide _ (fun s x => ?_) _ _).trans ?_) | split | (simp only [State.modSel_hide, State.askPass_hide, h_str, h_coll, foldl_hide, ite_hide, ite_self, implies_true, and_self]))

theorem State.takeMerged_hide (h_shell : StateUnit.shell ∈ hid) (h_coll : StateUnit.coll ∈ hid) (h_reqs : StateUnit.reqs ∈ hid) (h_regs : StateUnit.regs ∈ hid) (h_log : StateUnit.log ∈ hid)  (step : Nat) (slot : Nat) (posn : Nat) (block : Bool) (p : Part) (s : State) : (State.takeMerged s step slot posn block p).hide hid = s.hide hid := by
  unfold State.takeMerged
  try dsimp only
  repeat' (first | with_reducible rfl | (simp only [State.engDry_hide, State.modSel_hide, h_shell, h_coll, h_reqs, h_regs, h_log, foldl_hide, ite_hide, ite_self, implies_true, and_self]; done) | (with_reducible refine (foldl_hide _ (fun s x => ?_) _ _).trans ?_) | split | (simp only [State.engDry_hide, State.modSel_hide, h_shell, h_coll, h_reqs, h_regs, h_log, foldl_hide, ite_hide, ite_self, implies_true, and_self]))

theorem State.giveMerged_hide (h_shell : StateUnit.shell ∈ hid) (h_coll : StateUnit.coll ∈ hid) (h_reqs : StateUnit.reqs ∈ hid) (h_regs : StateUnit.regs ∈ hid) (h_log : StateUnit.log ∈ hid)  (c : CollConfig) (f : Shape) (step : Nat) (slot : Nat) (posn : Nat) (round : Nat) (block : Bool) (p : Part) (s : State) : (State.giveMerged s c f step slot posn round block p).hide hid = s.hide hid := by
  unfold State.giveMerged
  try dsimp only
  repeat' (first | with_reducible rfl | (simp only [State.post_hide, State.takeMerged_hide, h_shell, h_coll, h_reqs, h_regs, h_log, foldl_hide, ite_hide, ite_self, implies_true, and_self]; done) | (with_reducible refine (foldl_hide _ (fun s x => ?_) _ _).trans ?_) | split | (simp only [State.post_hide, State.takeMerged_hide, h_shell, h_coll, h_reqs, h_regs, h_log, foldl_hide, ite_hide, ite_self, implies_true, and_self]))

theorem State.dryRound_hide (h_shell : StateUnit.shell ∈ hid) (h_coll : StateUnit.coll ∈ hid) (h_reqs : StateUnit.reqs ∈ hid) (h_regs : StateUnit.regs ∈ hid) (h_log : StateUnit.log ∈ hid)  (c : CollConfig) (f : Shape) (x : Sel) (cause : Nat) (missing : Nat) (s : State) : (State.dryRound s c f x cause missing).hide hid = s.hide hid := by
  unfold State.dryRound
  try dsimp only
  repeat' (first | with_reducible rfl | (simp only [State.modSel_hide, State.post_hide, State.giveMerged_hide, h_shell, h_coll, h_reqs, h_regs, h_log, foldl_hide, ite_hide, ite_self, implies_true, and_self]; done) | (with_reducible refine (foldl_hide _ (fun s x => ?_) _ _).trans ?_) | split | (simp only [State.modSel_hide, State.post_hide, State.giveMerged_hide, h_shell, h_coll, h_reqs, h_regs, h_log, foldl_hide, ite_hide, ite_self, implies_true, and_self]))

theorem State.countLook_hide (h_reqs : StateUnit.reqs ∈ hid)  (slot : Nat) (s : State) : (State.countLook s slot).hide hid = s.hide hid := by
  unfold State.countLook
  try dsimp only
  repeat' (first | with_reducible rfl | (simp only [State.modReq_hide, h_reqs, foldl_hide, ite_hide, ite_self, implies_true, and_self]; done) | (with_reducible refine (foldl_hide _ (fun s x => ?_) _ _).trans ?_) | split | (simp only [State.modReq_hide, h_reqs, foldl_hide, ite_hide, ite_self, implies_true, and_self]))

theorem State.lookDry_hide (h_shell : StateUnit.shell ∈ hid) (h_coll : StateUnit.coll ∈ hid) (h_reqs : StateUnit.reqs ∈ hid) (h_regs : StateUnit.regs ∈ hid) (h_log : StateUnit.log ∈ hid)  (c : CollConfig) (f : Shape) (x : Sel) (s : State) : (State.lookDry s c f x).hide hid = s.hide hid := by
  unfold State.lookDry
  try dsimp only
  repeat' (first | with_reducible rfl | (simp only [State.engDry_hide, State.dryRound_hide, State.countLook_hide, h_shell, h_coll, h_reqs, h_regs, h_log, foldl_hide, ite_hide, ite_self, implies_true, and_self]; done) | (with_reducible refine (foldl_hide _ (fun s x => ?_) _ _).trans ?_) | split | (simp only [State.engDry_hide, State.dryRound_hide, State.countLook_hide, h_shell, h_coll, h_reqs, h_regs, h_log, foldl_hide, ite_hide, ite_self, implies_true, and_self]))

theorem State.rootRecord_hide (h_coll : StateUnit.coll ∈ hid)  (slot : Nat) (r : RootWalk) (d : Option RootDrawn) (s : State) : (State.rootRecord s slot r d).hide hid = s.hide hid := by
  unfold State.rootRecord
  try dsimp only
  repeat' (first | with_reducible rfl | (simp only [State.modColl_hide, h_coll, foldl_hide, ite_hide, ite_self, implies_true, and_self]; done) | (with_reducible refine (foldl_hide _ (fun s x => ?_) _ _).trans ?_) | split | (simp only [State.modColl_hide, h_coll, foldl_hide, ite_hide, ite_self, implies_true, and_self]))

theorem State.rootFound_hide (h_coll : StateUnit.coll ∈ hid)  (x : Sel) (r : RootWalk) (w : WalkMsg) (fnd : ListEntry × Nat × Nat) (s : State) : (State.rootFound s x r w fnd).hide hid = s.hide hid := by
  unfold State.rootFound
  try dsimp only
  repeat' (first | with_reducible rfl | (simp only [State.modSel_hide, h_coll, foldl_hide, ite_hide, ite_self, implies_true, and_self]; done) | (with_reducible refine (foldl_hide _ (fun s x => ?_) _ _).trans ?_) | split | (simp only [State.modSel_hide, h_coll, foldl_hide, ite_hide, ite_self, implies_true, and_self]))

theorem State.rootGo_hide (h_shell : StateUnit.shell ∈ hid) (h_str : StateUnit.str ∈ hid) (h_coll : StateUnit.coll ∈ hid) (h_reqs : StateUnit.reqs ∈ hid) (h_regs : StateUnit.regs ∈ hid) (h_log : StateUnit.log ∈ hid) (c : CollConfig) (f : Shape) (step slot posn n : Nat) (s : State) : (State.rootGo c f step slot posn n s).hide hid = s.hide hid := by
  induction n generalizing s with
  | zero => rfl
  | succ n ih =>
    unfold State.rootGo
    try dsimp only
    repeat' (first | with_reducible rfl | (simp only [ih, State.modSel_hide, State.spreadOn_hide, State.askPass_hide, State.beginWalk_hide, State.giveMerged_hide, State.lookDry_hide, State.rootRecord_hide, State.rootFound_hide, h_shell, h_str, h_coll, h_reqs, h_regs, h_log, foldl_hide, ite_hide, ite_self, implies_true, and_self]; done) | (with_reducible refine (foldl_hide _ (fun s x => ?_) _ _).trans ?_) | split | (simp only [ih, State.modSel_hide, State.spreadOn_hide, State.askPass_hide, State.beginWalk_hide, State.giveMerged_hide, State.lookDry_hide, State.rootRecord_hide, State.rootFound_hide, h_shell, h_str, h_coll, h_reqs, h_regs, h_log, foldl_hide, ite_hide, ite_self, implies_true, and_self]))

theorem State.sendHist_hide (h_coll : StateUnit.coll ∈ hid)  (c : CollConfig) (f : Shape) (x : Sel) (s : State) : (State.sendHist s c f x).hide hid = s.hide hid := by
  unfold State.sendHist
  try dsimp only
  repeat' (first | with_reducible rfl | (simp only [State.modSel_hide, State.post_hide, h_coll, foldl_hide, ite_hide, ite_self, implies_true, and_self]; done) | (with_reducible refine (foldl_hide _ (fun s x => ?_) _ _).trans ?_) | split | (simp only [State.modSel_hide, State.post_hide, h_coll, foldl_hide, ite_hide, ite_self, implies_true, and_self]))

theorem State.histStep_hide (h_shell : StateUnit.shell ∈ hid) (h_str : StateUnit.str ∈ hid) (h_coll : StateUnit.coll ∈ hid) (h_reqs : StateUnit.reqs ∈ hid) (h_regs : StateUnit.regs ∈ hid) (h_log : StateUnit.log ∈ hid)  (c : CollConfig) (f : Shape) (step : Nat) (slot : Nat) (posn : Nat) (s : State) : (State.histStep s c f step slot posn).hide hid = s.hide hid := by
  unfold State.histStep
  try dsimp only
  repeat' (first | with_reducible rfl | (simp only [State.rootGo_hide, State.sendHist_hide, h_shell, h_str, h_coll, h_reqs, h_regs, h_log, foldl_hide, ite_hide, ite_self, implies_true, and_self]; done) | (with_reducible refine (foldl_hide _ (fun s x => ?_) _ _).trans ?_) | split | (simp only [State.rootGo_hide, State.sendHist_hide, h_shell, h_str, h_coll, h_reqs, h_regs, h_log, foldl_hide, ite_hide, ite_self, implies_true, and_self]))

theorem State.rejectAt_hide (h_shell : StateUnit.shell ∈ hid) (h_str : StateUnit.str ∈ hid) (h_coll : StateUnit.coll ∈ hid) (h_reqs : StateUnit.reqs ∈ hid) (h_regs : StateUnit.regs ∈ hid) (h_log : StateUnit.log ∈ hid)  (c : CollConfig) (f : Shape) (step : Nat) (slot : Nat) (posn : Nat) (e : ListEntry) (s : State) : (State.rejectAt s c f step slot posn e).hide hid = s.hide hid := by
  unfold State.rejectAt
  try dsimp only
  repeat' (first | with_reducible rfl | (simp only [State.modSel_hide, State.rootGo_hide, h_shell, h_str, h_coll, h_reqs, h_regs, h_log, foldl_hide, ite_hide, ite_self, implies_true, and_self]; done) | (with_reducible refine (foldl_hide _ (fun s x => ?_) _ _).trans ?_) | split | (simp only [State.modSel_hide, State.rootGo_hide, h_shell, h_str, h_coll, h_reqs, h_regs, h_log, foldl_hide, ite_hide, ite_self, implies_true, and_self]))

/-! ### Machine/Strain.lean -/

theorem execFloorUpdate_hide (h_clk : StateUnit.clk ∈ hid) (h_str : StateUnit.str ∈ hid) (t : Time) (slot : BitVec 12) (posn : Nat) (strainer : BitVec 4) (counted : Nat) {s t' : State} (e : execFloorUpdate t slot posn strainer counted s = .next t') : t'.hide hid = s.hide hid := by
  unfold execFloorUpdate at e
  try dsimp only at e
  rw [Host.Outcome.next.injEq] at e
  subst e
  repeat' (first | with_reducible rfl | (simp only [State.at_hide, State.modRow_hide, h_clk, h_str, foldl_hide, ite_hide, ite_self, implies_true, and_self]; done) | (with_reducible refine (foldl_hide _ (fun s x => ?_) _ _).trans ?_) | split | (simp only [State.at_hide, State.modRow_hide, h_clk, h_str, foldl_hide, ite_hide, ite_self, implies_true, and_self]))

theorem State.endRow_hide (h_shell : StateUnit.shell ∈ hid) (h_str : StateUnit.str ∈ hid) (h_ren : StateUnit.ren ∈ hid)  (r : Row) (s : State) : (State.endRow s r).hide hid = s.hide hid := by
  unfold State.endRow
  try dsimp only
  repeat' (first | with_reducible rfl | (simp only [State.dropRow_hide, State.freeTiles_hide, State.releasePins_hide, State.startWork_hide, h_shell, h_str, h_ren, Vat.release_mem, Vat.release_tags, Vat.release_checks, Vat.release_parity, Vat.release_banks, foldl_hide, ite_hide, ite_self, implies_true, and_self]; done) | (with_reducible refine (foldl_hide _ (fun s x => ?_) _ _).trans ?_) | split | (simp only [State.dropRow_hide, State.freeTiles_hide, State.releasePins_hide, State.startWork_hide, h_shell, h_str, h_ren, Vat.release_mem, Vat.release_tags, Vat.release_checks, Vat.release_parity, Vat.release_banks, foldl_hide, ite_hide, ite_self, implies_true, and_self]))

theorem State.putOut_hide (h_str : StateUnit.str ∈ hid)  (r : Row) (list : List ListEntry) (res : Result) (s : State) : (State.putOut s r list res).hide hid = s.hide hid := by
  unfold State.putOut
  try dsimp only
  repeat' (first | with_reducible rfl | (simp only [State.modStr_hide, h_str, lmod_length, putBack_length, List.length_map, ite_length, foldl_hide, ite_hide, ite_self, implies_true, and_self]; done) | (with_reducible refine (foldl_hide _ (fun s x => ?_) _ _).trans ?_) | split | (simp only [State.modStr_hide, h_str, lmod_length, putBack_length, List.length_map, ite_length, foldl_hide, ite_hide, ite_self, implies_true, and_self]))

theorem State.deliver_hide (h_str : StateUnit.str ∈ hid) (h_coll : StateUnit.coll ∈ hid)  (r : Row) (k : Nat) (list : List ListEntry) (res : Result) (s : State) : (State.deliver s r k list res).hide hid = s.hide hid := by
  unfold State.deliver
  try dsimp only
  repeat' (first | with_reducible rfl | (simp only [State.ownPart_hide, State.putOut_hide, h_str, h_coll, foldl_hide, ite_hide, ite_self, implies_true, and_self]; done) | (with_reducible refine (foldl_hide _ (fun s x => ?_) _ _).trans ?_) | split | (simp only [State.ownPart_hide, State.putOut_hide, h_str, h_coll, foldl_hide, ite_hide, ite_self, implies_true, and_self]))

theorem State.dryOwn_hide (h_shell : StateUnit.shell ∈ hid) (h_coll : StateUnit.coll ∈ hid) (h_reqs : StateUnit.reqs ∈ hid) (h_regs : StateUnit.regs ∈ hid) (h_log : StateUnit.log ∈ hid)  (r : Row) (cause : Nat) (s : State) : (State.dryOwn s r cause).hide hid = s.hide hid := by
  unfold State.dryOwn
  try dsimp only
  repeat' (first | with_reducible rfl | (simp only [State.modSel_hide, State.ownPart_hide, State.dryRound_hide, h_shell, h_coll, h_reqs, h_regs, h_log, foldl_hide, ite_hide, ite_self, implies_true, and_self]; done) | (with_reducible refine (foldl_hide _ (fun s x => ?_) _ _).trans ?_) | split | (simp only [State.modSel_hide, State.ownPart_hide, State.dryRound_hide, h_shell, h_coll, h_reqs, h_regs, h_log, foldl_hide, ite_hide, ite_self, implies_true, and_self]))

theorem State.failRow_hide (h_shell : StateUnit.shell ∈ hid) (h_str : StateUnit.str ∈ hid) (h_ren : StateUnit.ren ∈ hid) (h_coll : StateUnit.coll ∈ hid) (h_reqs : StateUnit.reqs ∈ hid) (h_regs : StateUnit.regs ∈ hid) (h_log : StateUnit.log ∈ hid)  (r : Row) (cause : Nat) (s : State) : (State.failRow s r cause).hide hid = s.hide hid := by
  unfold State.failRow
  try dsimp only
  repeat' (first | with_reducible rfl | (simp only [State.engDry_hide, State.endRow_hide, State.dryOwn_hide, h_shell, h_str, h_ren, h_coll, h_reqs, h_regs, h_log, foldl_hide, ite_hide, ite_self, implies_true, and_self]; done) | (with_reducible refine (foldl_hide _ (fun s x => ?_) _ _).trans ?_) | split | (simp only [State.engDry_hide, State.endRow_hide, State.dryOwn_hide, h_shell, h_str, h_ren, h_coll, h_reqs, h_regs, h_log, foldl_hide, ite_hide, ite_self, implies_true, and_self]))

theorem State.noWork_hide (h_reqs : StateUnit.reqs ∈ hid) (h_regs : StateUnit.regs ∈ hid) (h_log : StateUnit.log ∈ hid)  (h : Handle) (s : State) : (State.noWork s h).hide hid = s.hide hid := by
  unfold State.noWork
  try dsimp only
  repeat' (first | with_reducible rfl | (simp only [State.logErr_hide, State.modReq_hide, h_reqs, h_regs, h_log, foldl_hide, ite_hide, ite_self, implies_true, and_self]; done) | (with_reducible refine (foldl_hide _ (fun s x => ?_) _ _).trans ?_) | split | (simp only [State.logErr_hide, State.modReq_hide, h_reqs, h_regs, h_log, foldl_hide, ite_hide, ite_self, implies_true, and_self]))

theorem State.rowFault_hide (h_vat : StateUnit.vat ∈ hid) (h_vatMem : StateUnit.vatMem ∈ hid) (h_ren : StateUnit.ren ∈ hid) (h_regs : StateUnit.regs ∈ hid) (h_log : StateUnit.log ∈ hid)  (slot : Nat) (x : RowFault) (s : State) : (State.rowFault s slot x).hide hid = s.hide hid := by
  unfold State.rowFault
  try dsimp only
  repeat' (first | with_reducible rfl | (simp only [State.logErr_hide, State.rowCorrected_hide, State.rowPoisoned_hide, State.modRen_hide, h_vat, h_vatMem, h_ren, h_regs, h_log, foldl_hide, ite_hide, ite_self, implies_true, and_self]; done) | (with_reducible refine (foldl_hide _ (fun s x => ?_) _ _).trans ?_) | split | (simp only [State.logErr_hide, State.rowCorrected_hide, State.rowPoisoned_hide, State.modRen_hide, h_vat, h_vatMem, h_ren, h_regs, h_log, foldl_hide, ite_hide, ite_self, implies_true, and_self]))

theorem State.rowFaults_hide (h_vat : StateUnit.vat ∈ hid) (h_vatMem : StateUnit.vatMem ∈ hid) (h_ren : StateUnit.ren ∈ hid) (h_regs : StateUnit.regs ∈ hid) (h_log : StateUnit.log ∈ hid)  (slot : Nat) (l : List RowFault) (s : State) : (State.rowFaults s slot l).hide hid = s.hide hid := by
  unfold State.rowFaults
  try dsimp only
  repeat' (first | with_reducible rfl | (simp only [State.rowFault_hide, h_vat, h_vatMem, h_ren, h_regs, h_log, foldl_hide, ite_hide, ite_self, implies_true, and_self]; done) | (with_reducible refine (foldl_hide _ (fun s x => ?_) _ _).trans ?_) | split | (simp only [State.rowFault_hide, h_vat, h_vatMem, h_ren, h_regs, h_log, foldl_hide, ite_hide, ite_self, implies_true, and_self]))

theorem State.rowReads_hide (h_vat : StateUnit.vat ∈ hid) (h_vatMem : StateUnit.vatMem ∈ hid) (h_ren : StateUnit.ren ∈ hid) (h_regs : StateUnit.regs ∈ hid) (h_log : StateUnit.log ∈ hid)  (r : Row) (found : List RowFault) (s : State) : (State.rowReads s r found).1.hide hid = s.hide hid := by
  unfold State.rowReads
  try dsimp only
  repeat' (first | with_reducible rfl | (simp only [State.logRange_hide, State.rowFaults_hide, h_vat, h_vatMem, h_ren, h_regs, h_log, foldl_hide, ite_hide, ite_self, implies_true, and_self]; done) | (with_reducible refine (foldl_hide _ (fun s x => ?_) _ _).trans ?_) | split | (simp only [State.logRange_hide, State.rowFaults_hide, h_vat, h_vatMem, h_ren, h_regs, h_log, foldl_hide, ite_hide, ite_self, implies_true, and_self]))

theorem State.enterLooks_hide (h_regs : StateUnit.regs ∈ hid) (h_log : StateUnit.log ∈ hid)  (r : Row) (s : State) : (State.enterLooks s r).hide hid = s.hide hid := by
  unfold State.enterLooks
  try dsimp only
  repeat' (first | with_reducible rfl | (simp only [State.logErr_hide, h_regs, h_log, foldl_hide, ite_hide, ite_self, implies_true, and_self]; done) | (with_reducible refine (foldl_hide _ (fun s x => ?_) _ _).trans ?_) | split | (simp only [State.logErr_hide, h_regs, h_log, foldl_hide, ite_hide, ite_self, implies_true, and_self]))

theorem State.plannedDry_hide (h_shell : StateUnit.shell ∈ hid) (h_coll : StateUnit.coll ∈ hid) (h_reqs : StateUnit.reqs ∈ hid) (h_regs : StateUnit.regs ∈ hid) (h_log : StateUnit.log ∈ hid)  (r : Row) (s : State) : (State.plannedDry s r).hide hid = s.hide hid := by
  unfold State.plannedDry
  try dsimp only
  repeat' (first | with_reducible rfl | (simp only [State.engDry_hide, State.ownPart_hide, State.countLook_hide, h_shell, h_coll, h_reqs, h_regs, h_log, foldl_hide, ite_hide, ite_self, implies_true, and_self]; done) | (with_reducible refine (foldl_hide _ (fun s x => ?_) _ _).trans ?_) | split | (simp only [State.engDry_hide, State.ownPart_hide, State.countLook_hide, h_shell, h_coll, h_reqs, h_regs, h_log, foldl_hide, ite_hide, ite_self, implies_true, and_self]))

theorem State.endLook_hide (h_shell : StateUnit.shell ∈ hid) (h_str : StateUnit.str ∈ hid) (h_coll : StateUnit.coll ∈ hid) (h_reqs : StateUnit.reqs ∈ hid) (h_regs : StateUnit.regs ∈ hid) (h_log : StateUnit.log ∈ hid)  (r : Row) (b : SlabState) (s : State) : (State.endLook s r b).hide hid = s.hide hid := by
  unfold State.endLook
  try dsimp only
  repeat' (first | with_reducible rfl | (simp only [State.logErr_hide, State.modRow_hide, State.startWork_hide, State.askPass_hide, State.deliver_hide, State.enterLooks_hide, State.plannedDry_hide, h_shell, h_str, h_coll, h_reqs, h_regs, h_log, foldl_hide, ite_hide, ite_self, implies_true, and_self]; done) | (with_reducible refine (foldl_hide _ (fun s x => ?_) _ _).trans ?_) | split | (simp only [State.logErr_hide, State.modRow_hide, State.startWork_hide, State.askPass_hide, State.deliver_hide, State.enterLooks_hide, State.plannedDry_hide, h_shell, h_str, h_coll, h_reqs, h_regs, h_log, foldl_hide, ite_hide, ite_self, implies_true, and_self]))

theorem State.endSlabs_hide (h_shell : StateUnit.shell ∈ hid) (h_str : StateUnit.str ∈ hid) (h_ren : StateUnit.ren ∈ hid) (h_coll : StateUnit.coll ∈ hid) (h_reqs : StateUnit.reqs ∈ hid) (h_regs : StateUnit.regs ∈ hid) (h_log : StateUnit.log ∈ hid)  (r : Row) (b : SlabState) (s : State) : (State.endSlabs s r b).hide hid = s.hide hid := by
  unfold State.endSlabs
  try dsimp only
  repeat' (first | with_reducible rfl | (simp only [State.endRow_hide, State.deliver_hide, State.endLook_hide, h_shell, h_str, h_ren, h_coll, h_reqs, h_regs, h_log, foldl_hide, ite_hide, ite_self, implies_true, and_self]; done) | (with_reducible refine (foldl_hide _ (fun s x => ?_) _ _).trans ?_) | split | (simp only [State.endRow_hide, State.deliver_hide, State.endLook_hide, h_shell, h_str, h_ren, h_coll, h_reqs, h_regs, h_log, foldl_hide, ite_hide, ite_self, implies_true, and_self]))

theorem State.slabStep_hide (h_shell : StateUnit.shell ∈ hid) (h_str : StateUnit.str ∈ hid) (h_ren : StateUnit.ren ∈ hid) (h_coll : StateUnit.coll ∈ hid) (h_reqs : StateUnit.reqs ∈ hid) (h_regs : StateUnit.regs ∈ hid) (h_log : StateUnit.log ∈ hid)  (r : Row) (b : SlabState) (t : Tile) (s : State) : (State.slabStep s r b t).hide hid = s.hide hid := by
  unfold State.slabStep
  try dsimp only
  repeat' (first | with_reducible rfl | (simp only [State.modRow_hide, State.freeTiles_hide, State.endSlabs_hide, h_shell, h_str, h_ren, h_coll, h_reqs, h_regs, h_log, foldl_hide, ite_hide, ite_self, implies_true, and_self]; done) | (with_reducible refine (foldl_hide _ (fun s x => ?_) _ _).trans ?_) | split | (simp only [State.modRow_hide, State.freeTiles_hide, State.endSlabs_hide, h_shell, h_str, h_ren, h_coll, h_reqs, h_regs, h_log, foldl_hide, ite_hide, ite_self, implies_true, and_self]))

theorem State.wholeRow_hide (h_shell : StateUnit.shell ∈ hid) (h_str : StateUnit.str ∈ hid) (h_ren : StateUnit.ren ∈ hid) (h_coll : StateUnit.coll ∈ hid)  (r : Row) (s : State) : (State.wholeRow s r).hide hid = s.hide hid := by
  unfold State.wholeRow
  try dsimp only
  repeat' (first | with_reducible rfl | (simp only [State.modRow_hide, State.startWork_hide, State.endRow_hide, State.deliver_hide, h_shell, h_str, h_ren, h_coll, foldl_hide, ite_hide, ite_self, implies_true, and_self]; done) | (with_reducible refine (foldl_hide _ (fun s x => ?_) _ _).trans ?_) | split | (simp only [State.modRow_hide, State.startWork_hide, State.endRow_hide, State.deliver_hide, h_shell, h_str, h_ren, h_coll, foldl_hide, ite_hide, ite_self, implies_true, and_self]))

theorem State.selectRow_hide (h_shell : StateUnit.shell ∈ hid) (h_vat : StateUnit.vat ∈ hid) (h_vatMem : StateUnit.vatMem ∈ hid) (h_str : StateUnit.str ∈ hid) (h_ren : StateUnit.ren ∈ hid) (h_coll : StateUnit.coll ∈ hid) (h_reqs : StateUnit.reqs ∈ hid) (h_regs : StateUnit.regs ∈ hid) (h_log : StateUnit.log ∈ hid)  (r : Row) (found : List RowFault) (s : State) : (State.selectRow s r found).hide hid = s.hide hid := by
  unfold State.selectRow
  try dsimp only
  repeat' (first | with_reducible rfl | (simp only [State.failRow_hide, State.noWork_hide, State.rowReads_hide, State.endSlabs_hide, State.slabStep_hide, State.wholeRow_hide, h_shell, h_vat, h_vatMem, h_str, h_ren, h_coll, h_reqs, h_regs, h_log, foldl_hide, ite_hide, ite_self, implies_true, and_self]; done) | (with_reducible refine (foldl_hide _ (fun s x => ?_) _ _).trans ?_) | split | (simp only [State.failRow_hide, State.noWork_hide, State.rowReads_hide, State.endSlabs_hide, State.slabStep_hide, State.wholeRow_hide, h_shell, h_vat, h_vatMem, h_str, h_ren, h_coll, h_reqs, h_regs, h_log, foldl_hide, ite_hide, ite_self, implies_true, and_self]))

theorem execListSelectionDone_hide (h_clk : StateUnit.clk ∈ hid) (h_shell : StateUnit.shell ∈ hid) (h_vat : StateUnit.vat ∈ hid) (h_vatMem : StateUnit.vatMem ∈ hid) (h_str : StateUnit.str ∈ hid) (h_ren : StateUnit.ren ∈ hid) (h_coll : StateUnit.coll ∈ hid) (h_reqs : StateUnit.reqs ∈ hid) (h_regs : StateUnit.regs ∈ hid) (h_log : StateUnit.log ∈ hid) (t : Time) (slot : BitVec 12) (posn : Nat) (found : List RowFault) {s t' : State} (e : execListSelectionDone t slot posn found s = .next t') : t'.hide hid = s.hide hid := by
  unfold execListSelectionDone at e
  try dsimp only at e
  rw [Host.Outcome.next.injEq] at e
  subst e
  repeat' (first | with_reducible rfl | (simp only [State.at_hide, State.modRow_hide, State.selectRow_hide, h_clk, h_shell, h_vat, h_vatMem, h_str, h_ren, h_coll, h_reqs, h_regs, h_log, foldl_hide, ite_hide, ite_self, implies_true, and_self]; done) | (with_reducible refine (foldl_hide _ (fun s x => ?_) _ _).trans ?_) | split | (simp only [State.at_hide, State.modRow_hide, State.selectRow_hide, h_clk, h_shell, h_vat, h_vatMem, h_str, h_ren, h_coll, h_reqs, h_regs, h_log, foldl_hide, ite_hide, ite_self, implies_true, and_self]))

theorem State.slabBlock_hide (h_shell : StateUnit.shell ∈ hid) (h_str : StateUnit.str ∈ hid) (h_coll : StateUnit.coll ∈ hid) (h_reqs : StateUnit.reqs ∈ hid) (h_regs : StateUnit.regs ∈ hid) (h_log : StateUnit.log ∈ hid)  (r : Row) (n : Nat) (s : State) : (State.slabBlock s r n).hide hid = s.hide hid := by
  unfold State.slabBlock
  try dsimp only
  repeat' (first | with_reducible rfl | (simp only [State.engDry_hide, State.askWork_hide, State.ownPart_hide, State.countLook_hide, h_shell, h_str, h_coll, h_reqs, h_regs, h_log, foldl_hide, ite_hide, ite_self, implies_true, and_self]; done) | (with_reducible refine (foldl_hide _ (fun s x => ?_) _ _).trans ?_) | split | (simp only [State.engDry_hide, State.askWork_hide, State.ownPart_hide, State.countLook_hide, h_shell, h_str, h_coll, h_reqs, h_regs, h_log, foldl_hide, ite_hide, ite_self, implies_true, and_self]))

theorem State.beginBlock_hide (h_shell : StateUnit.shell ∈ hid) (h_str : StateUnit.str ∈ hid) (h_coll : StateUnit.coll ∈ hid) (h_reqs : StateUnit.reqs ∈ hid) (h_regs : StateUnit.regs ∈ hid) (h_log : StateUnit.log ∈ hid)  (step : Nat) (slot : Nat) (posn : Nat) (n : Nat) (cursor : Option ListEntry) (s : State) : (State.beginBlock s step slot posn n cursor).hide hid = s.hide hid := by
  unfold State.beginBlock
  try dsimp only
  repeat' (first | with_reducible rfl | (simp only [State.modRow_hide, State.modSel_hide, State.startWork_hide, State.slabBlock_hide, h_shell, h_str, h_coll, h_reqs, h_regs, h_log, foldl_hide, ite_hide, ite_self, implies_true, and_self]; done) | (with_reducible refine (foldl_hide _ (fun s x => ?_) _ _).trans ?_) | split | (simp only [State.modRow_hide, State.modSel_hide, State.startWork_hide, State.slabBlock_hide, h_shell, h_str, h_coll, h_reqs, h_regs, h_log, foldl_hide, ite_hide, ite_self, implies_true, and_self]))

theorem State.blockRound_hide (h_shell : StateUnit.shell ∈ hid) (h_str : StateUnit.str ∈ hid) (h_coll : StateUnit.coll ∈ hid) (h_reqs : StateUnit.reqs ∈ hid) (h_regs : StateUnit.regs ∈ hid) (h_log : StateUnit.log ∈ hid)  (c : CollConfig) (slot : Nat) (posn : Nat) (s : State) : (State.blockRound s c slot posn).hide hid = s.hide hid := by
  unfold State.blockRound
  try dsimp only
  repeat' (first | with_reducible rfl | (simp only [State.spreadOn_hide, State.beginBlock_hide, h_shell, h_str, h_coll, h_reqs, h_regs, h_log, foldl_hide, ite_hide, ite_self, implies_true, and_self]; done) | (with_reducible refine (foldl_hide _ (fun s x => ?_) _ _).trans ?_) | split | (simp only [State.spreadOn_hide, State.beginBlock_hide, h_shell, h_str, h_coll, h_reqs, h_regs, h_log, foldl_hide, ite_hide, ite_self, implies_true, and_self]))

theorem execExtendBlock_hide (h_clk : StateUnit.clk ∈ hid) (h_shell : StateUnit.shell ∈ hid) (h_str : StateUnit.str ∈ hid) (h_ren : StateUnit.ren ∈ hid) (h_coll : StateUnit.coll ∈ hid) (h_reqs : StateUnit.reqs ∈ hid) (h_regs : StateUnit.regs ∈ hid) (h_log : StateUnit.log ∈ hid) (t : Time) (slot : BitVec 12) (posn : Nat) {s t' : State} (e : execExtendBlock t slot posn s = .next t') : t'.hide hid = s.hide hid := by
  unfold execExtendBlock at e
  try dsimp only at e
  rw [Host.Outcome.next.injEq] at e
  subst e
  repeat' (first | with_reducible rfl | (simp only [State.at_hide, State.askWork_hide, State.failRow_hide, State.noWork_hide, State.blockRound_hide, h_clk, h_shell, h_str, h_ren, h_coll, h_reqs, h_regs, h_log, foldl_hide, ite_hide, ite_self, implies_true, and_self]; done) | (with_reducible refine (foldl_hide _ (fun s x => ?_) _ _).trans ?_) | split | (simp only [State.at_hide, State.askWork_hide, State.failRow_hide, State.noWork_hide, State.blockRound_hide, h_clk, h_shell, h_str, h_ren, h_coll, h_reqs, h_regs, h_log, foldl_hide, ite_hide, ite_self, implies_true, and_self]))

theorem State.giveBlock_hide (h_str : StateUnit.str ∈ hid) (h_coll : StateUnit.coll ∈ hid)  (r : Row) (list : List ListEntry) (res : Result) (s : State) : (State.giveBlock s r list res).hide hid = s.hide hid := by
  unfold State.giveBlock
  try dsimp only
  repeat' (first | with_reducible rfl | (simp only [State.modSel_hide, State.putOut_hide, State.deliver_hide, h_str, h_coll, foldl_hide, ite_hide, ite_self, implies_true, and_self]; done) | (with_reducible refine (foldl_hide _ (fun s x => ?_) _ _).trans ?_) | split | (simp only [State.modSel_hide, State.putOut_hide, State.deliver_hide, h_str, h_coll, foldl_hide, ite_hide, ite_self, implies_true, and_self]))

theorem State.runBlock_hide (h_str : StateUnit.str ∈ hid) (h_coll : StateUnit.coll ∈ hid)  (r : Row) (order : Nat) (n : Nat) (s : State) : (State.runBlock s r order n).hide hid = s.hide hid := by
  unfold State.runBlock
  try dsimp only
  repeat' (first | with_reducible rfl | (simp only [State.modRow_hide, State.startWork_hide, State.giveBlock_hide, h_str, h_coll, foldl_hide, ite_hide, ite_self, implies_true, and_self]; done) | (with_reducible refine (foldl_hide _ (fun s x => ?_) _ _).trans ?_) | split | (simp only [State.modRow_hide, State.startWork_hide, State.giveBlock_hide, h_str, h_coll, foldl_hide, ite_hide, ite_self, implies_true, and_self]))

theorem execExtendBlockDone_hide (h_clk : StateUnit.clk ∈ hid) (h_shell : StateUnit.shell ∈ hid) (h_vat : StateUnit.vat ∈ hid) (h_vatMem : StateUnit.vatMem ∈ hid) (h_str : StateUnit.str ∈ hid) (h_ren : StateUnit.ren ∈ hid) (h_coll : StateUnit.coll ∈ hid) (h_reqs : StateUnit.reqs ∈ hid) (h_regs : StateUnit.regs ∈ hid) (h_log : StateUnit.log ∈ hid) (t : Time) (slot : BitVec 12) (work : WorkRead) {s t' : State} (e : execExtendBlockDone t slot work s = .next t') : t'.hide hid = s.hide hid := by
  unfold execExtendBlockDone at e
  try dsimp only at e
  rw [Host.Outcome.next.injEq] at e
  subst e
  repeat' (first | with_reducible rfl | (simp only [State.at_hide, State.failRow_hide, State.rowReads_hide, State.runBlock_hide, h_clk, h_shell, h_vat, h_vatMem, h_str, h_ren, h_coll, h_reqs, h_regs, h_log, foldl_hide, ite_hide, ite_self, implies_true, and_self]; done) | (with_reducible refine (foldl_hide _ (fun s x => ?_) _ _).trans ?_) | split | (simp only [State.at_hide, State.failRow_hide, State.rowReads_hide, State.runBlock_hide, h_clk, h_shell, h_vat, h_vatMem, h_str, h_ren, h_coll, h_reqs, h_regs, h_log, foldl_hide, ite_hide, ite_self, implies_true, and_self]))

theorem execRowPass_hide (h_clk : StateUnit.clk ∈ hid) (h_shell : StateUnit.shell ∈ hid) (h_str : StateUnit.str ∈ hid) (h_ren : StateUnit.ren ∈ hid) (h_coll : StateUnit.coll ∈ hid) (h_reqs : StateUnit.reqs ∈ hid) (h_regs : StateUnit.regs ∈ hid) (h_log : StateUnit.log ∈ hid) (t : Time) (slot : BitVec 12) (posn : Nat) (req : PassReq) {s t' : State} (e : execRowPass t slot posn req s = .next t') : t'.hide hid = s.hide hid := by
  unfold execRowPass at e
  try dsimp only at e
  rw [Host.Outcome.next.injEq] at e
  subst e
  repeat' (first | with_reducible rfl | (simp only [State.at_hide, State.askPass_hide, State.failRow_hide, State.noWork_hide, h_clk, h_shell, h_str, h_ren, h_coll, h_reqs, h_regs, h_log, foldl_hide, ite_hide, ite_self, implies_true, and_self]; done) | (with_reducible refine (foldl_hide _ (fun s x => ?_) _ _).trans ?_) | split | (simp only [State.at_hide, State.askPass_hide, State.failRow_hide, State.noWork_hide, h_clk, h_shell, h_str, h_ren, h_coll, h_reqs, h_regs, h_log, foldl_hide, ite_hide, ite_self, implies_true, and_self]))

theorem State.runPass_hide (h_shell : StateUnit.shell ∈ hid) (h_str : StateUnit.str ∈ hid) (h_coll : StateUnit.coll ∈ hid) (h_reqs : StateUnit.reqs ∈ hid) (h_regs : StateUnit.regs ∈ hid) (h_log : StateUnit.log ∈ hid)  (r : Row) (order : Nat) (q : PassReq) (s : State) : (State.runPass s r order q).hide hid = s.hide hid := by
  unfold State.runPass
  try dsimp only
  repeat' (first | with_reducible rfl | (simp only [State.modRow_hide, State.modSel_hide, State.startWork_hide, State.histStep_hide, h_shell, h_str, h_coll, h_reqs, h_regs, h_log, foldl_hide, ite_hide, ite_self, implies_true, and_self]; done) | (with_reducible refine (foldl_hide _ (fun s x => ?_) _ _).trans ?_) | split | (simp only [State.modRow_hide, State.modSel_hide, State.startWork_hide, State.histStep_hide, h_shell, h_str, h_coll, h_reqs, h_regs, h_log, foldl_hide, ite_hide, ite_self, implies_true, and_self]))

theorem execRowPassDone_hide (h_clk : StateUnit.clk ∈ hid) (h_shell : StateUnit.shell ∈ hid) (h_vat : StateUnit.vat ∈ hid) (h_vatMem : StateUnit.vatMem ∈ hid) (h_str : StateUnit.str ∈ hid) (h_ren : StateUnit.ren ∈ hid) (h_coll : StateUnit.coll ∈ hid) (h_reqs : StateUnit.reqs ∈ hid) (h_regs : StateUnit.regs ∈ hid) (h_log : StateUnit.log ∈ hid) (t : Time) (slot : BitVec 12) (work : WorkRead) {s t' : State} (e : execRowPassDone t slot work s = .next t') : t'.hide hid = s.hide hid := by
  unfold execRowPassDone at e
  try dsimp only at e
  rw [Host.Outcome.next.injEq] at e
  subst e
  repeat' (first | with_reducible rfl | (simp only [State.at_hide, State.failRow_hide, State.rowReads_hide, State.runPass_hide, h_clk, h_shell, h_vat, h_vatMem, h_str, h_ren, h_coll, h_reqs, h_regs, h_log, foldl_hide, ite_hide, ite_self, implies_true, and_self]; done) | (with_reducible refine (foldl_hide _ (fun s x => ?_) _ _).trans ?_) | split | (simp only [State.at_hide, State.failRow_hide, State.rowReads_hide, State.runPass_hide, h_clk, h_shell, h_vat, h_vatMem, h_str, h_ren, h_coll, h_reqs, h_regs, h_log, foldl_hide, ite_hide, ite_self, implies_true, and_self]))

/-! ### Machine/Sample.lean -/

theorem State.imageFault_hide (h_ren : StateUnit.ren ∈ hid)  (gidx : Nat) (s : State) : (State.imageFault s gidx).hide hid = s.hide hid := by
  unfold State.imageFault
  try dsimp only
  repeat' (first | with_reducible rfl | (simp only [State.modRen_hide, h_ren, foldl_hide, ite_hide, ite_self, implies_true, and_self]; done) | (with_reducible refine (foldl_hide _ (fun s x => ?_) _ _).trans ?_) | split | (simp only [State.modRen_hide, h_ren, foldl_hide, ite_hide, ite_self, implies_true, and_self]))

theorem State.logReadFault_hide (h_ren : StateUnit.ren ∈ hid) (h_regs : StateUnit.regs ∈ hid) (h_log : StateUnit.log ∈ hid)  (g : Grammar) (f : Nat × Nat) (s : State) : (State.logReadFault s g f).hide hid = s.hide hid := by
  unfold State.logReadFault
  try dsimp only
  repeat' (first | with_reducible rfl | (simp only [State.logErr_hide, State.imageFault_hide, h_ren, h_regs, h_log, foldl_hide, ite_hide, ite_self, implies_true, and_self]; done) | (with_reducible refine (foldl_hide _ (fun s x => ?_) _ _).trans ?_) | split | (simp only [State.logErr_hide, State.imageFault_hide, h_ren, h_regs, h_log, foldl_hide, ite_hide, ite_self, implies_true, and_self]))

theorem State.unlisted_hide (h_ren : StateUnit.ren ∈ hid) (h_regs : StateUnit.regs ∈ hid) (h_log : StateUnit.log ∈ hid)  (slot : Nat) (drafts : List TokenId) (t : TokenId) (s : State) : (State.unlisted s slot drafts t).hide hid = s.hide hid := by
  unfold State.unlisted
  try dsimp only
  repeat' (first | with_reducible rfl | (simp only [State.logErr_hide, State.imageFault_hide, h_ren, h_regs, h_log, foldl_hide, ite_hide, ite_self, implies_true, and_self]; done) | (with_reducible refine (foldl_hide _ (fun s x => ?_) _ _).trans ?_) | split | (simp only [State.logErr_hide, State.imageFault_hide, h_ren, h_regs, h_log, foldl_hide, ite_hide, ite_self, implies_true, and_self]))

theorem State.unlistedAll_hide (h_ren : StateUnit.ren ∈ hid) (h_regs : StateUnit.regs ∈ hid) (h_log : StateUnit.log ∈ hid)  (slot : Nat) (drafts : List TokenId) (ts : List TokenId) (s : State) : (State.unlistedAll s slot drafts ts).hide hid = s.hide hid := by
  unfold State.unlistedAll
  try dsimp only
  repeat' (first | with_reducible rfl | (simp only [State.unlisted_hide, h_ren, h_regs, h_log, foldl_hide, ite_hide, ite_self, implies_true, and_self]; done) | (with_reducible refine (foldl_hide _ (fun s x => ?_) _ _).trans ?_) | split | (simp only [State.unlisted_hide, h_ren, h_regs, h_log, foldl_hide, ite_hide, ite_self, implies_true, and_self]))

theorem State.giveDecided_hide (h_drw : StateUnit.drw ∈ hid) (h_reqs : StateUnit.reqs ∈ hid)  (h : Handle) (d : Decided) (nans : Nat) (s : State) : (State.giveDecided s h d nans).hide hid = s.hide hid := by
  unfold State.giveDecided
  try dsimp only
  repeat' (first | with_reducible rfl | (simp only [State.modReq_hide, State.modDrw_hide, State.modReqs_hide, h_drw, h_reqs, foldl_hide, ite_hide, ite_self, implies_true, and_self]; done) | (with_reducible refine (foldl_hide _ (fun s x => ?_) _ _).trans ?_) | split | (simp only [State.modReq_hide, State.modDrw_hide, State.modReqs_hide, h_drw, h_reqs, foldl_hide, ite_hide, ite_self, implies_true, and_self]))

theorem State.dryDraw_hide (h_shell : StateUnit.shell ∈ hid) (h_coll : StateUnit.coll ∈ hid) (h_reqs : StateUnit.reqs ∈ hid) (h_regs : StateUnit.regs ∈ hid) (h_log : StateUnit.log ∈ hid)  (x : Sel) (cause : Nat) (s : State) : (State.dryDraw s x cause).hide hid = s.hide hid := by
  unfold State.dryDraw
  try dsimp only
  repeat' (first | with_reducible rfl | (simp only [State.engDry_hide, State.modSel_hide, h_shell, h_coll, h_reqs, h_regs, h_log, foldl_hide, ite_hide, ite_self, implies_true, and_self]; done) | (with_reducible refine (foldl_hide _ (fun s x => ?_) _ _).trans ?_) | split | (simp only [State.engDry_hide, State.modSel_hide, h_shell, h_coll, h_reqs, h_regs, h_log, foldl_hide, ite_hide, ite_self, implies_true, and_self]))

theorem State.rejectWalked_hide (h_shell : StateUnit.shell ∈ hid) (h_str : StateUnit.str ∈ hid) (h_coll : StateUnit.coll ∈ hid) (h_reqs : StateUnit.reqs ∈ hid) (h_regs : StateUnit.regs ∈ hid) (h_log : StateUnit.log ∈ hid)  (c : CollConfig) (f : Shape) (x : Sel) (e : ListEntry) (last : DrawRecord) (s : State) : (State.rejectWalked s c f x e last).hide hid = s.hide hid := by
  unfold State.rejectWalked
  try dsimp only
  repeat' (first | with_reducible rfl | (simp only [State.modSel_hide, State.post_hide, State.rejectAt_hide, h_shell, h_str, h_coll, h_reqs, h_regs, h_log, foldl_hide, ite_hide, ite_self, implies_true, and_self]; done) | (with_reducible refine (foldl_hide _ (fun s x => ?_) _ _).trans ?_) | split | (simp only [State.modSel_hide, State.post_hide, State.rejectAt_hide, h_shell, h_str, h_coll, h_reqs, h_regs, h_log, foldl_hide, ite_hide, ite_self, implies_true, and_self]))

theorem State.drawWalked_hide (h_shell : StateUnit.shell ∈ hid) (h_str : StateUnit.str ∈ hid) (h_drw : StateUnit.drw ∈ hid) (h_ren : StateUnit.ren ∈ hid) (h_coll : StateUnit.coll ∈ hid) (h_reqs : StateUnit.reqs ∈ hid) (h_regs : StateUnit.regs ∈ hid) (h_log : StateUnit.log ∈ hid)  (c : CollConfig) (f : Shape) (r : Request) (x : Sel) (p : Part) (s : State) : (State.drawWalked s c f r x p).hide hid = s.hide hid := by
  unfold State.drawWalked
  try dsimp only
  repeat' (first | with_reducible rfl | (simp only [State.unlisted_hide, State.giveDecided_hide, State.rejectWalked_hide, h_shell, h_str, h_drw, h_ren, h_coll, h_reqs, h_regs, h_log, foldl_hide, ite_hide, ite_self, implies_true, and_self]; done) | (with_reducible refine (foldl_hide _ (fun s x => ?_) _ _).trans ?_) | split | (simp only [State.unlisted_hide, State.giveDecided_hide, State.rejectWalked_hide, h_shell, h_str, h_drw, h_ren, h_coll, h_reqs, h_regs, h_log, foldl_hide, ite_hide, ite_self, implies_true, and_self]))

theorem State.drawSel_hide (h_shell : StateUnit.shell ∈ hid) (h_str : StateUnit.str ∈ hid) (h_drw : StateUnit.drw ∈ hid) (h_ren : StateUnit.ren ∈ hid) (h_coll : StateUnit.coll ∈ hid) (h_reqs : StateUnit.reqs ∈ hid) (h_regs : StateUnit.regs ∈ hid) (h_log : StateUnit.log ∈ hid)  (r : Request) (x : Sel) (p : Part) (s : State) : (State.drawSel s r x p).hide hid = s.hide hid := by
  unfold State.drawSel
  try dsimp only
  repeat' (first | with_reducible rfl | (simp only [State.endRow_hide, State.unlistedAll_hide, State.giveDecided_hide, State.drawWalked_hide, h_shell, h_str, h_drw, h_ren, h_coll, h_reqs, h_regs, h_log, foldl_hide, ite_hide, ite_self, implies_true, and_self]; done) | (with_reducible refine (foldl_hide _ (fun s x => ?_) _ _).trans ?_) | split | (simp only [State.endRow_hide, State.unlistedAll_hide, State.giveDecided_hide, State.drawWalked_hide, h_shell, h_str, h_drw, h_ren, h_coll, h_reqs, h_regs, h_log, foldl_hide, ite_hide, ite_self, implies_true, and_self]))

theorem execDraw_hide (h_clk : StateUnit.clk ∈ hid) (h_shell : StateUnit.shell ∈ hid) (h_vat : StateUnit.vat ∈ hid) (h_vatMem : StateUnit.vatMem ∈ hid) (h_str : StateUnit.str ∈ hid) (h_drw : StateUnit.drw ∈ hid) (h_ren : StateUnit.ren ∈ hid) (h_coll : StateUnit.coll ∈ hid) (h_reqs : StateUnit.reqs ∈ hid) (h_regs : StateUnit.regs ∈ hid) (h_log : StateUnit.log ∈ hid) (t : Time) (slot : BitVec 12) (found : List RowFault) {s t' : State} (e : execDraw t slot found s = .next t') : t'.hide hid = s.hide hid := by
  unfold execDraw at e
  try dsimp only at e
  rw [Host.Outcome.next.injEq] at e
  subst e
  repeat' (first | with_reducible rfl | (simp only [State.at_hide, State.rowFaults_hide, State.dryDraw_hide, State.drawSel_hide, h_clk, h_shell, h_vat, h_vatMem, h_str, h_drw, h_ren, h_coll, h_reqs, h_regs, h_log, foldl_hide, ite_hide, ite_self, implies_true, and_self]; done) | (with_reducible refine (foldl_hide _ (fun s x => ?_) _ _).trans ?_) | split | (simp only [State.at_hide, State.rowFaults_hide, State.dryDraw_hide, State.drawSel_hide, h_clk, h_shell, h_vat, h_vatMem, h_str, h_drw, h_ren, h_coll, h_reqs, h_regs, h_log, foldl_hide, ite_hide, ite_self, implies_true, and_self]))

theorem State.verifyDrawn_hide (h_drw : StateUnit.drw ∈ hid) (h_ren : StateUnit.ren ∈ hid) (h_reqs : StateUnit.reqs ∈ hid) (h_regs : StateUnit.regs ∈ hid) (h_log : StateUnit.log ∈ hid)  (r : Request) (slot : Nat) (v : VerifyIn) (n : Nat) (d : RowDrawn) (greedy : Bool) (residual : Bool) (ver : VerifyRecord) (wasted : Nat) (s : State) : (State.verifyDrawn s r slot v n d greedy residual ver wasted).hide hid = s.hide hid := by
  unfold State.verifyDrawn
  try dsimp only
  repeat' (first | with_reducible rfl | (simp only [State.unlistedAll_hide, State.giveDecided_hide, h_drw, h_ren, h_reqs, h_regs, h_log, foldl_hide, ite_hide, ite_self, implies_true, and_self]; done) | (with_reducible refine (foldl_hide _ (fun s x => ?_) _ _).trans ?_) | split | (simp only [State.unlistedAll_hide, State.giveDecided_hide, h_drw, h_ren, h_reqs, h_regs, h_log, foldl_hide, ite_hide, ite_self, implies_true, and_self]))

theorem State.verifySlot_hide (h_drw : StateUnit.drw ∈ hid) (h_ren : StateUnit.ren ∈ hid) (h_reqs : StateUnit.reqs ∈ hid) (h_regs : StateUnit.regs ∈ hid) (h_log : StateUnit.log ∈ hid)  (r : Request) (slot : Nat) (v : VerifyIn) (s : State) : (State.verifySlot s r slot v).hide hid = s.hide hid := by
  unfold State.verifySlot
  try dsimp only
  repeat' (first | with_reducible rfl | (simp only [State.giveDecided_hide, State.verifyDrawn_hide, h_drw, h_ren, h_reqs, h_regs, h_log, foldl_hide, ite_hide, ite_self, implies_true, and_self]; done) | (with_reducible refine (foldl_hide _ (fun s x => ?_) _ _).trans ?_) | split | (simp only [State.giveDecided_hide, State.verifyDrawn_hide, h_drw, h_ren, h_reqs, h_regs, h_log, foldl_hide, ite_hide, ite_self, implies_true, and_self]))

theorem execVerify_hide (h_clk : StateUnit.clk ∈ hid) (h_shell : StateUnit.shell ∈ hid) (h_vat : StateUnit.vat ∈ hid) (h_vatMem : StateUnit.vatMem ∈ hid) (h_drw : StateUnit.drw ∈ hid) (h_ren : StateUnit.ren ∈ hid) (h_coll : StateUnit.coll ∈ hid) (h_reqs : StateUnit.reqs ∈ hid) (h_regs : StateUnit.regs ∈ hid) (h_log : StateUnit.log ∈ hid) (t : Time) (slot : BitVec 12) (found : List RowFault) {s t' : State} (e : execVerify t slot found s = .next t') : t'.hide hid = s.hide hid := by
  unfold execVerify at e
  try dsimp only at e
  rw [Host.Outcome.next.injEq] at e
  subst e
  repeat' (first | with_reducible rfl | (simp only [State.at_hide, State.engDry_hide, State.noWork_hide, State.rowFaults_hide, State.verifySlot_hide, h_clk, h_shell, h_vat, h_vatMem, h_drw, h_ren, h_coll, h_reqs, h_regs, h_log, foldl_hide, ite_hide, ite_self, implies_true, and_self]; done) | (with_reducible refine (foldl_hide _ (fun s x => ?_) _ _).trans ?_) | split | (simp only [State.at_hide, State.engDry_hide, State.noWork_hide, State.rowFaults_hide, State.verifySlot_hide, h_clk, h_shell, h_vat, h_vatMem, h_drw, h_ren, h_coll, h_reqs, h_regs, h_log, foldl_hide, ite_hide, ite_self, implies_true, and_self]))

end Sys2Proof.Machine
end

