-- ==== Sys2Proof/Laws/FramesLife.lean ====
section
/-! SUPPORT. What each operation and each command leaves in sight (`State.hide`), one lemma each: requests, churn, manifest builds and commits. -/

set_option Elab.async false

namespace Sys2Proof.Machine

variable {hid : List StateUnit}

set_option linter.unusedSimpArgs false
set_option linter.unusedVariables false
set_option linter.unusedTactic false
set_option linter.unreachableTactic false

/-! ### Machine/Life.lean -/

theorem State.modCustomer_hide (h_rat : StateUnit.rat ∈ hid)  (c : Nat) (f : Customer → Customer) (s : State) : (State.modCustomer c f s).hide hid = s.hide hid := by
  unfold State.modCustomer
  try dsimp only
  repeat' (first | with_reducible rfl | (simp only [State.modRat_hide, h_rat, foldl_hide, ite_hide, ite_self, implies_true, and_self]; done) | (with_reducible refine (foldl_hide _ (fun s x => ?_) _ _).trans ?_) | split | (simp only [State.modRat_hide, h_rat, foldl_hide, ite_hide, ite_self, implies_true, and_self]))

theorem State.charge_hide (h_rat : StateUnit.rat ∈ hid)  (c : Nat) (units : Nat → Nat) (s : State) : (State.charge s c units).hide hid = s.hide hid := by
  unfold State.charge
  try dsimp only
  repeat' (first | with_reducible rfl | (simp only [State.modCustomer_hide, h_rat, foldl_hide, ite_hide, ite_self, implies_true, and_self]; done) | (with_reducible refine (foldl_hide _ (fun s x => ?_) _ _).trans ?_) | split | (simp only [State.modCustomer_hide, h_rat, foldl_hide, ite_hide, ite_self, implies_true, and_self]))

theorem State.chargeReq_hide (h_reqs : StateUnit.reqs ∈ hid) (h_rat : StateUnit.rat ∈ hid)  (r : Request) (units : Nat → Nat) (inputs : Nat) (s : State) : (State.chargeReq s r units inputs).hide hid = s.hide hid := by
  unfold State.chargeReq
  try dsimp only
  repeat' (first | with_reducible rfl | (simp only [State.modReq_hide, State.charge_hide, h_reqs, h_rat, foldl_hide, ite_hide, ite_self, implies_true, and_self]; done) | (with_reducible refine (foldl_hide _ (fun s x => ?_) _ _).trans ?_) | split | (simp only [State.modReq_hide, State.charge_hide, h_reqs, h_rat, foldl_hide, ite_hide, ite_self, implies_true, and_self]))

theorem State.serve1_hide (h_rat : StateUnit.rat ∈ hid)  (c : Nat) (units : Nat → Nat) (s : State) : (State.serve1 s c units).hide hid = s.hide hid := by
  unfold State.serve1
  try dsimp only
  repeat' (first | with_reducible rfl | (simp only [State.modCustomer_hide, h_rat, foldl_hide, ite_hide, ite_self, implies_true, and_self]; done) | (with_reducible refine (foldl_hide _ (fun s x => ?_) _ _).trans ?_) | split | (simp only [State.modCustomer_hide, h_rat, foldl_hide, ite_hide, ite_self, implies_true, and_self]))

theorem State.dropVersion_hide (h_skim : StateUnit.skim ∈ hid) (h_stw : StateUnit.stw ∈ hid) (h_mbox : StateUnit.mbox ∈ hid) (h_ports : StateUnit.ports ∈ hid)  (h : Handle) (s : State) : (State.dropVersion s h).hide hid = s.hide hid := by
  unfold State.dropVersion
  try dsimp only
  repeat' (first | with_reducible rfl | (simp only [State.sendEvent_hide, State.modStw_hide, h_skim, h_stw, h_mbox, h_ports, foldl_hide, ite_hide, ite_self, implies_true, and_self]; done) | (with_reducible refine (foldl_hide _ (fun s x => ?_) _ _).trans ?_) | split | (simp only [State.sendEvent_hide, State.modStw_hide, h_skim, h_stw, h_mbox, h_ports, foldl_hide, ite_hide, ite_self, implies_true, and_self]))

theorem State.schedule_hide (h_churn : StateUnit.churn ∈ hid)   (s : State) : (State.schedule s).hide hid = s.hide hid := by
  unfold State.schedule
  try dsimp only
  repeat' (first | with_reducible rfl | (simp only [State.modChurn_hide, h_churn, foldl_hide, ite_hide, ite_self, implies_true, and_self]; done) | (with_reducible refine (foldl_hide _ (fun s x => ?_) _ _).trans ?_) | split | (simp only [State.modChurn_hide, h_churn, foldl_hide, ite_hide, ite_self, implies_true, and_self]))

theorem State.modStream_hide (h_churn : StateUnit.churn ∈ hid)  (i : Nat) (f : Stream → Stream) (s : State) : (State.modStream i f s).hide hid = s.hide hid := by
  unfold State.modStream
  try dsimp only
  repeat' (first | with_reducible rfl | (simp only [State.modChurn_hide, h_churn, foldl_hide, ite_hide, ite_self, implies_true, and_self]; done) | (with_reducible refine (foldl_hide _ (fun s x => ?_) _ _).trans ?_) | split | (simp only [State.modChurn_hide, h_churn, foldl_hide, ite_hide, ite_self, implies_true, and_self]))

theorem State.chargeJob_hide (h_churn : StateUnit.churn ∈ hid) (h_rat : StateUnit.rat ∈ hid)  (i : Nat) (x : Stream) (cust : Nat) (s : State) : (State.chargeJob s i x cust).hide hid = s.hide hid := by
  unfold State.chargeJob
  try dsimp only
  repeat' (first | with_reducible rfl | (simp only [State.charge_hide, State.modStream_hide, h_churn, h_rat, foldl_hide, ite_hide, ite_self, implies_true, and_self]; done) | (with_reducible refine (foldl_hide _ (fun s x => ?_) _ _).trans ?_) | split | (simp only [State.charge_hide, State.modStream_hide, h_churn, h_rat, foldl_hide, ite_hide, ite_self, implies_true, and_self]))

theorem State.reportEntries_hide (h_churn : StateUnit.churn ∈ hid) (h_reqs : StateUnit.reqs ∈ hid) (h_rat : StateUnit.rat ∈ hid)  (i : Nat) (fin : Bool) (s : State) : (State.reportEntries s i fin).hide hid = s.hide hid := by
  unfold State.reportEntries
  try dsimp only
  repeat' (first | with_reducible rfl | (simp only [State.modReq_hide, State.tryWaiting_hide, State.chargeReq_hide, State.modStream_hide, State.chargeJob_hide, h_churn, h_reqs, h_rat, foldl_hide, ite_hide, ite_self, implies_true, and_self]; done) | (with_reducible refine (foldl_hide _ (fun s x => ?_) _ _).trans ?_) | split | (simp only [State.modReq_hide, State.tryWaiting_hide, State.chargeReq_hide, State.modStream_hide, State.chargeJob_hide, h_churn, h_reqs, h_rat, foldl_hide, ite_hide, ite_self, implies_true, and_self]))

theorem State.freeStream_hide (h_churn : StateUnit.churn ∈ hid) (h_reqs : StateUnit.reqs ∈ hid)  (i : Nat) (s : State) : (State.freeStream s i).hide hid = s.hide hid := by
  unfold State.freeStream
  try dsimp only
  repeat' (first | with_reducible rfl | (simp only [State.modReq_hide, State.modChurn_hide, h_churn, h_reqs, foldl_hide, ite_hide, ite_self, implies_true, and_self]; done) | (with_reducible refine (foldl_hide _ (fun s x => ?_) _ _).trans ?_) | split | (simp only [State.modReq_hide, State.modChurn_hide, h_churn, h_reqs, foldl_hide, ite_hide, ite_self, implies_true, and_self]))

theorem State.answerBuffers_hide (h_churn : StateUnit.churn ∈ hid) (h_skim : StateUnit.skim ∈ hid) (h_mbox : StateUnit.mbox ∈ hid) (h_ports : StateUnit.ports ∈ hid)  (i : Nat) (status : Nat) (s : State) : (State.answerBuffers s i status).hide hid = s.hide hid := by
  unfold State.answerBuffers
  try dsimp only
  repeat' (first | with_reducible rfl | (simp only [State.refuse_hide, State.modStream_hide, h_churn, h_skim, h_mbox, h_ports, foldl_hide, ite_hide, ite_self, implies_true, and_self]; done) | (with_reducible refine (foldl_hide _ (fun s x => ?_) _ _).trans ?_) | split | (simp only [State.refuse_hide, State.modStream_hide, h_churn, h_skim, h_mbox, h_ports, foldl_hide, ite_hide, ite_self, implies_true, and_self]))

theorem State.stopStream_hide (h_churn : StateUnit.churn ∈ hid) (h_skim : StateUnit.skim ∈ hid) (h_reqs : StateUnit.reqs ∈ hid) (h_mbox : StateUnit.mbox ∈ hid) (h_ports : StateUnit.ports ∈ hid)  (h : Handle) (s : State) : (State.stopStream s h).hide hid = s.hide hid := by
  unfold State.stopStream
  try dsimp only
  repeat' (first | with_reducible rfl | (simp only [State.schedule_hide, State.freeStream_hide, State.answerBuffers_hide, State.modChurn_hide, h_churn, h_skim, h_reqs, h_mbox, h_ports, foldl_hide, ite_hide, ite_self, implies_true, and_self]; done) | (with_reducible refine (foldl_hide _ (fun s x => ?_) _ _).trans ?_) | split | (simp only [State.schedule_hide, State.freeStream_hide, State.answerBuffers_hide, State.modChurn_hide, h_churn, h_skim, h_reqs, h_mbox, h_ports, foldl_hide, ite_hide, ite_self, implies_true, and_self]))

theorem State.endOne_hide (h_shell : StateUnit.shell ∈ hid) (h_str : StateUnit.str ∈ hid) (h_ren : StateUnit.ren ∈ hid) (h_churn : StateUnit.churn ∈ hid) (h_skim : StateUnit.skim ∈ hid) (h_reqs : StateUnit.reqs ∈ hid) (h_stw : StateUnit.stw ∈ hid) (h_mbox : StateUnit.mbox ∈ hid) (h_ports : StateUnit.ports ∈ hid)  (h : Handle) (reason : Nat) (flush : Bool) (s : State) : (State.endOne s h reason flush).hide hid = s.hide hid := by
  unfold State.endOne
  try dsimp only
  repeat' (first | with_reducible rfl | (simp only [State.modReq_hide, State.dropRows_hide, State.dropVersion_hide, State.stopStream_hide, State.modSkim_hide, h_shell, h_str, h_ren, h_churn, h_skim, h_reqs, h_stw, h_mbox, h_ports, foldl_hide, ite_hide, ite_self, implies_true, and_self]; done) | (with_reducible refine (foldl_hide _ (fun s x => ?_) _ _).trans ?_) | split | (simp only [State.modReq_hide, State.dropRows_hide, State.dropVersion_hide, State.stopStream_hide, State.modSkim_hide, h_shell, h_str, h_ren, h_churn, h_skim, h_reqs, h_stw, h_mbox, h_ports, foldl_hide, ite_hide, ite_self, implies_true, and_self]))

theorem State.endOutput_hide (h_shell : StateUnit.shell ∈ hid) (h_str : StateUnit.str ∈ hid) (h_ren : StateUnit.ren ∈ hid) (h_churn : StateUnit.churn ∈ hid) (h_skim : StateUnit.skim ∈ hid) (h_reqs : StateUnit.reqs ∈ hid) (h_stw : StateUnit.stw ∈ hid) (h_mbox : StateUnit.mbox ∈ hid) (h_ports : StateUnit.ports ∈ hid)  (h : Handle) (reason : Nat) (flush : Bool) (s : State) : (State.endOutput s h reason flush).hide hid = s.hide hid := by
  unfold State.endOutput
  try dsimp only
  repeat' (first | with_reducible rfl | (simp only [State.endOne_hide, h_shell, h_str, h_ren, h_churn, h_skim, h_reqs, h_stw, h_mbox, h_ports, foldl_hide, ite_hide, ite_self, implies_true, and_self]; done) | (with_reducible refine (foldl_hide _ (fun s x => ?_) _ _).trans ?_) | split | (simp only [State.endOne_hide, h_shell, h_str, h_ren, h_churn, h_skim, h_reqs, h_stw, h_mbox, h_ports, foldl_hide, ite_hide, ite_self, implies_true, and_self]))

theorem State.promptEnded_hide (h_shell : StateUnit.shell ∈ hid) (h_str : StateUnit.str ∈ hid) (h_ren : StateUnit.ren ∈ hid) (h_churn : StateUnit.churn ∈ hid) (h_skim : StateUnit.skim ∈ hid) (h_reqs : StateUnit.reqs ∈ hid) (h_stw : StateUnit.stw ∈ hid) (h_mbox : StateUnit.mbox ∈ hid) (h_ports : StateUnit.ports ∈ hid)  (h : Handle) (s : State) : (State.promptEnded s h).hide hid = s.hide hid := by
  unfold State.promptEnded
  try dsimp only
  repeat' (first | with_reducible rfl | (simp only [State.modReq_hide, State.tryWaiting_hide, State.endOutput_hide, h_shell, h_str, h_ren, h_churn, h_skim, h_reqs, h_stw, h_mbox, h_ports, foldl_hide, ite_hide, ite_self, implies_true, and_self]; done) | (with_reducible refine (foldl_hide _ (fun s x => ?_) _ _).trans ?_) | split | (simp only [State.modReq_hide, State.tryWaiting_hide, State.endOutput_hide, h_shell, h_str, h_ren, h_churn, h_skim, h_reqs, h_stw, h_mbox, h_ports, foldl_hide, ite_hide, ite_self, implies_true, and_self]))

theorem State.retire_hide (h_churn : StateUnit.churn ∈ hid) (h_skim : StateUnit.skim ∈ hid) (h_reqs : StateUnit.reqs ∈ hid) (h_ports : StateUnit.ports ∈ hid)  (h : Handle) (s : State) : (State.retire s h).hide hid = s.hide hid := by
  unfold State.retire
  try dsimp only
  repeat' (first | with_reducible rfl | (simp only [State.hostWrite_hide, State.modChurn_hide, State.modReqs_hide, State.modSkim_hide, h_churn, h_skim, h_reqs, h_ports, foldl_hide, ite_hide, ite_self, implies_true, and_self]; done) | (with_reducible refine (foldl_hide _ (fun s x => ?_) _ _).trans ?_) | split | (simp only [State.hostWrite_hide, State.modChurn_hide, State.modReqs_hide, State.modSkim_hide, h_churn, h_skim, h_reqs, h_ports, foldl_hide, ite_hide, ite_self, implies_true, and_self]))

/-! ### Machine/VocabCache.lean -/

theorem State.issueFills_hide (h_churn : StateUnit.churn ∈ hid) (h_ports : StateUnit.ports ∈ hid) (n : Nat) (s : State) : (State.issueFills n s).hide hid = s.hide hid := by
  induction n generalizing s with
  | zero => rfl
  | succ n ih =>
    unfold State.issueFills
    try dsimp only
    repeat' (first | with_reducible rfl | (simp only [ih, State.celAccess_hide, State.modChurn_hide, h_churn, h_ports, foldl_hide, ite_hide, ite_self, implies_true, and_self]; done) | (with_reducible refine (foldl_hide _ (fun s x => ?_) _ _).trans ?_) | split | (simp only [ih, State.celAccess_hide, State.modChurn_hide, h_churn, h_ports, foldl_hide, ite_hide, ite_self, implies_true, and_self]))

theorem State.issueAllFills_hide (h_churn : StateUnit.churn ∈ hid) (h_ports : StateUnit.ports ∈ hid)   (s : State) : (State.issueAllFills s).hide hid = s.hide hid := by
  unfold State.issueAllFills
  try dsimp only
  repeat' (first | with_reducible rfl | (simp only [State.issueFills_hide, h_churn, h_ports, foldl_hide, ite_hide, ite_self, implies_true, and_self]; done) | (with_reducible refine (foldl_hide _ (fun s x => ?_) _ _).trans ?_) | split | (simp only [State.issueFills_hide, h_churn, h_ports, foldl_hide, ite_hide, ite_self, implies_true, and_self]))

theorem State.readTokens_hide (h_churn : StateUnit.churn ∈ hid) (h_ports : StateUnit.ports ∈ hid)  (vidx : Nat) (v : Vocab) (lang : Nat) (ts : List TokenId) (s : State) : (State.readTokens s vidx v lang ts).hide hid = s.hide hid := by
  unfold State.readTokens
  try dsimp only
  repeat' (first | with_reducible rfl | (simp only [State.celAccess_hide, State.celDone_hide, State.modChurn_hide, h_churn, h_ports, foldl_hide, ite_hide, ite_self, implies_true, and_self]; done) | (with_reducible refine (foldl_hide _ (fun s x => ?_) _ _).trans ?_) | split | (simp only [State.celAccess_hide, State.celDone_hide, State.modChurn_hide, h_churn, h_ports, foldl_hide, ite_hide, ite_self, implies_true, and_self]))

/-! ### Machine/ChurnOps.lean -/

theorem execLaneSwitch_hide (h_clk : StateUnit.clk ∈ hid) (h_churn : StateUnit.churn ∈ hid) (t : Time) (lane : BitVec 4) {s t' : State} (e : execLaneSwitch t lane s = .next t') : t'.hide hid = s.hide hid := by
  unfold execLaneSwitch at e
  try dsimp only at e
  rw [Host.Outcome.next.injEq] at e
  subst e
  repeat' (first | with_reducible rfl | (simp only [State.at_hide, State.modChurn_hide, h_clk, h_churn, foldl_hide, ite_hide, ite_self, implies_true, and_self]; done) | (with_reducible refine (foldl_hide _ (fun s x => ?_) _ _).trans ?_) | split | (simp only [State.at_hide, State.modChurn_hide, h_clk, h_churn, foldl_hide, ite_hide, ite_self, implies_true, and_self]))

theorem State.waitLine_hide (h_churn : StateUnit.churn ∈ hid) (h_ports : StateUnit.ports ∈ hid)  (i : Nat) (x : Stream) (v : Vocab) (line : Nat) (s : State) : (State.waitLine s i x v line).hide hid = s.hide hid := by
  unfold State.waitLine
  try dsimp only
  repeat' (first | with_reducible rfl | (simp only [State.schedule_hide, State.modStream_hide, State.issueAllFills_hide, State.modChurn_hide, h_churn, h_ports, foldl_hide, ite_hide, ite_self, implies_true, and_self]; done) | (with_reducible refine (foldl_hide _ (fun s x => ?_) _ _).trans ?_) | split | (simp only [State.schedule_hide, State.modStream_hide, State.issueAllFills_hide, State.modChurn_hide, h_churn, h_ports, foldl_hide, ite_hide, ite_self, implies_true, and_self]))

theorem State.vocabFaults_hide (h_churn : StateUnit.churn ∈ hid) (h_regs : StateUnit.regs ∈ hid) (h_log : StateUnit.log ∈ hid)  (vidx : Nat) (v : Vocab) (read : List Nat) (s : State) : (State.vocabFaults s vidx v read).hide hid = s.hide hid := by
  unfold State.vocabFaults
  try dsimp only
  repeat' (first | with_reducible rfl | (simp only [State.logErr_hide, State.modChurn_hide, h_churn, h_regs, h_log, foldl_hide, ite_hide, ite_self, implies_true, and_self]; done) | (with_reducible refine (foldl_hide _ (fun s x => ?_) _ _).trans ?_) | split | (simp only [State.logErr_hide, State.modChurn_hide, h_churn, h_regs, h_log, foldl_hide, ite_hide, ite_self, implies_true, and_self]))

theorem State.writeEntries_hide (h_churn : StateUnit.churn ∈ hid) (h_ports : StateUnit.ports ∈ hid)  (i : Nat) (x : Stream) (es : List EncEntry) (s : State) : (State.writeEntries s i x es).1.hide hid = s.hide hid := by
  unfold State.writeEntries
  try dsimp only
  repeat' (first | with_reducible rfl | (simp only [State.hostWrite_hide, State.cellarWrite_hide, State.modStream_hide, h_churn, h_ports, foldl_hide, ite_hide, ite_self, implies_true, and_self]; done) | (with_reducible refine (foldl_hide _ (fun s x => ?_) _ _).trans ?_) | split | (simp only [State.hostWrite_hide, State.cellarWrite_hide, State.modStream_hide, h_churn, h_ports, foldl_hide, ite_hide, ite_self, implies_true, and_self]))

theorem State.applyWork_hide (h_churn : StateUnit.churn ∈ hid) (h_regs : StateUnit.regs ∈ hid) (h_log : StateUnit.log ∈ hid) (h_ports : StateUnit.ports ∈ hid)  (i : Nat) (x : Stream) (v : Vocab) (w : TextWork) (text : List Byte) (more : List EncEntry) (s : State) : (State.applyWork s i x v w text more).1.hide hid = s.hide hid := by
  unfold State.applyWork
  try dsimp only
  repeat' (first | with_reducible rfl | (simp only [State.modStream_hide, State.vocabFaults_hide, State.writeEntries_hide, State.modChurn_hide, h_churn, h_regs, h_log, h_ports, foldl_hide, ite_hide, ite_self, implies_true, and_self]; done) | (with_reducible refine (foldl_hide _ (fun s x => ?_) _ _).trans ?_) | split | (simp only [State.modStream_hide, State.vocabFaults_hide, State.writeEntries_hide, State.modChurn_hide, h_churn, h_regs, h_log, h_ports, foldl_hide, ite_hide, ite_self, implies_true, and_self]))

theorem State.stopWith_hide (h_shell : StateUnit.shell ∈ hid) (h_str : StateUnit.str ∈ hid) (h_ren : StateUnit.ren ∈ hid) (h_churn : StateUnit.churn ∈ hid) (h_skim : StateUnit.skim ∈ hid) (h_reqs : StateUnit.reqs ∈ hid) (h_rat : StateUnit.rat ∈ hid) (h_stw : StateUnit.stw ∈ hid) (h_mbox : StateUnit.mbox ∈ hid) (h_ports : StateUnit.ports ∈ hid)  (i : Nat) (status : Nat) (reason : Nat) (fin : Bool) (s : State) : (State.stopWith s i status reason fin).hide hid = s.hide hid := by
  unfold State.stopWith
  try dsimp only
  repeat' (first | with_reducible rfl | (simp only [State.refuse_hide, State.schedule_hide, State.modStream_hide, State.reportEntries_hide, State.freeStream_hide, State.answerBuffers_hide, State.endOutput_hide, h_shell, h_str, h_ren, h_churn, h_skim, h_reqs, h_rat, h_stw, h_mbox, h_ports, foldl_hide, ite_hide, ite_self, implies_true, and_self]; done) | (with_reducible refine (foldl_hide _ (fun s x => ?_) _ _).trans ?_) | split | (simp only [State.refuse_hide, State.schedule_hide, State.modStream_hide, State.reportEntries_hide, State.freeStream_hide, State.answerBuffers_hide, State.endOutput_hide, h_shell, h_str, h_ren, h_churn, h_skim, h_reqs, h_rat, h_stw, h_mbox, h_ports, foldl_hide, ite_hide, ite_self, implies_true, and_self]))

theorem State.stopFault_hide (h_shell : StateUnit.shell ∈ hid) (h_str : StateUnit.str ∈ hid) (h_ren : StateUnit.ren ∈ hid) (h_churn : StateUnit.churn ∈ hid) (h_skim : StateUnit.skim ∈ hid) (h_reqs : StateUnit.reqs ∈ hid) (h_rat : StateUnit.rat ∈ hid) (h_stw : StateUnit.stw ∈ hid) (h_mbox : StateUnit.mbox ∈ hid) (h_regs : StateUnit.regs ∈ hid) (h_log : StateUnit.log ∈ hid) (h_ports : StateUnit.ports ∈ hid)  (i : Nat) (detail : Nat) (s : State) : (State.stopFault s i detail).hide hid = s.hide hid := by
  unfold State.stopFault
  try dsimp only
  repeat' (first | with_reducible rfl | (simp only [State.logErr_hide, State.stopWith_hide, h_shell, h_str, h_ren, h_churn, h_skim, h_reqs, h_rat, h_stw, h_mbox, h_regs, h_log, h_ports, foldl_hide, ite_hide, ite_self, implies_true, and_self]; done) | (with_reducible refine (foldl_hide _ (fun s x => ?_) _ _).trans ?_) | split | (simp only [State.logErr_hide, State.stopWith_hide, h_shell, h_str, h_ren, h_churn, h_skim, h_reqs, h_rat, h_stw, h_mbox, h_regs, h_log, h_ports, foldl_hide, ite_hide, ite_self, implies_true, and_self]))

theorem State.finishBuffer_hide (h_shell : StateUnit.shell ∈ hid) (h_str : StateUnit.str ∈ hid) (h_ren : StateUnit.ren ∈ hid) (h_churn : StateUnit.churn ∈ hid) (h_skim : StateUnit.skim ∈ hid) (h_reqs : StateUnit.reqs ∈ hid) (h_rat : StateUnit.rat ∈ hid) (h_stw : StateUnit.stw ∈ hid) (h_mbox : StateUnit.mbox ∈ hid) (h_ports : StateUnit.ports ∈ hid)  (i : Nat) (b : InBuffer) (s : State) : (State.finishBuffer s i b).hide hid = s.hide hid := by
  unfold State.finishBuffer
  try dsimp only
  repeat' (first | with_reducible rfl | (simp only [State.answer_hide, State.schedule_hide, State.modStream_hide, State.reportEntries_hide, State.freeStream_hide, State.promptEnded_hide, h_shell, h_str, h_ren, h_churn, h_skim, h_reqs, h_rat, h_stw, h_mbox, h_ports, foldl_hide, ite_hide, ite_self, implies_true, and_self]; done) | (with_reducible refine (foldl_hide _ (fun s x => ?_) _ _).trans ?_) | split | (simp only [State.answer_hide, State.schedule_hide, State.modStream_hide, State.reportEntries_hide, State.freeStream_hide, State.promptEnded_hide, h_shell, h_str, h_ren, h_churn, h_skim, h_reqs, h_rat, h_stw, h_mbox, h_ports, foldl_hide, ite_hide, ite_self, implies_true, and_self]))

theorem State.takeBuffer_hide (h_shell : StateUnit.shell ∈ hid) (h_str : StateUnit.str ∈ hid) (h_ren : StateUnit.ren ∈ hid) (h_churn : StateUnit.churn ∈ hid) (h_skim : StateUnit.skim ∈ hid) (h_reqs : StateUnit.reqs ∈ hid) (h_rat : StateUnit.rat ∈ hid) (h_stw : StateUnit.stw ∈ hid) (h_mbox : StateUnit.mbox ∈ hid) (h_regs : StateUnit.regs ∈ hid) (h_log : StateUnit.log ∈ hid) (h_ports : StateUnit.ports ∈ hid)  (i : Nat) (x : Stream) (v : Vocab) (b : InBuffer) (text : List Byte) (s : State) : (State.takeBuffer s i x v b text).hide hid = s.hide hid := by
  unfold State.takeBuffer
  try dsimp only
  repeat' (first | with_reducible rfl | (simp only [State.waitLine_hide, State.applyWork_hide, State.stopWith_hide, State.finishBuffer_hide, h_shell, h_str, h_ren, h_churn, h_skim, h_reqs, h_rat, h_stw, h_mbox, h_regs, h_log, h_ports, foldl_hide, ite_hide, ite_self, implies_true, and_self]; done) | (with_reducible refine (foldl_hide _ (fun s x => ?_) _ _).trans ?_) | split | (simp only [State.waitLine_hide, State.applyWork_hide, State.stopWith_hide, State.finishBuffer_hide, h_shell, h_str, h_ren, h_churn, h_skim, h_reqs, h_rat, h_stw, h_mbox, h_regs, h_log, h_ports, foldl_hide, ite_hide, ite_self, implies_true, and_self]))

theorem State.laneError_hide (h_churn : StateUnit.churn ∈ hid) (h_regs : StateUnit.regs ∈ hid) (h_log : StateUnit.log ∈ hid)  (l : Nat) (s : State) : (State.laneError s l).hide hid = s.hide hid := by
  unfold State.laneError
  try dsimp only
  repeat' (first | with_reducible rfl | (simp only [State.logErr_hide, State.modChurn_hide, h_churn, h_regs, h_log, foldl_hide, ite_hide, ite_self, implies_true, and_self]; done) | (with_reducible refine (foldl_hide _ (fun s x => ?_) _ _).trans ?_) | split | (simp only [State.logErr_hide, State.modChurn_hide, h_churn, h_regs, h_log, foldl_hide, ite_hide, ite_self, implies_true, and_self]))

theorem State.lineLost_hide (h_churn : StateUnit.churn ∈ hid) (h_regs : StateUnit.regs ∈ hid) (h_log : StateUnit.log ∈ hid)  (tag : LineTag) (s : State) : (State.lineLost s tag).hide hid = s.hide hid := by
  unfold State.lineLost
  try dsimp only
  repeat' (first | with_reducible rfl | (simp only [State.logErr_hide, State.modChurn_hide, h_churn, h_regs, h_log, foldl_hide, ite_hide, ite_self, implies_true, and_self]; done) | (with_reducible refine (foldl_hide _ (fun s x => ?_) _ _).trans ?_) | split | (simp only [State.logErr_hide, State.modChurn_hide, h_churn, h_regs, h_log, foldl_hide, ite_hide, ite_self, implies_true, and_self]))

theorem State.lineFault_hide (h_churn : StateUnit.churn ∈ hid) (h_regs : StateUnit.regs ∈ hid) (h_log : StateUnit.log ∈ hid)  (x : Stream) (v : Vocab) (fault : ChurnFault) (s : State) : (State.lineFault s x v fault).hide hid = s.hide hid := by
  unfold State.lineFault
  try dsimp only
  repeat' (first | with_reducible rfl | (simp only [State.lineLost_hide, State.modChurn_hide, h_churn, h_regs, h_log, foldl_hide, ite_hide, ite_self, implies_true, and_self]; done) | (with_reducible refine (foldl_hide _ (fun s x => ?_) _ _).trans ?_) | split | (simp only [State.lineLost_hide, State.modChurn_hide, h_churn, h_regs, h_log, foldl_hide, ite_hide, ite_self, implies_true, and_self]))

theorem execBufferTaken_hide (h_clk : StateUnit.clk ∈ hid) (h_shell : StateUnit.shell ∈ hid) (h_str : StateUnit.str ∈ hid) (h_ren : StateUnit.ren ∈ hid) (h_churn : StateUnit.churn ∈ hid) (h_skim : StateUnit.skim ∈ hid) (h_reqs : StateUnit.reqs ∈ hid) (h_rat : StateUnit.rat ∈ hid) (h_stw : StateUnit.stw ∈ hid) (h_mbox : StateUnit.mbox ∈ hid) (h_regs : StateUnit.regs ∈ hid) (h_log : StateUnit.log ∈ hid) (h_ports : StateUnit.ports ∈ hid) (t : Time) (stream : BitVec 10) (text : Option (List Byte)) (fault : ChurnFault) {s t' : State} (e : execBufferTaken t stream text fault s = .next t') : t'.hide hid = s.hide hid := by
  unfold execBufferTaken at e
  try dsimp only at e
  rw [Host.Outcome.next.injEq] at e
  subst e
  repeat' (first | with_reducible rfl | (simp only [State.at_hide, State.waitLine_hide, State.stopFault_hide, State.takeBuffer_hide, State.laneError_hide, State.lineFault_hide, h_clk, h_shell, h_str, h_ren, h_churn, h_skim, h_reqs, h_rat, h_stw, h_mbox, h_regs, h_log, h_ports, foldl_hide, ite_hide, ite_self, implies_true, and_self]; done) | (with_reducible refine (foldl_hide _ (fun s x => ?_) _ _).trans ?_) | split | (simp only [State.at_hide, State.waitLine_hide, State.stopFault_hide, State.takeBuffer_hide, State.laneError_hide, State.lineFault_hide, h_clk, h_shell, h_str, h_ren, h_churn, h_skim, h_reqs, h_rat, h_stw, h_mbox, h_regs, h_log, h_ports, foldl_hide, ite_hide, ite_self, implies_true, and_self]))

theorem execEntryReport_hide (h_clk : StateUnit.clk ∈ hid) (h_shell : StateUnit.shell ∈ hid) (h_str : StateUnit.str ∈ hid) (h_ren : StateUnit.ren ∈ hid) (h_churn : StateUnit.churn ∈ hid) (h_skim : StateUnit.skim ∈ hid) (h_reqs : StateUnit.reqs ∈ hid) (h_rat : StateUnit.rat ∈ hid) (h_stw : StateUnit.stw ∈ hid) (h_mbox : StateUnit.mbox ∈ hid) (h_regs : StateUnit.regs ∈ hid) (h_log : StateUnit.log ∈ hid) (h_ports : StateUnit.ports ∈ hid) (t : Time) (stream : BitVec 10) (text : List Byte) {s t' : State} (e : execEntryReport t stream text s = .next t') : t'.hide hid = s.hide hid := by
  unfold execEntryReport at e
  try dsimp only at e
  rw [Host.Outcome.next.injEq] at e
  subst e
  repeat' (first | with_reducible rfl | (simp only [State.at_hide, State.modStream_hide, State.reportEntries_hide, State.waitLine_hide, State.applyWork_hide, State.stopWith_hide, h_clk, h_shell, h_str, h_ren, h_churn, h_skim, h_reqs, h_rat, h_stw, h_mbox, h_regs, h_log, h_ports, foldl_hide, ite_hide, ite_self, implies_true, and_self]; done) | (with_reducible refine (foldl_hide _ (fun s x => ?_) _ _).trans ?_) | split | (simp only [State.at_hide, State.modStream_hide, State.reportEntries_hide, State.waitLine_hide, State.applyWork_hide, State.stopWith_hide, h_clk, h_shell, h_str, h_ren, h_churn, h_skim, h_reqs, h_rat, h_stw, h_mbox, h_regs, h_log, h_ports, foldl_hide, ite_hide, ite_self, implies_true, and_self]))

theorem State.fillLands_hide (h_churn : StateUnit.churn ∈ hid)  (f : Fill) (s : State) : (State.fillLands s f).hide hid = s.hide hid := by
  unfold State.fillLands
  try dsimp only
  repeat' (first | with_reducible rfl | (simp only [State.schedule_hide, State.modStream_hide, State.modChurn_hide, h_churn, foldl_hide, ite_hide, ite_self, implies_true, and_self]; done) | (with_reducible refine (foldl_hide _ (fun s x => ?_) _ _).trans ?_) | split | (simp only [State.schedule_hide, State.modStream_hide, State.modChurn_hide, h_churn, foldl_hide, ite_hide, ite_self, implies_true, and_self]))

theorem execVocabFillDone_hide (h_clk : StateUnit.clk ∈ hid) (h_shell : StateUnit.shell ∈ hid) (h_str : StateUnit.str ∈ hid) (h_ren : StateUnit.ren ∈ hid) (h_churn : StateUnit.churn ∈ hid) (h_skim : StateUnit.skim ∈ hid) (h_reqs : StateUnit.reqs ∈ hid) (h_rat : StateUnit.rat ∈ hid) (h_stw : StateUnit.stw ∈ hid) (h_mbox : StateUnit.mbox ∈ hid) (h_regs : StateUnit.regs ∈ hid) (h_log : StateUnit.log ∈ hid) (h_ports : StateUnit.ports ∈ hid) (t : Time) (vidx : BitVec 6) (line : Nat) (ok : Bool) {s t' : State} (e : execVocabFillDone t vidx line ok s = .next t') : t'.hide hid = s.hide hid := by
  unfold execVocabFillDone at e
  try dsimp only at e
  rw [Host.Outcome.next.injEq] at e
  subst e
  repeat' (first | with_reducible rfl | (simp only [State.at_hide, State.celDone_hide, State.schedule_hide, State.modStream_hide, State.issueAllFills_hide, State.stopFault_hide, State.fillLands_hide, State.modChurn_hide, h_clk, h_shell, h_str, h_ren, h_churn, h_skim, h_reqs, h_rat, h_stw, h_mbox, h_regs, h_log, h_ports, foldl_hide, ite_hide, ite_self, implies_true, and_self]; done) | (with_reducible refine (foldl_hide _ (fun s x => ?_) _ _).trans ?_) | split | (simp only [State.at_hide, State.celDone_hide, State.schedule_hide, State.modStream_hide, State.issueAllFills_hide, State.stopFault_hide, State.fillLands_hide, State.modChurn_hide, h_clk, h_shell, h_str, h_ren, h_churn, h_skim, h_reqs, h_rat, h_stw, h_mbox, h_regs, h_log, h_ports, foldl_hide, ite_hide, ite_self, implies_true, and_self]))

theorem execPartitionRetune_hide (h_clk : StateUnit.clk ∈ hid) (h_churn : StateUnit.churn ∈ hid) (t : Time) {s t' : State} (e : execPartitionRetune t s = .next t') : t'.hide hid = s.hide hid := by
  unfold execPartitionRetune at e
  try dsimp only at e
  rw [Host.Outcome.next.injEq] at e
  subst e
  repeat' (first | with_reducible rfl | (simp only [State.at_hide, State.modChurn_hide, h_clk, h_churn, foldl_hide, ite_hide, ite_self, implies_true, and_self]; done) | (with_reducible refine (foldl_hide _ (fun s x => ?_) _ _).trans ?_) | split | (simp only [State.at_hide, State.modChurn_hide, h_clk, h_churn, foldl_hide, ite_hide, ite_self, implies_true, and_self]))

/-! ### Machine/Build.lean -/

theorem State.askItem_hide (h_ren : StateUnit.ren ∈ hid) (h_ports : StateUnit.ports ∈ hid)  (g : Grammar) (cls : Nat) (k : FillKind) (s : State) : (State.askItem s g cls k).hide hid = s.hide hid := by
  unfold State.askItem
  try dsimp only
  repeat' (first | with_reducible rfl | (simp only [State.celAccess_hide, State.modPorts_hide, State.modRen_hide, h_ren, h_ports, foldl_hide, ite_hide, ite_self, implies_true, and_self]; done) | (with_reducible refine (foldl_hide _ (fun s x => ?_) _ _).trans ?_) | split | (simp only [State.celAccess_hide, State.modPorts_hide, State.modRen_hide, h_ren, h_ports, foldl_hide, ite_hide, ite_self, implies_true, and_self]))

theorem State.askItems_hide (h_ren : StateUnit.ren ∈ hid) (h_ports : StateUnit.ports ∈ hid)  (g : Grammar) (cls : Nat) (ks : List FillKind) (s : State) : (State.askItems s g cls ks).hide hid = s.hide hid := by
  unfold State.askItems
  try dsimp only
  repeat' (first | with_reducible rfl | (simp only [State.askItem_hide, h_ren, h_ports, foldl_hide, ite_hide, ite_self, implies_true, and_self]; done) | (with_reducible refine (foldl_hide _ (fun s x => ?_) _ _).trans ?_) | split | (simp only [State.askItem_hide, h_ren, h_ports, foldl_hide, ite_hide, ite_self, implies_true, and_self]))

theorem State.pinKeys_hide (h_ren : StateUnit.ren ∈ hid)  (f : Shape) (slot : Nat) (step : Nat) (g : Grammar) (sts : List GState) (s : State) : (State.pinKeys s f slot step g sts).hide hid = s.hide hid := by
  unfold State.pinKeys
  try dsimp only
  repeat' (first | with_reducible rfl | (simp only [State.releasePins_hide, State.modRen_hide, h_ren, Vat.release_mem, Vat.release_tags, Vat.release_checks, Vat.release_parity, Vat.release_banks, foldl_hide, ite_hide, ite_self, implies_true, and_self]; done) | (with_reducible refine (foldl_hide _ (fun s x => ?_) _ _).trans ?_) | split | (simp only [State.releasePins_hide, State.modRen_hide, h_ren, Vat.release_mem, Vat.release_tags, Vat.release_checks, Vat.release_parity, Vat.release_banks, foldl_hide, ite_hide, ite_self, implies_true, and_self]))

theorem State.chooseDrafts_hide (h_ren : StateUnit.ren ∈ hid) (h_reqs : StateUnit.reqs ∈ hid) (h_ports : StateUnit.ports ∈ hid)  (f : Shape) (r : Request) (s : State) : (State.chooseDrafts s f r).1.hide hid = s.hide hid := by
  unfold State.chooseDrafts
  try dsimp only
  repeat' (first | with_reducible rfl | (simp only [State.modReq_hide, State.askItems_hide, h_ren, h_reqs, h_ports, foldl_hide, ite_hide, ite_self, implies_true, and_self]; done) | (with_reducible refine (foldl_hide _ (fun s x => ?_) _ _).trans ?_) | split | (simp only [State.modReq_hide, State.askItems_hide, h_ren, h_reqs, h_ports, foldl_hide, ite_hide, ite_self, implies_true, and_self]))

theorem State.newBuild_hide (h_ren : StateUnit.ren ∈ hid) (h_reqs : StateUnit.reqs ∈ hid) (h_ports : StateUnit.ports ∈ hid)  (f : Shape) (step : Nat) (decodes : Bool) (r : Request) (s : State) : (State.newBuild s f step decodes r).1.hide hid = s.hide hid := by
  unfold State.newBuild
  try dsimp only
  repeat' (first | with_reducible rfl | (simp only [State.modReq_hide, State.chooseDrafts_hide, h_ren, h_reqs, h_ports, foldl_hide, ite_hide, ite_self, implies_true, and_self]; done) | (with_reducible refine (foldl_hide _ (fun s x => ?_) _ _).trans ?_) | split | (simp only [State.modReq_hide, State.chooseDrafts_hide, h_ren, h_reqs, h_ports, foldl_hide, ite_hide, ite_self, implies_true, and_self]))

theorem State.beginBuild_hide (h_ren : StateUnit.ren ∈ hid) (h_reqs : StateUnit.reqs ∈ hid) (h_ports : StateUnit.ports ∈ hid)  (f : Shape) (step : Nat) (decodes : Bool) (r : Request) (s : State) : (State.beginBuild s f step decodes r).1.hide hid = s.hide hid := by
  unfold State.beginBuild
  try dsimp only
  repeat' (first | with_reducible rfl | (simp only [State.newBuild_hide, h_ren, h_reqs, h_ports, foldl_hide, ite_hide, ite_self, implies_true, and_self]; done) | (with_reducible refine (foldl_hide _ (fun s x => ?_) _ _).trans ?_) | split | (simp only [State.newBuild_hide, h_ren, h_reqs, h_ports, foldl_hide, ite_hide, ite_self, implies_true, and_self]))

theorem State.readyTest_hide (h_ren : StateUnit.ren ∈ hid) (h_reqs : StateUnit.reqs ∈ hid) (h_ports : StateUnit.ports ∈ hid)  (f : Shape) (r : Request) (b : NextBuild) (keys : List GState) (s : State) : (State.readyTest s f r b keys).1.hide hid = s.hide hid := by
  unfold State.readyTest
  try dsimp only
  repeat' (first | with_reducible rfl | (simp only [State.modReq_hide, State.askItems_hide, h_ren, h_reqs, h_ports, foldl_hide, ite_hide, ite_self, implies_true, and_self]; done) | (with_reducible refine (foldl_hide _ (fun s x => ?_) _ _).trans ?_) | split | (simp only [State.modReq_hide, State.askItems_hide, h_ren, h_reqs, h_ports, foldl_hide, ite_hide, ite_self, implies_true, and_self]))

theorem State.plan_hide (h_ren : StateUnit.ren ∈ hid) (h_reqs : StateUnit.reqs ∈ hid) (h_ports : StateUnit.ports ∈ hid)  (f : Shape) (step : Nat) (r : Request) (s : State) : (State.plan s f step r).1.hide hid = s.hide hid := by
  unfold State.plan
  try dsimp only
  repeat' (first | with_reducible rfl | (simp only [State.beginBuild_hide, State.readyTest_hide, h_ren, h_reqs, h_ports, foldl_hide, ite_hide, ite_self, implies_true, and_self]; done) | (with_reducible refine (foldl_hide _ (fun s x => ?_) _ _).trans ?_) | split | (simp only [State.beginBuild_hide, State.readyTest_hide, h_ren, h_reqs, h_ports, foldl_hide, ite_hide, ite_self, implies_true, and_self]))

theorem State.sendDecision_hide (h_coll : StateUnit.coll ∈ hid) (h_reqs : StateUnit.reqs ∈ hid)  (slot : Nat) (e : Entry) (rec_ : TokRecord) (s : State) : (State.sendDecision s slot e rec_).hide hid = s.hide hid := by
  unfold State.sendDecision
  try dsimp only
  repeat' (first | with_reducible rfl | (simp only [State.modReq_hide, State.post_hide, State.spreadOn_hide, h_coll, h_reqs, foldl_hide, ite_hide, ite_self, implies_true, and_self]; done) | (with_reducible refine (foldl_hide _ (fun s x => ?_) _ _).trans ?_) | split | (simp only [State.modReq_hide, State.post_hide, State.spreadOn_hide, h_coll, h_reqs, foldl_hide, ite_hide, ite_self, implies_true, and_self]))

theorem State.putPlan_hide (h_shell : StateUnit.shell ∈ hid) (h_ren : StateUnit.ren ∈ hid) (h_coll : StateUnit.coll ∈ hid) (h_reqs : StateUnit.reqs ∈ hid) (h_stw : StateUnit.stw ∈ hid)  (slot : Nat) (step : Nat) (r : Option Request) (p : Plan) (s : State) : (State.putPlan s slot step r p).hide hid = s.hide hid := by
  unfold State.putPlan
  try dsimp only
  repeat' (first | with_reducible rfl | (simp only [State.modReq_hide, State.useHot_hide, State.writeEntry_hide, State.pinKeys_hide, State.sendDecision_hide, State.modStw_hide, h_shell, h_ren, h_coll, h_reqs, h_stw, foldl_hide, ite_hide, ite_self, implies_true, and_self]; done) | (with_reducible refine (foldl_hide _ (fun s x => ?_) _ _).trans ?_) | split | (simp only [State.modReq_hide, State.useHot_hide, State.writeEntry_hide, State.pinKeys_hide, State.sendDecision_hide, State.modStw_hide, h_shell, h_ren, h_coll, h_reqs, h_stw, foldl_hide, ite_hide, ite_self, implies_true, and_self]))

theorem State.switchGrammar_hide (h_reqs : StateUnit.reqs ∈ hid)  (r : Request) (s : State) : (State.switchGrammar s r).hide hid = s.hide hid := by
  unfold State.switchGrammar
  try dsimp only
  repeat' (first | with_reducible rfl | (simp only [State.modReq_hide, h_reqs, foldl_hide, ite_hide, ite_self, implies_true, and_self]; done) | (with_reducible refine (foldl_hide _ (fun s x => ?_) _ _).trans ?_) | split | (simp only [State.modReq_hide, h_reqs, foldl_hide, ite_hide, ite_self, implies_true, and_self]))

theorem State.logDeadKey_hide (h_ren : StateUnit.ren ∈ hid) (h_regs : StateUnit.regs ∈ hid) (h_log : StateUnit.log ∈ hid)  (g : Grammar) (q : GState) (s : State) : (State.logDeadKey s g q).hide hid = s.hide hid := by
  unfold State.logDeadKey
  try dsimp only
  repeat' (first | with_reducible rfl | (simp only [State.logReadFault_hide, h_ren, h_regs, h_log, foldl_hide, ite_hide, ite_self, implies_true, and_self]; done) | (with_reducible refine (foldl_hide _ (fun s x => ?_) _ _).trans ?_) | split | (simp only [State.logReadFault_hide, h_ren, h_regs, h_log, foldl_hide, ite_hide, ite_self, implies_true, and_self]))

theorem State.endStartDead_hide (h_shell : StateUnit.shell ∈ hid) (h_str : StateUnit.str ∈ hid) (h_ren : StateUnit.ren ∈ hid) (h_churn : StateUnit.churn ∈ hid) (h_skim : StateUnit.skim ∈ hid) (h_reqs : StateUnit.reqs ∈ hid) (h_stw : StateUnit.stw ∈ hid) (h_mbox : StateUnit.mbox ∈ hid) (h_regs : StateUnit.regs ∈ hid) (h_log : StateUnit.log ∈ hid) (h_ports : StateUnit.ports ∈ hid)  (r : Request) (s : State) : (State.endStartDead s r).hide hid = s.hide hid := by
  unfold State.endStartDead
  try dsimp only
  repeat' (first | with_reducible rfl | (simp only [State.endOutput_hide, State.logDeadKey_hide, h_shell, h_str, h_ren, h_churn, h_skim, h_reqs, h_stw, h_mbox, h_regs, h_log, h_ports, foldl_hide, ite_hide, ite_self, implies_true, and_self]; done) | (with_reducible refine (foldl_hide _ (fun s x => ?_) _ _).trans ?_) | split | (simp only [State.endOutput_hide, State.logDeadKey_hide, h_shell, h_str, h_ren, h_churn, h_skim, h_reqs, h_stw, h_mbox, h_regs, h_log, h_ports, foldl_hide, ite_hide, ite_self, implies_true, and_self]))

theorem State.buildEnds_hide (h_shell : StateUnit.shell ∈ hid) (h_str : StateUnit.str ∈ hid) (h_ren : StateUnit.ren ∈ hid) (h_churn : StateUnit.churn ∈ hid) (h_skim : StateUnit.skim ∈ hid) (h_reqs : StateUnit.reqs ∈ hid) (h_stw : StateUnit.stw ∈ hid) (h_mbox : StateUnit.mbox ∈ hid) (h_regs : StateUnit.regs ∈ hid) (h_log : StateUnit.log ∈ hid) (h_ports : StateUnit.ports ∈ hid)  (h : Handle) (s : State) : (State.buildEnds s h).hide hid = s.hide hid := by
  unfold State.buildEnds
  try dsimp only
  repeat' (first | with_reducible rfl | (simp only [State.endOutput_hide, State.switchGrammar_hide, State.endStartDead_hide, h_shell, h_str, h_ren, h_churn, h_skim, h_reqs, h_stw, h_mbox, h_regs, h_log, h_ports, foldl_hide, ite_hide, ite_self, implies_true, and_self]; done) | (with_reducible refine (foldl_hide _ (fun s x => ?_) _ _).trans ?_) | split | (simp only [State.endOutput_hide, State.switchGrammar_hide, State.endStartDead_hide, h_shell, h_str, h_ren, h_churn, h_skim, h_reqs, h_stw, h_mbox, h_regs, h_log, h_ports, foldl_hide, ite_hide, ite_self, implies_true, and_self]))

theorem State.buildSlot_hide (h_shell : StateUnit.shell ∈ hid) (h_str : StateUnit.str ∈ hid) (h_ren : StateUnit.ren ∈ hid) (h_churn : StateUnit.churn ∈ hid) (h_skim : StateUnit.skim ∈ hid) (h_coll : StateUnit.coll ∈ hid) (h_reqs : StateUnit.reqs ∈ hid) (h_stw : StateUnit.stw ∈ hid) (h_mbox : StateUnit.mbox ∈ hid) (h_regs : StateUnit.regs ∈ hid) (h_log : StateUnit.log ∈ hid) (h_ports : StateUnit.ports ∈ hid)  (slot : Nat) (s : State) : (State.buildSlot s slot).hide hid = s.hide hid := by
  unfold State.buildSlot
  try dsimp only
  repeat' (first | with_reducible rfl | (simp only [State.sweepPins_hide, State.plan_hide, State.putPlan_hide, State.buildEnds_hide, h_shell, h_str, h_ren, h_churn, h_skim, h_coll, h_reqs, h_stw, h_mbox, h_regs, h_log, h_ports, foldl_hide, ite_hide, ite_self, implies_true, and_self]; done) | (with_reducible refine (foldl_hide _ (fun s x => ?_) _ _).trans ?_) | split | (simp only [State.sweepPins_hide, State.plan_hide, State.putPlan_hide, State.buildEnds_hide, h_shell, h_str, h_ren, h_churn, h_skim, h_coll, h_reqs, h_stw, h_mbox, h_regs, h_log, h_ports, foldl_hide, ite_hide, ite_self, implies_true, and_self]))

theorem State.retryBuild_hide (h_shell : StateUnit.shell ∈ hid) (h_str : StateUnit.str ∈ hid) (h_ren : StateUnit.ren ∈ hid) (h_churn : StateUnit.churn ∈ hid) (h_skim : StateUnit.skim ∈ hid) (h_coll : StateUnit.coll ∈ hid) (h_reqs : StateUnit.reqs ∈ hid) (h_stw : StateUnit.stw ∈ hid) (h_mbox : StateUnit.mbox ∈ hid) (h_regs : StateUnit.regs ∈ hid) (h_log : StateUnit.log ∈ hid) (h_ports : StateUnit.ports ∈ hid)  (slot : Nat) (s : State) : (State.retryBuild s slot).hide hid = s.hide hid := by
  unfold State.retryBuild
  try dsimp only
  repeat' (first | with_reducible rfl | (simp only [State.buildSlot_hide, h_shell, h_str, h_ren, h_churn, h_skim, h_coll, h_reqs, h_stw, h_mbox, h_regs, h_log, h_ports, foldl_hide, ite_hide, ite_self, implies_true, and_self]; done) | (with_reducible refine (foldl_hide _ (fun s x => ?_) _ _).trans ?_) | split | (simp only [State.buildSlot_hide, h_shell, h_str, h_ren, h_churn, h_skim, h_coll, h_reqs, h_stw, h_mbox, h_regs, h_log, h_ports, foldl_hide, ite_hide, ite_self, implies_true, and_self]))

theorem State.retryBuilds_hide (h_shell : StateUnit.shell ∈ hid) (h_str : StateUnit.str ∈ hid) (h_ren : StateUnit.ren ∈ hid) (h_churn : StateUnit.churn ∈ hid) (h_skim : StateUnit.skim ∈ hid) (h_coll : StateUnit.coll ∈ hid) (h_reqs : StateUnit.reqs ∈ hid) (h_stw : StateUnit.stw ∈ hid) (h_mbox : StateUnit.mbox ∈ hid) (h_regs : StateUnit.regs ∈ hid) (h_log : StateUnit.log ∈ hid) (h_ports : StateUnit.ports ∈ hid)   (s : State) : (State.retryBuilds s).hide hid = s.hide hid := by
  unfold State.retryBuilds
  try dsimp only
  repeat' (first | with_reducible rfl | (simp only [State.retryBuild_hide, h_shell, h_str, h_ren, h_churn, h_skim, h_coll, h_reqs, h_stw, h_mbox, h_regs, h_log, h_ports, foldl_hide, ite_hide, ite_self, implies_true, and_self]; done) | (with_reducible refine (foldl_hide _ (fun s x => ?_) _ _).trans ?_) | split | (simp only [State.retryBuild_hide, h_shell, h_str, h_ren, h_churn, h_skim, h_coll, h_reqs, h_stw, h_mbox, h_regs, h_log, h_ports, foldl_hide, ite_hide, ite_self, implies_true, and_self]))

/-! ### Machine/Commit.lean -/

theorem State.handSkim_hide (h_skim : StateUnit.skim ∈ hid)  (h : Handle) (toks : List (TokenId × Bool × Bool)) (fin : Option Nat) (s : State) : (State.handSkim s h toks fin).hide hid = s.hide hid := by
  unfold State.handSkim
  try dsimp only
  repeat' (first | with_reducible rfl | (simp only [State.modSkim_hide, h_skim, foldl_hide, ite_hide, ite_self, implies_true, and_self]; done) | (with_reducible refine (foldl_hide _ (fun s x => ?_) _ _).trans ?_) | split | (simp only [State.modSkim_hide, h_skim, foldl_hide, ite_hide, ite_self, implies_true, and_self]))

theorem State.countGrammar_hide (h_ren : StateUnit.ren ∈ hid)  (h : Handle) (s : State) : (State.countGrammar s h).hide hid = s.hide hid := by
  unfold State.countGrammar
  try dsimp only
  repeat' (first | with_reducible rfl | (simp only [State.modRen_hide, h_ren, foldl_hide, ite_hide, ite_self, implies_true, and_self]; done) | (with_reducible refine (foldl_hide _ (fun s x => ?_) _ _).trans ?_) | split | (simp only [State.modRen_hide, h_ren, foldl_hide, ite_hide, ite_self, implies_true, and_self]))

theorem State.logDeadEnd_hide (h_ren : StateUnit.ren ∈ hid) (h_regs : StateUnit.regs ∈ hid) (h_log : StateUnit.log ∈ hid)  (h : Handle) (s : State) : (State.logDeadEnd s h).hide hid = s.hide hid := by
  unfold State.logDeadEnd
  try dsimp only
  repeat' (first | with_reducible rfl | (simp only [State.logDeadKey_hide, h_ren, h_regs, h_log, foldl_hide, ite_hide, ite_self, implies_true, and_self]; done) | (with_reducible refine (foldl_hide _ (fun s x => ?_) _ _).trans ?_) | split | (simp only [State.logDeadKey_hide, h_ren, h_regs, h_log, foldl_hide, ite_hide, ite_self, implies_true, and_self]))

theorem State.commitOne_hide (h_drw : StateUnit.drw ∈ hid) (h_ren : StateUnit.ren ∈ hid) (h_reqs : StateUnit.reqs ∈ hid) (h_rat : StateUnit.rat ∈ hid) (h_regs : StateUnit.regs ∈ hid) (h_log : StateUnit.log ∈ hid)  (r : Request) (slot : Nat) (fed : Nat) (d : Decided) (marks : List (TokenId × Bool × Bool)) (s : State) : (State.commitOne s r slot fed d marks).hide hid = s.hide hid := by
  unfold State.commitOne
  try dsimp only
  repeat' (first | with_reducible rfl | (simp only [State.modReq_hide, State.useHot_hide, State.chargeReq_hide, State.serve1_hide, State.countGrammar_hide, State.logDeadEnd_hide, State.modDrw_hide, h_drw, h_ren, h_reqs, h_rat, h_regs, h_log, foldl_hide, ite_hide, ite_self, implies_true, and_self]; done) | (with_reducible refine (foldl_hide _ (fun s x => ?_) _ _).trans ?_) | split | (simp only [State.modReq_hide, State.useHot_hide, State.chargeReq_hide, State.serve1_hide, State.countGrammar_hide, State.logDeadEnd_hide, State.modDrw_hide, h_drw, h_ren, h_reqs, h_rat, h_regs, h_log, foldl_hide, ite_hide, ite_self, implies_true, and_self]))

theorem State.settleSlot_hide (h_coll : StateUnit.coll ∈ hid) (h_reqs : StateUnit.reqs ∈ hid)  (slot : Nat) (s : State) : (State.settleSlot s slot).hide hid = s.hide hid := by
  unfold State.settleSlot
  try dsimp only
  repeat' (first | with_reducible rfl | (simp only [State.modColl_hide, State.modReqs_hide, h_coll, h_reqs, foldl_hide, ite_hide, ite_self, implies_true, and_self]; done) | (with_reducible refine (foldl_hide _ (fun s x => ?_) _ _).trans ?_) | split | (simp only [State.modColl_hide, State.modReqs_hide, h_coll, h_reqs, foldl_hide, ite_hide, ite_self, implies_true, and_self]))

theorem State.afterCommit_hide (h_shell : StateUnit.shell ∈ hid) (h_str : StateUnit.str ∈ hid) (h_ren : StateUnit.ren ∈ hid) (h_churn : StateUnit.churn ∈ hid) (h_skim : StateUnit.skim ∈ hid) (h_coll : StateUnit.coll ∈ hid) (h_reqs : StateUnit.reqs ∈ hid) (h_stw : StateUnit.stw ∈ hid) (h_mbox : StateUnit.mbox ∈ hid) (h_regs : StateUnit.regs ∈ hid) (h_log : StateUnit.log ∈ hid) (h_ports : StateUnit.ports ∈ hid)  (h : Handle) (slot : Nat) (reason : Nat) (s : State) : (State.afterCommit s h slot reason).hide hid = s.hide hid := by
  unfold State.afterCommit
  try dsimp only
  repeat' (first | with_reducible rfl | (simp only [State.endOutput_hide, State.buildSlot_hide, h_shell, h_str, h_ren, h_churn, h_skim, h_coll, h_reqs, h_stw, h_mbox, h_regs, h_log, h_ports, foldl_hide, ite_hide, ite_self, implies_true, and_self]; done) | (with_reducible refine (foldl_hide _ (fun s x => ?_) _ _).trans ?_) | split | (simp only [State.endOutput_hide, State.buildSlot_hide, h_shell, h_str, h_ren, h_churn, h_skim, h_coll, h_reqs, h_stw, h_mbox, h_regs, h_log, h_ports, foldl_hide, ite_hide, ite_self, implies_true, and_self]))

theorem State.awaitVerdict_hide (h_reqs : StateUnit.reqs ∈ hid)  (r : Request) (n : Nat) (reason : Nat) (s : State) : (State.awaitVerdict s r n reason).hide hid = s.hide hid := by
  unfold State.awaitVerdict
  try dsimp only
  repeat' (first | with_reducible rfl | (simp only [State.modReq_hide, h_reqs, foldl_hide, ite_hide, ite_self, implies_true, and_self]; done) | (with_reducible refine (foldl_hide _ (fun s x => ?_) _ _).trans ?_) | split | (simp only [State.modReq_hide, h_reqs, foldl_hide, ite_hide, ite_self, implies_true, and_self]))

theorem State.commitDecided_hide (h_shell : StateUnit.shell ∈ hid) (h_str : StateUnit.str ∈ hid) (h_drw : StateUnit.drw ∈ hid) (h_ren : StateUnit.ren ∈ hid) (h_churn : StateUnit.churn ∈ hid) (h_skim : StateUnit.skim ∈ hid) (h_coll : StateUnit.coll ∈ hid) (h_reqs : StateUnit.reqs ∈ hid) (h_rat : StateUnit.rat ∈ hid) (h_stw : StateUnit.stw ∈ hid) (h_mbox : StateUnit.mbox ∈ hid) (h_regs : StateUnit.regs ∈ hid) (h_log : StateUnit.log ∈ hid) (h_ports : StateUnit.ports ∈ hid)  (r : Request) (slot : Nat) (fed : Nat) (posn : Nat) (d : Decided) (s : State) : (State.commitDecided s r slot fed posn d).hide hid = s.hide hid := by
  unfold State.commitDecided
  try dsimp only
  repeat' (first | with_reducible rfl | (simp only [State.handSkim_hide, State.commitOne_hide, State.settleSlot_hide, State.afterCommit_hide, State.awaitVerdict_hide, h_shell, h_str, h_drw, h_ren, h_churn, h_skim, h_coll, h_reqs, h_rat, h_stw, h_mbox, h_regs, h_log, h_ports, foldl_hide, ite_hide, ite_self, implies_true, and_self]; done) | (with_reducible refine (foldl_hide _ (fun s x => ?_) _ _).trans ?_) | split | (simp only [State.handSkim_hide, State.commitOne_hide, State.settleSlot_hide, State.afterCommit_hide, State.awaitVerdict_hide, h_shell, h_str, h_drw, h_ren, h_churn, h_skim, h_coll, h_reqs, h_rat, h_stw, h_mbox, h_regs, h_log, h_ports, foldl_hide, ite_hide, ite_self, implies_true, and_self]))

theorem State.commitPrefill_hide (h_shell : StateUnit.shell ∈ hid) (h_str : StateUnit.str ∈ hid) (h_ren : StateUnit.ren ∈ hid) (h_churn : StateUnit.churn ∈ hid) (h_skim : StateUnit.skim ∈ hid) (h_coll : StateUnit.coll ∈ hid) (h_reqs : StateUnit.reqs ∈ hid) (h_rat : StateUnit.rat ∈ hid) (h_stw : StateUnit.stw ∈ hid) (h_mbox : StateUnit.mbox ∈ hid) (h_regs : StateUnit.regs ∈ hid) (h_log : StateUnit.log ∈ hid) (h_ports : StateUnit.ports ∈ hid)  (r : Request) (slot : Nat) (s : State) : (State.commitPrefill s r slot).hide hid = s.hide hid := by
  unfold State.commitPrefill
  try dsimp only
  repeat' (first | with_reducible rfl | (simp only [State.modReq_hide, State.serve1_hide, State.endOutput_hide, State.buildSlot_hide, State.settleSlot_hide, h_shell, h_str, h_ren, h_churn, h_skim, h_coll, h_reqs, h_rat, h_stw, h_mbox, h_regs, h_log, h_ports, foldl_hide, ite_hide, ite_self, implies_true, and_self]; done) | (with_reducible refine (foldl_hide _ (fun s x => ?_) _ _).trans ?_) | split | (simp only [State.modReq_hide, State.serve1_hide, State.endOutput_hide, State.buildSlot_hide, State.settleSlot_hide, h_shell, h_str, h_ren, h_churn, h_skim, h_coll, h_reqs, h_rat, h_stw, h_mbox, h_regs, h_log, h_ports, foldl_hide, ite_hide, ite_self, implies_true, and_self]))

theorem State.dropDryRows_hide (h_shell : StateUnit.shell ∈ hid) (h_str : StateUnit.str ∈ hid) (h_ren : StateUnit.ren ∈ hid)  (slot : Nat) (s : State) : (State.dropDryRows s slot).hide hid = s.hide hid := by
  unfold State.dropDryRows
  try dsimp only
  repeat' (first | with_reducible rfl | (simp only [State.dropRows_hide, h_shell, h_str, h_ren, foldl_hide, ite_hide, ite_self, implies_true, and_self]; done) | (with_reducible refine (foldl_hide _ (fun s x => ?_) _ _).trans ?_) | split | (simp only [State.dropRows_hide, h_shell, h_str, h_ren, foldl_hide, ite_hide, ite_self, implies_true, and_self]))

theorem State.commitDry_hide (h_shell : StateUnit.shell ∈ hid) (h_str : StateUnit.str ∈ hid) (h_ren : StateUnit.ren ∈ hid) (h_churn : StateUnit.churn ∈ hid) (h_skim : StateUnit.skim ∈ hid) (h_coll : StateUnit.coll ∈ hid) (h_reqs : StateUnit.reqs ∈ hid) (h_stw : StateUnit.stw ∈ hid) (h_mbox : StateUnit.mbox ∈ hid) (h_regs : StateUnit.regs ∈ hid) (h_log : StateUnit.log ∈ hid) (h_ports : StateUnit.ports ∈ hid)  (r : Request) (slot : Nat) (s : State) : (State.commitDry s r slot).hide hid = s.hide hid := by
  unfold State.commitDry
  try dsimp only
  repeat' (first | with_reducible rfl | (simp only [State.modReq_hide, State.endOutput_hide, State.buildSlot_hide, State.settleSlot_hide, State.dropDryRows_hide, h_shell, h_str, h_ren, h_churn, h_skim, h_coll, h_reqs, h_stw, h_mbox, h_regs, h_log, h_ports, foldl_hide, ite_hide, ite_self, implies_true, and_self]; done) | (with_reducible refine (foldl_hide _ (fun s x => ?_) _ _).trans ?_) | split | (simp only [State.modReq_hide, State.endOutput_hide, State.buildSlot_hide, State.settleSlot_hide, State.dropDryRows_hide, h_shell, h_str, h_ren, h_churn, h_skim, h_coll, h_reqs, h_stw, h_mbox, h_regs, h_log, h_ports, foldl_hide, ite_hide, ite_self, implies_true, and_self]))

theorem State.dryTogether_hide (h_shell : StateUnit.shell ∈ hid) (h_reqs : StateUnit.reqs ∈ hid)  (slot : Nat) (partner : Option Nat) (s : State) : (State.dryTogether s slot partner).hide hid = s.hide hid := by
  unfold State.dryTogether
  try dsimp only
  repeat' (first | with_reducible rfl | (simp only [State.markDry_hide, h_shell, h_reqs, foldl_hide, ite_hide, ite_self, implies_true, and_self]; done) | (with_reducible refine (foldl_hide _ (fun s x => ?_) _ _).trans ?_) | split | (simp only [State.markDry_hide, h_shell, h_reqs, foldl_hide, ite_hide, ite_self, implies_true, and_self]))

theorem State.commitSlot_hide (h_shell : StateUnit.shell ∈ hid) (h_str : StateUnit.str ∈ hid) (h_drw : StateUnit.drw ∈ hid) (h_ren : StateUnit.ren ∈ hid) (h_churn : StateUnit.churn ∈ hid) (h_skim : StateUnit.skim ∈ hid) (h_coll : StateUnit.coll ∈ hid) (h_reqs : StateUnit.reqs ∈ hid) (h_rat : StateUnit.rat ∈ hid) (h_stw : StateUnit.stw ∈ hid) (h_mbox : StateUnit.mbox ∈ hid) (h_regs : StateUnit.regs ∈ hid) (h_log : StateUnit.log ∈ hid) (h_ports : StateUnit.ports ∈ hid)  (r : Request) (slot : Nat) (s : State) : (State.commitSlot s r slot).hide hid = s.hide hid := by
  unfold State.commitSlot
  try dsimp only
  repeat' (first | with_reducible rfl | (simp only [State.commitDecided_hide, State.commitPrefill_hide, State.commitDry_hide, h_shell, h_str, h_drw, h_ren, h_churn, h_skim, h_coll, h_reqs, h_rat, h_stw, h_mbox, h_regs, h_log, h_ports, foldl_hide, ite_hide, ite_self, implies_true, and_self]; done) | (with_reducible refine (foldl_hide _ (fun s x => ?_) _ _).trans ?_) | split | (simp only [State.commitDecided_hide, State.commitPrefill_hide, State.commitDry_hide, h_shell, h_str, h_drw, h_ren, h_churn, h_skim, h_coll, h_reqs, h_rat, h_stw, h_mbox, h_regs, h_log, h_ports, foldl_hide, ite_hide, ite_self, implies_true, and_self]))

theorem execCommit_hide (h_clk : StateUnit.clk ∈ hid) (h_shell : StateUnit.shell ∈ hid) (h_str : StateUnit.str ∈ hid) (h_drw : StateUnit.drw ∈ hid) (h_ren : StateUnit.ren ∈ hid) (h_churn : StateUnit.churn ∈ hid) (h_skim : StateUnit.skim ∈ hid) (h_coll : StateUnit.coll ∈ hid) (h_reqs : StateUnit.reqs ∈ hid) (h_rat : StateUnit.rat ∈ hid) (h_stw : StateUnit.stw ∈ hid) (h_mbox : StateUnit.mbox ∈ hid) (h_regs : StateUnit.regs ∈ hid) (h_log : StateUnit.log ∈ hid) (h_ports : StateUnit.ports ∈ hid) (t : Time) (slot : BitVec 12) {s t' : State} (e : execCommit t slot s = .next t') : t'.hide hid = s.hide hid := by
  unfold execCommit at e
  try dsimp only at e
  rw [Host.Outcome.next.injEq] at e
  subst e
  repeat' (first | with_reducible rfl | (simp only [State.at_hide, State.dryTogether_hide, State.commitSlot_hide, h_clk, h_shell, h_str, h_drw, h_ren, h_churn, h_skim, h_coll, h_reqs, h_rat, h_stw, h_mbox, h_regs, h_log, h_ports, foldl_hide, ite_hide, ite_self, implies_true, and_self]; done) | (with_reducible refine (foldl_hide _ (fun s x => ?_) _ _).trans ?_) | split | (simp only [State.at_hide, State.dryTogether_hide, State.commitSlot_hide, h_clk, h_shell, h_str, h_drw, h_ren, h_churn, h_skim, h_coll, h_reqs, h_rat, h_stw, h_mbox, h_regs, h_log, h_ports, foldl_hide, ite_hide, ite_self, implies_true, and_self]))

/-! ### Machine/Fill.lean -/

theorem State.takeSlot_hide (h_drw : StateUnit.drw ∈ hid) (h_reqs : StateUnit.reqs ∈ hid)  (h : Handle) (slot : Nat) (s : State) : (State.takeSlot s h slot).hide hid = s.hide hid := by
  unfold State.takeSlot
  try dsimp only
  repeat' (first | with_reducible rfl | (simp only [State.modReq_hide, State.tick_hide, State.modDrw_hide, h_drw, h_reqs, foldl_hide, ite_hide, ite_self, implies_true, and_self]; done) | (with_reducible refine (foldl_hide _ (fun s x => ?_) _ _).trans ?_) | split | (simp only [State.modReq_hide, State.tick_hide, State.modDrw_hide, h_drw, h_reqs, foldl_hide, ite_hide, ite_self, implies_true, and_self]))

theorem State.leaveSlot_hide (h_drw : StateUnit.drw ∈ hid) (h_reqs : StateUnit.reqs ∈ hid)  (h : Handle) (st : ReqState) (s : State) : (State.leaveSlot s h st).hide hid = s.hide hid := by
  unfold State.leaveSlot
  try dsimp only
  repeat' (first | with_reducible rfl | (simp only [State.modReq_hide, State.makeWaiting_hide, State.useHot_hide, State.modDrw_hide, h_drw, h_reqs, foldl_hide, ite_hide, ite_self, implies_true, and_self]; done) | (with_reducible refine (foldl_hide _ (fun s x => ?_) _ _).trans ?_) | split | (simp only [State.modReq_hide, State.makeWaiting_hide, State.useHot_hide, State.modDrw_hide, h_drw, h_reqs, foldl_hide, ite_hide, ite_self, implies_true, and_self]))

theorem State.leavePair_hide (h_drw : StateUnit.drw ∈ hid) (h_reqs : StateUnit.reqs ∈ hid)  (r : Request) (s : State) : (State.leavePair s r).hide hid = s.hide hid := by
  unfold State.leavePair
  try dsimp only
  repeat' (first | with_reducible rfl | (simp only [State.leaveSlot_hide, h_drw, h_reqs, foldl_hide, ite_hide, ite_self, implies_true, and_self]; done) | (with_reducible refine (foldl_hide _ (fun s x => ?_) _ _).trans ?_) | split | (simp only [State.leaveSlot_hide, h_drw, h_reqs, foldl_hide, ite_hide, ite_self, implies_true, and_self]))

theorem State.vacate_hide (h_shell : StateUnit.shell ∈ hid) (h_str : StateUnit.str ∈ hid) (h_drw : StateUnit.drw ∈ hid) (h_ren : StateUnit.ren ∈ hid) (h_churn : StateUnit.churn ∈ hid) (h_skim : StateUnit.skim ∈ hid) (h_reqs : StateUnit.reqs ∈ hid) (h_stw : StateUnit.stw ∈ hid) (h_mbox : StateUnit.mbox ∈ hid) (h_regs : StateUnit.regs ∈ hid) (h_log : StateUnit.log ∈ hid) (h_ports : StateUnit.ports ∈ hid)  (slot : Nat) (s : State) : (State.vacate s slot).hide hid = s.hide hid := by
  unfold State.vacate
  try dsimp only
  repeat' (first | with_reducible rfl | (simp only [State.endOutput_hide, State.buildEnds_hide, State.leavePair_hide, h_shell, h_str, h_drw, h_ren, h_churn, h_skim, h_reqs, h_stw, h_mbox, h_regs, h_log, h_ports, foldl_hide, ite_hide, ite_self, implies_true, and_self]; done) | (with_reducible refine (foldl_hide _ (fun s x => ?_) _ _).trans ?_) | split | (simp only [State.endOutput_hide, State.buildEnds_hide, State.leavePair_hide, h_shell, h_str, h_drw, h_ren, h_churn, h_skim, h_reqs, h_stw, h_mbox, h_regs, h_log, h_ports, foldl_hide, ite_hide, ite_self, implies_true, and_self]))

theorem State.queueOpened_hide (h_reqs : StateUnit.reqs ∈ hid)  (hs : List Handle) (s : State) : (State.queueOpened s hs).hide hid = s.hide hid := by
  unfold State.queueOpened
  try dsimp only
  repeat' (first | with_reducible rfl | (simp only [State.modReq_hide, State.tick_hide, h_reqs, foldl_hide, ite_hide, ite_self, implies_true, and_self]; done) | (with_reducible refine (foldl_hide _ (fun s x => ?_) _ _).trans ?_) | split | (simp only [State.modReq_hide, State.tick_hide, h_reqs, foldl_hide, ite_hide, ite_self, implies_true, and_self]))

theorem State.ousted_hide (h_drw : StateUnit.drw ∈ hid) (h_reqs : StateUnit.reqs ∈ hid)  (slot : Nat) (s : State) : (State.ousted s slot).hide hid = s.hide hid := by
  unfold State.ousted
  try dsimp only
  repeat' (first | with_reducible rfl | (simp only [State.leavePair_hide, h_drw, h_reqs, foldl_hide, ite_hide, ite_self, implies_true, and_self]; done) | (with_reducible refine (foldl_hide _ (fun s x => ?_) _ _).trans ?_) | split | (simp only [State.leavePair_hide, h_drw, h_reqs, foldl_hide, ite_hide, ite_self, implies_true, and_self]))

theorem State.fillSlots_hide (h_drw : StateUnit.drw ∈ hid) (h_reqs : StateUnit.reqs ∈ hid) (h_ports : StateUnit.ports ∈ hid) (g n : Nat) (free : List Nat) (opened : List Handle) (s : State) : (State.fillSlots g n free opened s).hide hid = s.hide hid := by
  induction n generalizing free opened s with
  | zero => rfl
  | succ n ih =>
    unfold State.fillSlots
    try dsimp only
    repeat' (first | with_reducible rfl | (simp only [ih, State.modReq_hide, State.bringHot_hide, State.takeSlot_hide, State.ousted_hide, h_drw, h_reqs, h_ports, foldl_hide, ite_hide, ite_self, implies_true, and_self]; done) | (with_reducible refine (foldl_hide _ (fun s x => ?_) _ _).trans ?_) | split | (simp only [ih, State.modReq_hide, State.bringHot_hide, State.takeSlot_hide, State.ousted_hide, h_drw, h_reqs, h_ports, foldl_hide, ite_hide, ite_self, implies_true, and_self]))

theorem State.joinBacklogs_hide (h_rat : StateUnit.rat ∈ hid)   (s : State) : (State.joinBacklogs s).hide hid = s.hide hid := by
  unfold State.joinBacklogs
  try dsimp only
  repeat' (first | with_reducible rfl | (simp only [State.modRat_hide, h_rat, foldl_hide, ite_hide, ite_self, implies_true, and_self]; done) | (with_reducible refine (foldl_hide _ (fun s x => ?_) _ _).trans ?_) | split | (simp only [State.modRat_hide, h_rat, foldl_hide, ite_hide, ite_self, implies_true, and_self]))

theorem State.writeGather_hide (h_stw : StateUnit.stw ∈ hid) (h_ports : StateUnit.ports ∈ hid)  (p : AdapterPool) (rslot : Nat) (v : Version) (s : State) : (State.writeGather s p rslot v).hide hid = s.hide hid := by
  unfold State.writeGather
  try dsimp only
  repeat' (first | with_reducible rfl | (simp only [State.hostWrite_hide, State.modStw_hide, h_stw, h_ports, foldl_hide, ite_hide, ite_self, implies_true, and_self]; done) | (with_reducible refine (foldl_hide _ (fun s x => ?_) _ _).trans ?_) | split | (simp only [State.hostWrite_hide, State.modStw_hide, h_stw, h_ports, foldl_hide, ite_hide, ite_self, implies_true, and_self]))

theorem State.giveResidency_hide (h_stw : StateUnit.stw ∈ hid) (h_ports : StateUnit.ports ∈ hid)  (h : Handle) (steal : Bool) (s : State) : (State.giveResidency s h steal).hide hid = s.hide hid := by
  unfold State.giveResidency
  try dsimp only
  repeat' (first | with_reducible rfl | (simp only [State.writeGather_hide, State.modStw_hide, h_stw, h_ports, foldl_hide, ite_hide, ite_self, implies_true, and_self]; done) | (with_reducible refine (foldl_hide _ (fun s x => ?_) _ _).trans ?_) | split | (simp only [State.writeGather_hide, State.modStw_hide, h_stw, h_ports, foldl_hide, ite_hide, ite_self, implies_true, and_self]))

theorem State.giveResidencies_hide (h_stw : StateUnit.stw ∈ hid) (h_ports : StateUnit.ports ∈ hid)   (s : State) : (State.giveResidencies s).hide hid = s.hide hid := by
  unfold State.giveResidencies
  try dsimp only
  repeat' (first | with_reducible rfl | (simp only [State.giveResidency_hide, h_stw, h_ports, foldl_hide, ite_hide, ite_self, implies_true, and_self]; done) | (with_reducible refine (foldl_hide _ (fun s x => ?_) _ _).trans ?_) | split | (simp only [State.giveResidency_hide, h_stw, h_ports, foldl_hide, ite_hide, ite_self, implies_true, and_self]))

theorem State.buildEntries_hide (h_shell : StateUnit.shell ∈ hid) (h_str : StateUnit.str ∈ hid) (h_ren : StateUnit.ren ∈ hid) (h_churn : StateUnit.churn ∈ hid) (h_skim : StateUnit.skim ∈ hid) (h_coll : StateUnit.coll ∈ hid) (h_reqs : StateUnit.reqs ∈ hid) (h_stw : StateUnit.stw ∈ hid) (h_mbox : StateUnit.mbox ∈ hid) (h_regs : StateUnit.regs ∈ hid) (h_log : StateUnit.log ∈ hid) (h_ports : StateUnit.ports ∈ hid)  (slots : List Nat) (s : State) : (State.buildEntries s slots).hide hid = s.hide hid := by
  unfold State.buildEntries
  try dsimp only
  repeat' (first | with_reducible rfl | (simp only [State.putPlan_hide, State.buildSlot_hide, h_shell, h_str, h_ren, h_churn, h_skim, h_coll, h_reqs, h_stw, h_mbox, h_regs, h_log, h_ports, foldl_hide, ite_hide, ite_self, implies_true, and_self]; done) | (with_reducible refine (foldl_hide _ (fun s x => ?_) _ _).trans ?_) | split | (simp only [State.putPlan_hide, State.buildSlot_hide, h_shell, h_str, h_ren, h_churn, h_skim, h_coll, h_reqs, h_stw, h_mbox, h_regs, h_log, h_ports, foldl_hide, ite_hide, ite_self, implies_true, and_self]))

theorem State.endDead_hide (h_shell : StateUnit.shell ∈ hid) (h_str : StateUnit.str ∈ hid) (h_ren : StateUnit.ren ∈ hid) (h_churn : StateUnit.churn ∈ hid) (h_skim : StateUnit.skim ∈ hid) (h_reqs : StateUnit.reqs ∈ hid) (h_stw : StateUnit.stw ∈ hid) (h_mbox : StateUnit.mbox ∈ hid) (h_regs : StateUnit.regs ∈ hid) (h_log : StateUnit.log ∈ hid) (h_ports : StateUnit.ports ∈ hid)   (s : State) : (State.endDead s).hide hid = s.hide hid := by
  unfold State.endDead
  try dsimp only
  repeat' (first | with_reducible rfl | (simp only [State.endStartDead_hide, h_shell, h_str, h_ren, h_churn, h_skim, h_reqs, h_stw, h_mbox, h_regs, h_log, h_ports, foldl_hide, ite_hide, ite_self, implies_true, and_self]; done) | (with_reducible refine (foldl_hide _ (fun s x => ?_) _ _).trans ?_) | split | (simp only [State.endStartDead_hide, h_shell, h_str, h_ren, h_churn, h_skim, h_reqs, h_stw, h_mbox, h_regs, h_log, h_ports, foldl_hide, ite_hide, ite_self, implies_true, and_self]))

theorem State.buildManifest_hide (h_shell : StateUnit.shell ∈ hid) (h_str : StateUnit.str ∈ hid) (h_drw : StateUnit.drw ∈ hid) (h_ren : StateUnit.ren ∈ hid) (h_churn : StateUnit.churn ∈ hid) (h_skim : StateUnit.skim ∈ hid) (h_coll : StateUnit.coll ∈ hid) (h_reqs : StateUnit.reqs ∈ hid) (h_rat : StateUnit.rat ∈ hid) (h_stw : StateUnit.stw ∈ hid) (h_mbox : StateUnit.mbox ∈ hid) (h_regs : StateUnit.regs ∈ hid) (h_log : StateUnit.log ∈ hid) (h_ports : StateUnit.ports ∈ hid)   (s : State) : (State.buildManifest s).hide hid = s.hide hid := by
  unfold State.buildManifest
  try dsimp only
  repeat' (first | with_reducible rfl | (simp only [State.vacate_hide, State.queueOpened_hide, State.fillSlots_hide, State.joinBacklogs_hide, State.giveResidencies_hide, State.buildEntries_hide, State.endDead_hide, State.modRat_hide, State.modReqs_hide, h_shell, h_str, h_drw, h_ren, h_churn, h_skim, h_coll, h_reqs, h_rat, h_stw, h_mbox, h_regs, h_log, h_ports, foldl_hide, ite_hide, ite_self, implies_true, and_self]; done) | (with_reducible refine (foldl_hide _ (fun s x => ?_) _ _).trans ?_) | split | (simp only [State.vacate_hide, State.queueOpened_hide, State.fillSlots_hide, State.joinBacklogs_hide, State.giveResidencies_hide, State.buildEntries_hide, State.endDead_hide, State.modRat_hide, State.modReqs_hide, h_shell, h_str, h_drw, h_ren, h_churn, h_skim, h_coll, h_reqs, h_rat, h_stw, h_mbox, h_regs, h_log, h_ports, foldl_hide, ite_hide, ite_self, implies_true, and_self]))

theorem execManifestBuild_hide (h_clk : StateUnit.clk ∈ hid) (h_shell : StateUnit.shell ∈ hid) (h_str : StateUnit.str ∈ hid) (h_drw : StateUnit.drw ∈ hid) (h_ren : StateUnit.ren ∈ hid) (h_churn : StateUnit.churn ∈ hid) (h_skim : StateUnit.skim ∈ hid) (h_coll : StateUnit.coll ∈ hid) (h_reqs : StateUnit.reqs ∈ hid) (h_rat : StateUnit.rat ∈ hid) (h_stw : StateUnit.stw ∈ hid) (h_mbox : StateUnit.mbox ∈ hid) (h_regs : StateUnit.regs ∈ hid) (h_log : StateUnit.log ∈ hid) (h_ports : StateUnit.ports ∈ hid) (t : Time) {s t' : State} (e : execManifestBuild t s = .next t') : t'.hide hid = s.hide hid := by
  unfold execManifestBuild at e
  try dsimp only at e
  rw [Host.Outcome.next.injEq] at e
  subst e
  repeat' (first | with_reducible rfl | (simp only [State.at_hide, State.buildManifest_hide, h_clk, h_shell, h_str, h_drw, h_ren, h_churn, h_skim, h_coll, h_reqs, h_rat, h_stw, h_mbox, h_regs, h_log, h_ports, foldl_hide, ite_hide, ite_self, implies_true, and_self]; done) | (with_reducible refine (foldl_hide _ (fun s x => ?_) _ _).trans ?_) | split | (simp only [State.at_hide, State.buildManifest_hide, h_clk, h_shell, h_str, h_drw, h_ren, h_churn, h_skim, h_coll, h_reqs, h_rat, h_stw, h_mbox, h_regs, h_log, h_ports, foldl_hide, ite_hide, ite_self, implies_true, and_self]))

theorem execMaskCutoff_hide (h_clk : StateUnit.clk ∈ hid) (h_shell : StateUnit.shell ∈ hid) (h_str : StateUnit.str ∈ hid) (h_ren : StateUnit.ren ∈ hid) (h_churn : StateUnit.churn ∈ hid) (h_skim : StateUnit.skim ∈ hid) (h_coll : StateUnit.coll ∈ hid) (h_reqs : StateUnit.reqs ∈ hid) (h_stw : StateUnit.stw ∈ hid) (h_mbox : StateUnit.mbox ∈ hid) (h_regs : StateUnit.regs ∈ hid) (h_log : StateUnit.log ∈ hid) (h_ports : StateUnit.ports ∈ hid) (t : Time) {s t' : State} (e : execMaskCutoff t s = .next t') : t'.hide hid = s.hide hid := by
  unfold execMaskCutoff at e
  try dsimp only at e
  rw [Host.Outcome.next.injEq] at e
  subst e
  repeat' (first | with_reducible rfl | (simp only [State.at_hide, State.retryBuilds_hide, State.modShell_hide, h_clk, h_shell, h_str, h_ren, h_churn, h_skim, h_coll, h_reqs, h_stw, h_mbox, h_regs, h_log, h_ports, foldl_hide, ite_hide, ite_self, implies_true, and_self]; done) | (with_reducible refine (foldl_hide _ (fun s x => ?_) _ _).trans ?_) | split | (simp only [State.at_hide, State.retryBuilds_hide, State.modShell_hide, h_clk, h_shell, h_str, h_ren, h_churn, h_skim, h_coll, h_reqs, h_stw, h_mbox, h_regs, h_log, h_ports, foldl_hide, ite_hide, ite_self, implies_true, and_self]))

/-! ### Machine/RationOps.lean -/

theorem execRecordMoveDone_hide (h_clk : StateUnit.clk ∈ hid) (h_shell : StateUnit.shell ∈ hid) (h_str : StateUnit.str ∈ hid) (h_ren : StateUnit.ren ∈ hid) (h_churn : StateUnit.churn ∈ hid) (h_skim : StateUnit.skim ∈ hid) (h_reqs : StateUnit.reqs ∈ hid) (h_stw : StateUnit.stw ∈ hid) (h_mbox : StateUnit.mbox ∈ hid) (h_ports : StateUnit.ports ∈ hid) (t : Time) (index : BitVec 16) (ecc : Ecc) {s t' : State} (e : execRecordMoveDone t index ecc s = .next t') : t'.hide hid = s.hide hid := by
  unfold execRecordMoveDone at e
  try dsimp only at e
  rw [Host.Outcome.next.injEq] at e
  subst e
  repeat' (first | with_reducible rfl | (simp only [State.at_hide, State.celDone_hide, State.modReq_hide, State.tick_hide, State.endOutput_hide, h_clk, h_shell, h_str, h_ren, h_churn, h_skim, h_reqs, h_stw, h_mbox, h_ports, foldl_hide, ite_hide, ite_self, implies_true, and_self]; done) | (with_reducible refine (foldl_hide _ (fun s x => ?_) _ _).trans ?_) | split | (simp only [State.at_hide, State.celDone_hide, State.modReq_hide, State.tick_hide, State.endOutput_hide, h_clk, h_shell, h_str, h_ren, h_churn, h_skim, h_reqs, h_stw, h_mbox, h_ports, foldl_hide, ite_hide, ite_self, implies_true, and_self]))

theorem execEpochCorrection_hide (h_clk : StateUnit.clk ∈ hid) (h_rat : StateUnit.rat ∈ hid) (h_free : StateUnit.free ∈ hid) (t : Time) {s t' : State} (e : execEpochCorrection t s = .next t') : t'.hide hid = s.hide hid := by
  unfold execEpochCorrection at e
  try dsimp only at e
  rw [Host.Outcome.next.injEq] at e
  subst e
  repeat' (first | with_reducible rfl | (simp only [State.skipFree_hide, State.at_hide, State.modRat_hide, h_clk, h_rat, h_free, foldl_hide, ite_hide, ite_self, implies_true, and_self]; done) | (with_reducible refine (foldl_hide _ (fun s x => ?_) _ _).trans ?_) | split | (simp only [State.skipFree_hide, State.at_hide, State.modRat_hide, h_clk, h_rat, h_free, foldl_hide, ite_hide, ite_self, implies_true, and_self]))

theorem execDoneWordPoll_hide (h_clk : StateUnit.clk ∈ hid) (h_stw : StateUnit.stw ∈ hid) (h_ports : StateUnit.ports ∈ hid) (t : Time) {s t' : State} (e : execDoneWordPoll t s = .next t') : t'.hide hid = s.hide hid := by
  unfold execDoneWordPoll at e
  try dsimp only at e
  rw [Host.Outcome.next.injEq] at e
  subst e
  repeat' (first | with_reducible rfl | (simp only [State.at_hide, State.askHost_hide, State.modStw_hide, h_clk, h_stw, h_ports, foldl_hide, ite_hide, ite_self, implies_true, and_self]; done) | (with_reducible refine (foldl_hide _ (fun s x => ?_) _ _).trans ?_) | split | (simp only [State.at_hide, State.askHost_hide, State.modStw_hide, h_clk, h_stw, h_ports, foldl_hide, ite_hide, ite_self, implies_true, and_self]))

theorem State.gatherFailed_hide (h_stw : StateUnit.stw ∈ hid) (h_regs : StateUnit.regs ∈ hid) (h_log : StateUnit.log ∈ hid) (h_ports : StateUnit.ports ∈ hid)  (p : AdapterPool) (g : Gather) (s : State) : (State.gatherFailed s p g).hide hid = s.hide hid := by
  unfold State.gatherFailed
  try dsimp only
  repeat' (first | with_reducible rfl | (simp only [State.logErr_hide, State.writeGather_hide, State.modStw_hide, h_stw, h_regs, h_log, h_ports, foldl_hide, ite_hide, ite_self, implies_true, and_self]; done) | (with_reducible refine (foldl_hide _ (fun s x => ?_) _ _).trans ?_) | split | (simp only [State.logErr_hide, State.writeGather_hide, State.modStw_hide, h_stw, h_regs, h_log, h_ports, foldl_hide, ite_hide, ite_self, implies_true, and_self]))

theorem State.gatherDone_hide (h_stw : StateUnit.stw ∈ hid) (h_regs : StateUnit.regs ∈ hid) (h_log : StateUnit.log ∈ hid) (h_ports : StateUnit.ports ∈ hid)  (p : AdapterPool) (failed : Bool) (g : Gather) (s : State) : (State.gatherDone s p failed g).hide hid = s.hide hid := by
  unfold State.gatherDone
  try dsimp only
  repeat' (first | with_reducible rfl | (simp only [State.gatherFailed_hide, State.modStw_hide, h_stw, h_regs, h_log, h_ports, foldl_hide, ite_hide, ite_self, implies_true, and_self]; done) | (with_reducible refine (foldl_hide _ (fun s x => ?_) _ _).trans ?_) | split | (simp only [State.gatherFailed_hide, State.modStw_hide, h_stw, h_regs, h_log, h_ports, foldl_hide, ite_hide, ite_self, implies_true, and_self]))

theorem State.doneWord_hide (h_shell : StateUnit.shell ∈ hid) (h_str : StateUnit.str ∈ hid) (h_ren : StateUnit.ren ∈ hid) (h_churn : StateUnit.churn ∈ hid) (h_skim : StateUnit.skim ∈ hid) (h_coll : StateUnit.coll ∈ hid) (h_reqs : StateUnit.reqs ∈ hid) (h_stw : StateUnit.stw ∈ hid) (h_mbox : StateUnit.mbox ∈ hid) (h_regs : StateUnit.regs ∈ hid) (h_log : StateUnit.log ∈ hid) (h_ports : StateUnit.ports ∈ hid)  (p : AdapterPool) (value : BitVec 64) (failed : List Word) (s : State) : (State.doneWord s p value failed).hide hid = s.hide hid := by
  unfold State.doneWord
  try dsimp only
  repeat' (first | with_reducible rfl | (simp only [State.askHost_hide, State.retryBuilds_hide, State.giveResidencies_hide, State.gatherDone_hide, State.modStw_hide, h_shell, h_str, h_ren, h_churn, h_skim, h_coll, h_reqs, h_stw, h_mbox, h_regs, h_log, h_ports, foldl_hide, ite_hide, ite_self, implies_true, and_self]; done) | (with_reducible refine (foldl_hide _ (fun s x => ?_) _ _).trans ?_) | split | (simp only [State.askHost_hide, State.retryBuilds_hide, State.giveResidencies_hide, State.gatherDone_hide, State.modStw_hide, h_shell, h_str, h_ren, h_churn, h_skim, h_coll, h_reqs, h_stw, h_mbox, h_regs, h_log, h_ports, foldl_hide, ite_hide, ite_self, implies_true, and_self]))

theorem execDoneWordReadDone_hide (h_clk : StateUnit.clk ∈ hid) (h_shell : StateUnit.shell ∈ hid) (h_str : StateUnit.str ∈ hid) (h_ren : StateUnit.ren ∈ hid) (h_churn : StateUnit.churn ∈ hid) (h_skim : StateUnit.skim ∈ hid) (h_coll : StateUnit.coll ∈ hid) (h_reqs : StateUnit.reqs ∈ hid) (h_stw : StateUnit.stw ∈ hid) (h_mbox : StateUnit.mbox ∈ hid) (h_regs : StateUnit.regs ∈ hid) (h_log : StateUnit.log ∈ hid) (h_ports : StateUnit.ports ∈ hid) (t : Time) (value : Option (BitVec 64)) (failed : List Word) {s t' : State} (e : execDoneWordReadDone t value failed s = .next t') : t'.hide hid = s.hide hid := by
  unfold execDoneWordReadDone at e
  try dsimp only at e
  rw [Host.Outcome.next.injEq] at e
  subst e
  repeat' (first | with_reducible rfl | (simp only [State.at_hide, State.doneWord_hide, State.modStw_hide, h_clk, h_shell, h_str, h_ren, h_churn, h_skim, h_coll, h_reqs, h_stw, h_mbox, h_regs, h_log, h_ports, foldl_hide, ite_hide, ite_self, implies_true, and_self]; done) | (with_reducible refine (foldl_hide _ (fun s x => ?_) _ _).trans ?_) | split | (simp only [State.at_hide, State.doneWord_hide, State.modStw_hide, h_clk, h_shell, h_str, h_ren, h_churn, h_skim, h_coll, h_reqs, h_stw, h_mbox, h_regs, h_log, h_ports, foldl_hide, ite_hide, ite_self, implies_true, and_self]))

/-! ### Machine/Admit.lean -/

theorem State.track_hide (h_skim : StateUnit.skim ∈ hid) (h_reqs : StateUnit.reqs ∈ hid) (h_stw : StateUnit.stw ∈ hid) (h_mbox : StateUnit.mbox ∈ hid) (h_ports : StateUnit.ports ∈ hid)  (b : Sender) (service : Nat) (sampling : Nat) (speculation : Nat) (options : Nat) (output : Nat) (pass : Nat) (grammar : Word) (start : Word) (ad : Option Version) (s : State) : (State.track s b service sampling speculation options output pass grammar start ad).hide hid = s.hide hid := by
  unfold State.track
  try dsimp only
  repeat' (first | with_reducible rfl | (simp only [State.modReq_hide, State.tick_hide, State.tryWaiting_hide, State.answer_hide, State.modReqs_hide, State.modStw_hide, h_skim, h_reqs, h_stw, h_mbox, h_ports, foldl_hide, ite_hide, ite_self, implies_true, and_self]; done) | (with_reducible refine (foldl_hide _ (fun s x => ?_) _ _).trans ?_) | split | (simp only [State.modReq_hide, State.tick_hide, State.tryWaiting_hide, State.answer_hide, State.modReqs_hide, State.modStw_hide, h_skim, h_reqs, h_stw, h_mbox, h_ports, foldl_hide, ite_hide, ite_self, implies_true, and_self]))

theorem State.readLibrary_hide (h_ports : StateUnit.ports ∈ hid)  (b : Sender) (adapter : Handle) (s : State) : (State.readLibrary s b adapter).hide hid = s.hide hid := by
  unfold State.readLibrary
  try dsimp only
  repeat' (first | with_reducible rfl | (simp only [State.imageRead_hide, h_ports, foldl_hide, ite_hide, ite_self, implies_true, and_self]; done) | (with_reducible refine (foldl_hide _ (fun s x => ?_) _ _).trans ?_) | split | (simp only [State.imageRead_hide, h_ports, foldl_hide, ite_hide, ite_self, implies_true, and_self]))

theorem cmdAdmit_hide (h_skim : StateUnit.skim ∈ hid) (h_reqs : StateUnit.reqs ∈ hid) (h_stw : StateUnit.stw ∈ hid) (h_mbox : StateUnit.mbox ∈ hid) (h_ports : StateUnit.ports ∈ hid)  (b : Sender) (service : Nat) (sampling : Nat) (speculation : Nat) (options : Nat) (output : Nat) (pass : Nat) (grammar : Word) (start : Word) (src : Option (List Byte)) (s : State) : (cmdAdmit b service sampling speculation options output pass grammar start src s).hide hid = s.hide hid := by
  unfold cmdAdmit
  try dsimp only
  repeat' (first | with_reducible rfl | (simp only [State.refuse_hide, State.track_hide, State.readLibrary_hide, h_skim, h_reqs, h_stw, h_mbox, h_ports, foldl_hide, ite_hide, ite_self, implies_true, and_self]; done) | (with_reducible refine (foldl_hide _ (fun s x => ?_) _ _).trans ?_) | split | (simp only [State.refuse_hide, State.track_hide, State.readLibrary_hide, h_skim, h_reqs, h_stw, h_mbox, h_ports, foldl_hide, ite_hide, ite_self, implies_true, and_self]))

theorem execAdmitRequest_hide (h_clk : StateUnit.clk ∈ hid) (h_skim : StateUnit.skim ∈ hid) (h_reqs : StateUnit.reqs ∈ hid) (h_stw : StateUnit.stw ∈ hid) (h_mbox : StateUnit.mbox ∈ hid) (h_ports : StateUnit.ports ∈ hid) (t : Time) (by_ : Sender) (service : BitVec 256) (sampling : BitVec 512) (speculation : BitVec 128) (grammar : Word) (start : Word) (options : BitVec 256) (output : BitVec 256) (pass : BitVec 256) (src : Option (List Byte)) {s t' : State} (e : execAdmitRequest t by_ service sampling speculation grammar start options output pass src s = .next t') : t'.hide hid = s.hide hid := by
  unfold execAdmitRequest at e
  try dsimp only at e
  rw [Host.Outcome.next.injEq] at e
  subst e
  repeat' (first | with_reducible rfl | (simp only [State.at_hide, State.serve_hide, cmdAdmit_hide, h_clk, h_skim, h_reqs, h_stw, h_mbox, h_ports, foldl_hide, ite_hide, ite_self, implies_true, and_self]; done) | (with_reducible refine (foldl_hide _ (fun s x => ?_) _ _).trans ?_) | split | (simp only [State.at_hide, State.serve_hide, cmdAdmit_hide, h_clk, h_skim, h_reqs, h_stw, h_mbox, h_ports, foldl_hide, ite_hide, ite_self, implies_true, and_self]))

theorem State.recordNow_hide (h_ports : StateUnit.ports ∈ hid)  (h : Handle) (wr : Bool) (s : State) : (State.recordNow s h wr).hide hid = s.hide hid := by
  unfold State.recordNow
  try dsimp only
  repeat' (first | with_reducible rfl | (simp only [State.celDone_hide, State.recordAccess_hide, h_ports, foldl_hide, ite_hide, ite_self, implies_true, and_self]; done) | (with_reducible refine (foldl_hide _ (fun s x => ?_) _ _).trans ?_) | split | (simp only [State.celDone_hide, State.recordAccess_hide, h_ports, foldl_hide, ite_hide, ite_self, implies_true, and_self]))

theorem State.useRecord_hide (h_reqs : StateUnit.reqs ∈ hid) (h_ports : StateUnit.ports ∈ hid)  (h : Handle) (s : State) : (State.useRecord s h).hide hid = s.hide hid := by
  unfold State.useRecord
  try dsimp only
  repeat' (first | with_reducible rfl | (simp only [State.celDone_hide, State.modReq_hide, State.useHot_hide, State.recordNow_hide, h_reqs, h_ports, foldl_hide, ite_hide, ite_self, implies_true, and_self]; done) | (with_reducible refine (foldl_hide _ (fun s x => ?_) _ _).trans ?_) | split | (simp only [State.celDone_hide, State.modReq_hide, State.useHot_hide, State.recordNow_hide, h_reqs, h_ports, foldl_hide, ite_hide, ite_self, implies_true, and_self]))

theorem State.onRequest_hide (h_skim : StateUnit.skim ∈ hid) (h_reqs : StateUnit.reqs ∈ hid) (h_mbox : StateUnit.mbox ∈ hid) (h_ports : StateUnit.ports ∈ hid)  (b : Sender) (op : Nat) (h : Handle) (f : State → Request → State) (hf_f : ∀ (x0 : State) (x1 : Request), (f x0 x1).hide hid = x0.hide hid) (s : State) : (State.onRequest s b op h f).hide hid = s.hide hid := by
  unfold State.onRequest
  try dsimp only
  repeat' (first | with_reducible rfl | (simp only [hf_f, State.refuse_hide, State.useRecord_hide, h_skim, h_reqs, h_mbox, h_ports, foldl_hide, ite_hide, ite_self, implies_true, and_self]; done) | (with_reducible refine (foldl_hide _ (fun s x => ?_) _ _).trans ?_) | split | (simp only [hf_f, State.refuse_hide, State.useRecord_hide, h_skim, h_reqs, h_mbox, h_ports, foldl_hide, ite_hide, ite_self, implies_true, and_self]))

theorem cmdCancel_hide (h_shell : StateUnit.shell ∈ hid) (h_str : StateUnit.str ∈ hid) (h_ren : StateUnit.ren ∈ hid) (h_churn : StateUnit.churn ∈ hid) (h_skim : StateUnit.skim ∈ hid) (h_reqs : StateUnit.reqs ∈ hid) (h_stw : StateUnit.stw ∈ hid) (h_mbox : StateUnit.mbox ∈ hid) (h_ports : StateUnit.ports ∈ hid)  (b : Sender) (h : Handle) (s : State) : (cmdCancel b h s).hide hid = s.hide hid := by
  unfold cmdCancel
  try dsimp only
  repeat' (first | with_reducible rfl | (simp only [State.modReq_hide, State.answer_hide, State.refuse_hide, State.endOutput_hide, State.onRequest_hide, h_shell, h_str, h_ren, h_churn, h_skim, h_reqs, h_stw, h_mbox, h_ports, foldl_hide, ite_hide, ite_self, implies_true, and_self]; done) | (with_reducible refine (foldl_hide _ (fun s x => ?_) _ _).trans ?_) | (with_reducible apply State.onRequest_hide <;> first | assumption | intro s r) | split | (simp only [State.modReq_hide, State.answer_hide, State.refuse_hide, State.endOutput_hide, State.onRequest_hide, h_shell, h_str, h_ren, h_churn, h_skim, h_reqs, h_stw, h_mbox, h_ports, foldl_hide, ite_hide, ite_self, implies_true, and_self]))

theorem execCancelRequest_hide (h_clk : StateUnit.clk ∈ hid) (h_shell : StateUnit.shell ∈ hid) (h_str : StateUnit.str ∈ hid) (h_ren : StateUnit.ren ∈ hid) (h_churn : StateUnit.churn ∈ hid) (h_skim : StateUnit.skim ∈ hid) (h_reqs : StateUnit.reqs ∈ hid) (h_stw : StateUnit.stw ∈ hid) (h_mbox : StateUnit.mbox ∈ hid) (h_ports : StateUnit.ports ∈ hid) (t : Time) (by_ : Sender) (req : Handle) {s t' : State} (e : execCancelRequest t by_ req s = .next t') : t'.hide hid = s.hide hid := by
  unfold execCancelRequest at e
  try dsimp only at e
  rw [Host.Outcome.next.injEq] at e
  subst e
  repeat' (first | with_reducible rfl | (simp only [State.at_hide, State.serve_hide, cmdCancel_hide, h_clk, h_shell, h_str, h_ren, h_churn, h_skim, h_reqs, h_stw, h_mbox, h_ports, foldl_hide, ite_hide, ite_self, implies_true, and_self]; done) | (with_reducible refine (foldl_hide _ (fun s x => ?_) _ _).trans ?_) | split | (simp only [State.at_hide, State.serve_hide, cmdCancel_hide, h_clk, h_shell, h_str, h_ren, h_churn, h_skim, h_reqs, h_stw, h_mbox, h_ports, foldl_hide, ite_hide, ite_self, implies_true, and_self]))

theorem cmdReadRequest_hide (h_skim : StateUnit.skim ∈ hid) (h_reqs : StateUnit.reqs ∈ hid) (h_mbox : StateUnit.mbox ∈ hid) (h_ports : StateUnit.ports ∈ hid)  (b : Sender) (h : Handle) (dest : BitVec 64) (s : State) : (cmdReadRequest b h dest s).hide hid = s.hide hid := by
  unfold cmdReadRequest
  try dsimp only
  repeat' (first | with_reducible rfl | (simp only [State.hostWrite_hide, State.answer_hide, State.refuse_hide, State.onRequest_hide, h_skim, h_reqs, h_mbox, h_ports, foldl_hide, ite_hide, ite_self, implies_true, and_self]; done) | (with_reducible refine (foldl_hide _ (fun s x => ?_) _ _).trans ?_) | (with_reducible apply State.onRequest_hide <;> first | assumption | intro s r) | split | (simp only [State.hostWrite_hide, State.answer_hide, State.refuse_hide, State.onRequest_hide, h_skim, h_reqs, h_mbox, h_ports, foldl_hide, ite_hide, ite_self, implies_true, and_self]))

theorem execReadRequest_hide (h_clk : StateUnit.clk ∈ hid) (h_skim : StateUnit.skim ∈ hid) (h_reqs : StateUnit.reqs ∈ hid) (h_mbox : StateUnit.mbox ∈ hid) (h_ports : StateUnit.ports ∈ hid) (t : Time) (by_ : Sender) (req : Handle) (dest : BitVec 64) {s t' : State} (e : execReadRequest t by_ req dest s = .next t') : t'.hide hid = s.hide hid := by
  unfold execReadRequest at e
  try dsimp only at e
  rw [Host.Outcome.next.injEq] at e
  subst e
  repeat' (first | with_reducible rfl | (simp only [State.at_hide, State.serve_hide, cmdReadRequest_hide, h_clk, h_skim, h_reqs, h_mbox, h_ports, foldl_hide, ite_hide, ite_self, implies_true, and_self]; done) | (with_reducible refine (foldl_hide _ (fun s x => ?_) _ _).trans ?_) | split | (simp only [State.at_hide, State.serve_hide, cmdReadRequest_hide, h_clk, h_skim, h_reqs, h_mbox, h_ports, foldl_hide, ite_hide, ite_self, implies_true, and_self]))

theorem cmdSetGrammar_hide (h_skim : StateUnit.skim ∈ hid) (h_reqs : StateUnit.reqs ∈ hid) (h_mbox : StateUnit.mbox ∈ hid) (h_ports : StateUnit.ports ∈ hid)  (b : Sender) (h : Handle) (handle : Word) (start : Word) (s : State) : (cmdSetGrammar b h handle start s).hide hid = s.hide hid := by
  unfold cmdSetGrammar
  try dsimp only
  repeat' (first | with_reducible rfl | (simp only [State.modReq_hide, State.answer_hide, State.refuse_hide, State.onRequest_hide, h_skim, h_reqs, h_mbox, h_ports, foldl_hide, ite_hide, ite_self, implies_true, and_self]; done) | (with_reducible refine (foldl_hide _ (fun s x => ?_) _ _).trans ?_) | (with_reducible apply State.onRequest_hide <;> first | assumption | intro s r) | split | (simp only [State.modReq_hide, State.answer_hide, State.refuse_hide, State.onRequest_hide, h_skim, h_reqs, h_mbox, h_ports, foldl_hide, ite_hide, ite_self, implies_true, and_self]))

theorem execSetGrammar_hide (h_clk : StateUnit.clk ∈ hid) (h_skim : StateUnit.skim ∈ hid) (h_reqs : StateUnit.reqs ∈ hid) (h_mbox : StateUnit.mbox ∈ hid) (h_ports : StateUnit.ports ∈ hid) (t : Time) (by_ : Sender) (req : Handle) (handle : Word) (start : Word) {s t' : State} (e : execSetGrammar t by_ req handle start s = .next t') : t'.hide hid = s.hide hid := by
  unfold execSetGrammar at e
  try dsimp only at e
  rw [Host.Outcome.next.injEq] at e
  subst e
  repeat' (first | with_reducible rfl | (simp only [State.at_hide, State.serve_hide, cmdSetGrammar_hide, h_clk, h_skim, h_reqs, h_mbox, h_ports, foldl_hide, ite_hide, ite_self, implies_true, and_self]; done) | (with_reducible refine (foldl_hide _ (fun s x => ?_) _ _).trans ?_) | split | (simp only [State.at_hide, State.serve_hide, cmdSetGrammar_hide, h_clk, h_skim, h_reqs, h_mbox, h_ports, foldl_hide, ite_hide, ite_self, implies_true, and_self]))

theorem cmdPostDrafts_hide (h_skim : StateUnit.skim ∈ hid) (h_reqs : StateUnit.reqs ∈ hid) (h_mbox : StateUnit.mbox ∈ hid) (h_ports : StateUnit.ports ∈ hid)  (b : Sender) (h : Handle) (pos0 : Word) (count : Nat) (tokens : List Word) (s : State) : (cmdPostDrafts b h pos0 count tokens s).hide hid = s.hide hid := by
  unfold cmdPostDrafts
  try dsimp only
  repeat' (first | with_reducible rfl | (simp only [State.modReq_hide, State.answer_hide, State.refuse_hide, State.onRequest_hide, h_skim, h_reqs, h_mbox, h_ports, foldl_hide, ite_hide, ite_self, implies_true, and_self]; done) | (with_reducible refine (foldl_hide _ (fun s x => ?_) _ _).trans ?_) | (with_reducible apply State.onRequest_hide <;> first | assumption | intro s r) | split | (simp only [State.modReq_hide, State.answer_hide, State.refuse_hide, State.onRequest_hide, h_skim, h_reqs, h_mbox, h_ports, foldl_hide, ite_hide, ite_self, implies_true, and_self]))

theorem execPostDrafts_hide (h_clk : StateUnit.clk ∈ hid) (h_skim : StateUnit.skim ∈ hid) (h_reqs : StateUnit.reqs ∈ hid) (h_mbox : StateUnit.mbox ∈ hid) (h_ports : StateUnit.ports ∈ hid) (t : Time) (by_ : Sender) (req : Handle) (pos0 : Word) (count : Nat) (tokens : List Word) {s t' : State} (e : execPostDrafts t by_ req pos0 count tokens s = .next t') : t'.hide hid = s.hide hid := by
  unfold execPostDrafts at e
  try dsimp only at e
  rw [Host.Outcome.next.injEq] at e
  subst e
  repeat' (first | with_reducible rfl | (simp only [State.at_hide, State.serve_hide, cmdPostDrafts_hide, h_clk, h_skim, h_reqs, h_mbox, h_ports, foldl_hide, ite_hide, ite_self, implies_true, and_self]; done) | (with_reducible refine (foldl_hide _ (fun s x => ?_) _ _).trans ?_) | split | (simp only [State.at_hide, State.serve_hide, cmdPostDrafts_hide, h_clk, h_skim, h_reqs, h_mbox, h_ports, foldl_hide, ite_hide, ite_self, implies_true, and_self]))

end Sys2Proof.Machine
end

