-- ==== Sys2Proof/Laws/FramesBoot.lean ====
section
/-! SUPPORT. What each operation and each command leaves in sight (`State.hide`), one lemma each: power, boot, the collective engine and the cores. -/

set_option Elab.async false

namespace Sys2Proof.Machine

variable {hid : List StateUnit}

set_option linter.unusedSimpArgs false
set_option linter.unusedVariables false
set_option linter.unusedTactic false
set_option linter.unreachableTactic false

/-! ### Machine/Power.lean -/

theorem State.modUnit_hide (h_vat : StateUnit.vat ∈ hid) (h_str : StateUnit.str ∈ hid)  (u : Nat) (f : PowerUnit → PowerUnit) (s : State) : (State.modUnit u f s).hide hid = s.hide hid := by
  unfold State.modUnit
  try dsimp only
  repeat' (first | with_reducible rfl | (simp only [State.modStr_hide, State.modVat_hide, h_vat, h_str, Vat.zeroTag_banks, Vat.writeRow_banks, Vat.writeRows_banks, Vat.zeroBank_banks, lmod_length, putBack_length, List.length_map, ite_length, foldl_hide, ite_hide, ite_self, implies_true, and_self]; done) | (with_reducible refine (foldl_hide _ (fun s x => ?_) _ _).trans ?_) | split | (simp only [State.modStr_hide, State.modVat_hide, h_vat, h_str, Vat.zeroTag_banks, Vat.writeRow_banks, Vat.writeRows_banks, Vat.zeroBank_banks, lmod_length, putBack_length, List.length_map, ite_length, foldl_hide, ite_hide, ite_self, implies_true, and_self]))

theorem State.powerAnswers_hide (h_skim : StateUnit.skim ∈ hid) (h_mbox : StateUnit.mbox ∈ hid) (h_ports : StateUnit.ports ∈ hid)   (s : State) : (State.powerAnswers s).hide hid = s.hide hid := by
  unfold State.powerAnswers
  try dsimp only
  repeat' (first | with_reducible rfl | (simp only [State.answer_hide, State.modMbox_hide, h_skim, h_mbox, h_ports, lmod_length, putBack_length, List.length_map, ite_length, foldl_hide, ite_hide, ite_self, implies_true, and_self]; done) | (with_reducible refine (foldl_hide _ (fun s x => ?_) _ _).trans ?_) | split | (simp only [State.answer_hide, State.modMbox_hide, h_skim, h_mbox, h_ports, lmod_length, putBack_length, List.length_map, ite_length, foldl_hide, ite_hide, ite_self, implies_true, and_self]))

theorem State.applyPower_hide (h_vat : StateUnit.vat ∈ hid) (h_str : StateUnit.str ∈ hid)  (ask : List (Nat × Bool)) (s : State) : (State.applyPower s ask).hide hid = s.hide hid := by
  unfold State.applyPower
  try dsimp only
  repeat' (first | with_reducible rfl | (simp only [State.modUnit_hide, h_vat, h_str, foldl_hide, ite_hide, ite_self, implies_true, and_self]; done) | (with_reducible refine (foldl_hide _ (fun s x => ?_) _ _).trans ?_) | split | (simp only [State.modUnit_hide, h_vat, h_str, foldl_hide, ite_hide, ite_self, implies_true, and_self]))

theorem State.powerRestore_hide (h_clk : StateUnit.clk ∈ hid) (h_vat : StateUnit.vat ∈ hid) (h_str : StateUnit.str ∈ hid) (h_regs : StateUnit.regs ∈ hid) (h_log : StateUnit.log ∈ hid)  (x : PowerCycle) (s : State) : (State.powerRestore s x).hide hid = s.hide hid := by
  unfold State.powerRestore
  try dsimp only
  repeat' (first | with_reducible rfl | (simp only [State.modClk_hide, State.modLog_hide, State.modRegs_hide, State.modStr_hide, State.modVat_hide, h_clk, h_vat, h_str, h_regs, h_log, Vat.zeroTag_banks, Vat.writeRow_banks, Vat.writeRows_banks, Vat.zeroBank_banks, lmod_length, putBack_length, List.length_map, ite_length, foldl_hide, ite_hide, ite_self, implies_true, and_self]; done) | (with_reducible refine (foldl_hide _ (fun s x => ?_) _ _).trans ?_) | split | (simp only [State.modClk_hide, State.modLog_hide, State.modRegs_hide, State.modStr_hide, State.modVat_hide, h_clk, h_vat, h_str, h_regs, h_log, Vat.zeroTag_banks, Vat.writeRow_banks, Vat.writeRows_banks, Vat.zeroBank_banks, lmod_length, putBack_length, List.length_map, ite_length, foldl_hide, ite_hide, ite_self, implies_true, and_self]))

theorem State.regPowerOnce_hide (h_vat : StateUnit.vat ∈ hid) (h_str : StateUnit.str ∈ hid) (h_skim : StateUnit.skim ∈ hid) (h_mbox : StateUnit.mbox ∈ hid) (h_regs : StateUnit.regs ∈ hid) (h_log : StateUnit.log ∈ hid) (h_ports : StateUnit.ports ∈ hid)  (ask : List (Nat × Bool)) (offset : Nat) (s : State) : (State.regPowerOnce s ask offset).hide hid = s.hide hid := by
  unfold State.regPowerOnce
  try dsimp only
  repeat' (first | with_reducible rfl | (simp only [State.logErr_hide, State.dropAccess_hide, State.powerAnswers_hide, State.applyPower_hide, State.modRegs_hide, h_vat, h_str, h_skim, h_mbox, h_regs, h_log, h_ports, foldl_hide, ite_hide, ite_self, implies_true, and_self]; done) | (with_reducible refine (foldl_hide _ (fun s x => ?_) _ _).trans ?_) | split | (simp only [State.logErr_hide, State.dropAccess_hide, State.powerAnswers_hide, State.applyPower_hide, State.modRegs_hide, h_vat, h_str, h_skim, h_mbox, h_regs, h_log, h_ports, foldl_hide, ite_hide, ite_self, implies_true, and_self]))

theorem State.regPower_hide (h_clk : StateUnit.clk ∈ hid) (h_vat : StateUnit.vat ∈ hid) (h_str : StateUnit.str ∈ hid) (h_skim : StateUnit.skim ∈ hid) (h_mbox : StateUnit.mbox ∈ hid) (h_regs : StateUnit.regs ∈ hid) (h_log : StateUnit.log ∈ hid) (h_ports : StateUnit.ports ∈ hid)  (ask : List (Nat × Bool)) (offset : Nat) (s : State) : (State.regPower s ask offset).hide hid = s.hide hid := by
  unfold State.regPower
  try dsimp only
  repeat' (first | with_reducible rfl | (simp only [State.regPowerOnce_hide, State.modClk_hide, h_clk, h_vat, h_str, h_skim, h_mbox, h_regs, h_log, h_ports, foldl_hide, ite_hide, ite_self, implies_true, and_self]; done) | (with_reducible refine (foldl_hide _ (fun s x => ?_) _ _).trans ?_) | split | (simp only [State.regPowerOnce_hide, State.modClk_hide, h_clk, h_vat, h_str, h_skim, h_mbox, h_regs, h_log, h_ports, foldl_hide, ite_hide, ite_self, implies_true, and_self]))

theorem State.withPower_hide (h_clk : StateUnit.clk ∈ hid) (h_vat : StateUnit.vat ∈ hid) (h_str : StateUnit.str ∈ hid) (h_skim : StateUnit.skim ∈ hid) (h_mbox : StateUnit.mbox ∈ hid) (h_regs : StateUnit.regs ∈ hid) (h_log : StateUnit.log ∈ hid) (h_ports : StateUnit.ports ∈ hid)  (f : State → State) (hf_f : ∀ (x0 : State), (f x0).hide hid = x0.hide hid) (s : State) : (State.withPower f s).hide hid = s.hide hid := by
  unfold State.withPower
  try dsimp only
  repeat' (first | with_reducible rfl | (simp only [hf_f, State.powerRestore_hide, State.regPower_hide, h_clk, h_vat, h_str, h_skim, h_mbox, h_regs, h_log, h_ports, foldl_hide, ite_hide, ite_self, implies_true, and_self]; done) | (with_reducible refine (foldl_hide _ (fun s x => ?_) _ _).trans ?_) | split | (simp only [hf_f, State.powerRestore_hide, State.regPower_hide, h_clk, h_vat, h_str, h_skim, h_mbox, h_regs, h_log, h_ports, foldl_hide, ite_hide, ite_self, implies_true, and_self]))

theorem setPower_hide (h_vat : StateUnit.vat ∈ hid) (h_str : StateUnit.str ∈ hid) (h_skim : StateUnit.skim ∈ hid) (h_mbox : StateUnit.mbox ∈ hid) (h_ports : StateUnit.ports ∈ hid)  (b : Sender) (banks : BitVec 64) (strainers : BitVec 16) (s : State) : (setPower b banks strainers s).hide hid = s.hide hid := by
  unfold setPower
  try dsimp only
  repeat' (first | with_reducible rfl | (simp only [State.refuse_hide, State.powerAnswers_hide, State.applyPower_hide, State.modMbox_hide, h_vat, h_str, h_skim, h_mbox, h_ports, lmod_length, putBack_length, List.length_map, ite_length, foldl_hide, ite_hide, ite_self, implies_true, and_self]; done) | (with_reducible refine (foldl_hide _ (fun s x => ?_) _ _).trans ?_) | split | (simp only [State.refuse_hide, State.powerAnswers_hide, State.applyPower_hide, State.modMbox_hide, h_vat, h_str, h_skim, h_mbox, h_ports, lmod_length, putBack_length, List.length_map, ite_length, foldl_hide, ite_hide, ite_self, implies_true, and_self]))

theorem cmdSetPower_hide (h_clk : StateUnit.clk ∈ hid) (h_vat : StateUnit.vat ∈ hid) (h_str : StateUnit.str ∈ hid) (h_skim : StateUnit.skim ∈ hid) (h_mbox : StateUnit.mbox ∈ hid) (h_regs : StateUnit.regs ∈ hid) (h_log : StateUnit.log ∈ hid) (h_ports : StateUnit.ports ∈ hid)  (b : Sender) (banks : BitVec 64) (strainers : BitVec 16) (s : State) : (cmdSetPower b banks strainers s).hide hid = s.hide hid := by
  unfold cmdSetPower
  try dsimp only
  repeat' (first | with_reducible rfl | (simp only [State.withPower_hide, setPower_hide, h_clk, h_vat, h_str, h_skim, h_mbox, h_regs, h_log, h_ports, foldl_hide, ite_hide, ite_self, implies_true, and_self]; done) | (with_reducible refine (foldl_hide _ (fun s x => ?_) _ _).trans ?_) | split | (simp only [State.withPower_hide, setPower_hide, h_clk, h_vat, h_str, h_skim, h_mbox, h_regs, h_log, h_ports, foldl_hide, ite_hide, ite_self, implies_true, and_self]))

theorem execSetPower_hide (h_clk : StateUnit.clk ∈ hid) (h_vat : StateUnit.vat ∈ hid) (h_str : StateUnit.str ∈ hid) (h_skim : StateUnit.skim ∈ hid) (h_mbox : StateUnit.mbox ∈ hid) (h_regs : StateUnit.regs ∈ hid) (h_log : StateUnit.log ∈ hid) (h_ports : StateUnit.ports ∈ hid) (t : Time) (by_ : Sender) (banks : BitVec 64) (strainers : BitVec 16) {s t' : State} (e : execSetPower t by_ banks strainers s = .next t') : t'.hide hid = s.hide hid := by
  unfold execSetPower at e
  try dsimp only at e
  rw [Host.Outcome.next.injEq] at e
  subst e
  repeat' (first | with_reducible rfl | (simp only [State.at_hide, State.serve_hide, cmdSetPower_hide, h_clk, h_vat, h_str, h_skim, h_mbox, h_regs, h_log, h_ports, foldl_hide, ite_hide, ite_self, implies_true, and_self]; done) | (with_reducible refine (foldl_hide _ (fun s x => ?_) _ _).trans ?_) | split | (simp only [State.at_hide, State.serve_hide, cmdSetPower_hide, h_clk, h_vat, h_str, h_skim, h_mbox, h_regs, h_log, h_ports, foldl_hide, ite_hide, ite_self, implies_true, and_self]))

theorem execVatPwr_hide (h_clk : StateUnit.clk ∈ hid) (h_vat : StateUnit.vat ∈ hid) (h_str : StateUnit.str ∈ hid) (h_skim : StateUnit.skim ∈ hid) (h_mbox : StateUnit.mbox ∈ hid) (h_regs : StateUnit.regs ∈ hid) (h_log : StateUnit.log ∈ hid) (h_ports : StateUnit.ports ∈ hid) (t : Time) (half : PwrHalf) (value : BitVec 64) {s t' : State} (e : execVatPwr t half value s = .next t') : t'.hide hid = s.hide hid := by
  unfold execVatPwr at e
  try dsimp only at e
  rw [Host.Outcome.next.injEq] at e
  subst e
  repeat' (first | with_reducible rfl | (simp only [State.at_hide, State.hostAct_hide, State.regPower_hide, h_clk, h_vat, h_str, h_skim, h_mbox, h_regs, h_log, h_ports, foldl_hide, ite_hide, ite_self, implies_true, and_self]; done) | (with_reducible refine (foldl_hide _ (fun s x => ?_) _ _).trans ?_) | split | (simp only [State.at_hide, State.hostAct_hide, State.regPower_hide, h_clk, h_vat, h_str, h_skim, h_mbox, h_regs, h_log, h_ports, foldl_hide, ite_hide, ite_self, implies_true, and_self]))

theorem execStrPwr_hide (h_clk : StateUnit.clk ∈ hid) (h_vat : StateUnit.vat ∈ hid) (h_str : StateUnit.str ∈ hid) (h_skim : StateUnit.skim ∈ hid) (h_mbox : StateUnit.mbox ∈ hid) (h_regs : StateUnit.regs ∈ hid) (h_log : StateUnit.log ∈ hid) (h_ports : StateUnit.ports ∈ hid) (t : Time) (value : Word) {s t' : State} (e : execStrPwr t value s = .next t') : t'.hide hid = s.hide hid := by
  unfold execStrPwr at e
  try dsimp only at e
  rw [Host.Outcome.next.injEq] at e
  subst e
  repeat' (first | with_reducible rfl | (simp only [State.at_hide, State.hostAct_hide, State.regPower_hide, h_clk, h_vat, h_str, h_skim, h_mbox, h_regs, h_log, h_ports, foldl_hide, ite_hide, ite_self, implies_true, and_self]; done) | (with_reducible refine (foldl_hide _ (fun s x => ?_) _ _).trans ?_) | split | (simp only [State.at_hide, State.hostAct_hide, State.regPower_hide, h_clk, h_vat, h_str, h_skim, h_mbox, h_regs, h_log, h_ports, foldl_hide, ite_hide, ite_self, implies_true, and_self]))

theorem State.ackRise_hide (h_vat : StateUnit.vat ∈ hid) (h_str : StateUnit.str ∈ hid)  (u : Nat) (s : State) : (State.ackRise s u).hide hid = s.hide hid := by
  unfold State.ackRise
  try dsimp only
  repeat' (first | with_reducible rfl | (simp only [State.modUnit_hide, h_vat, h_str, foldl_hide, ite_hide, ite_self, implies_true, and_self]; done) | (with_reducible refine (foldl_hide _ (fun s x => ?_) _ _).trans ?_) | split | (simp only [State.modUnit_hide, h_vat, h_str, foldl_hide, ite_hide, ite_self, implies_true, and_self]))

theorem State.initDone_hide (h_vat : StateUnit.vat ∈ hid) (h_vatMem : StateUnit.vatMem ∈ hid) (h_str : StateUnit.str ∈ hid) (h_skim : StateUnit.skim ∈ hid) (h_mbox : StateUnit.mbox ∈ hid) (h_ports : StateUnit.ports ∈ hid)  (u : Nat) (s : State) : (State.initDone s u).hide hid = s.hide hid := by
  unfold State.initDone
  try dsimp only
  repeat' (first | with_reducible rfl | (simp only [State.modUnit_hide, State.powerAnswers_hide, State.modVat_hide, State.modVat_hide_mem, h_vat, h_vatMem, h_str, h_skim, h_mbox, h_ports, Vat.zeroTag_banks, Vat.writeRow_banks, Vat.writeRows_banks, Vat.zeroBank_banks, lmod_length, putBack_length, List.length_map, ite_length, foldl_hide, ite_hide, ite_self, implies_true, and_self]; done) | (with_reducible refine (foldl_hide _ (fun s x => ?_) _ _).trans ?_) | split | (simp only [State.modUnit_hide, State.powerAnswers_hide, State.modVat_hide, State.modVat_hide_mem, h_vat, h_vatMem, h_str, h_skim, h_mbox, h_ports, Vat.zeroTag_banks, Vat.writeRow_banks, Vat.writeRows_banks, Vat.zeroBank_banks, lmod_length, putBack_length, List.length_map, ite_length, foldl_hide, ite_hide, ite_self, implies_true, and_self]))

theorem State.poisonStrainer_hide (h_shell : StateUnit.shell ∈ hid) (h_str : StateUnit.str ∈ hid) (h_ren : StateUnit.ren ∈ hid) (h_coll : StateUnit.coll ∈ hid) (h_reqs : StateUnit.reqs ∈ hid) (h_regs : StateUnit.regs ∈ hid) (h_log : StateUnit.log ∈ hid)  (i : Nat) (s : State) : (State.poisonStrainer s i).hide hid = s.hide hid := by
  unfold State.poisonStrainer
  try dsimp only
  repeat' (first | with_reducible rfl | (simp only [State.failRow_hide, h_shell, h_str, h_ren, h_coll, h_reqs, h_regs, h_log, foldl_hide, ite_hide, ite_self, implies_true, and_self]; done) | (with_reducible refine (foldl_hide _ (fun s x => ?_) _ _).trans ?_) | split | (simp only [State.failRow_hide, h_shell, h_str, h_ren, h_coll, h_reqs, h_regs, h_log, foldl_hide, ite_hide, ite_self, implies_true, and_self]))

theorem State.ackFell_hide (h_shell : StateUnit.shell ∈ hid) (h_vat : StateUnit.vat ∈ hid) (h_str : StateUnit.str ∈ hid) (h_ren : StateUnit.ren ∈ hid) (h_coll : StateUnit.coll ∈ hid) (h_reqs : StateUnit.reqs ∈ hid) (h_regs : StateUnit.regs ∈ hid) (h_log : StateUnit.log ∈ hid)  (u : Nat) (s : State) : (State.ackFell s u).hide hid = s.hide hid := by
  unfold State.ackFell
  try dsimp only
  repeat' (first | with_reducible rfl | (simp only [State.logErr_hide, State.modUnit_hide, State.poisonStrainer_hide, h_shell, h_vat, h_str, h_ren, h_coll, h_reqs, h_regs, h_log, foldl_hide, ite_hide, ite_self, implies_true, and_self]; done) | (with_reducible refine (foldl_hide _ (fun s x => ?_) _ _).trans ?_) | split | (simp only [State.logErr_hide, State.modUnit_hide, State.poisonStrainer_hide, h_shell, h_vat, h_str, h_ren, h_coll, h_reqs, h_regs, h_log, foldl_hide, ite_hide, ite_self, implies_true, and_self]))

theorem State.ackFall_hide (h_shell : StateUnit.shell ∈ hid) (h_vat : StateUnit.vat ∈ hid) (h_str : StateUnit.str ∈ hid) (h_ren : StateUnit.ren ∈ hid) (h_skim : StateUnit.skim ∈ hid) (h_coll : StateUnit.coll ∈ hid) (h_reqs : StateUnit.reqs ∈ hid) (h_mbox : StateUnit.mbox ∈ hid) (h_regs : StateUnit.regs ∈ hid) (h_log : StateUnit.log ∈ hid) (h_ports : StateUnit.ports ∈ hid)  (u : Nat) (s : State) : (State.ackFall s u).hide hid = s.hide hid := by
  unfold State.ackFall
  try dsimp only
  repeat' (first | with_reducible rfl | (simp only [State.modUnit_hide, State.powerAnswers_hide, State.ackFell_hide, h_shell, h_vat, h_str, h_ren, h_skim, h_coll, h_reqs, h_mbox, h_regs, h_log, h_ports, foldl_hide, ite_hide, ite_self, implies_true, and_self]; done) | (with_reducible refine (foldl_hide _ (fun s x => ?_) _ _).trans ?_) | split | (simp only [State.modUnit_hide, State.powerAnswers_hide, State.ackFell_hide, h_shell, h_vat, h_str, h_ren, h_skim, h_coll, h_reqs, h_mbox, h_regs, h_log, h_ports, foldl_hide, ite_hide, ite_self, implies_true, and_self]))

theorem execBankAckRise_hide (h_clk : StateUnit.clk ∈ hid) (h_vat : StateUnit.vat ∈ hid) (h_str : StateUnit.str ∈ hid) (t : Time) (bank : BitVec 6) {s t' : State} (e : execBankAckRise t bank s = .next t') : t'.hide hid = s.hide hid := by
  unfold execBankAckRise at e
  try dsimp only at e
  rw [Host.Outcome.next.injEq] at e
  subst e
  repeat' (first | with_reducible rfl | (simp only [State.at_hide, State.ackRise_hide, h_clk, h_vat, h_str, foldl_hide, ite_hide, ite_self, implies_true, and_self]; done) | (with_reducible refine (foldl_hide _ (fun s x => ?_) _ _).trans ?_) | split | (simp only [State.at_hide, State.ackRise_hide, h_clk, h_vat, h_str, foldl_hide, ite_hide, ite_self, implies_true, and_self]))

theorem execBankInitDone_hide (h_clk : StateUnit.clk ∈ hid) (h_vat : StateUnit.vat ∈ hid) (h_vatMem : StateUnit.vatMem ∈ hid) (h_str : StateUnit.str ∈ hid) (h_skim : StateUnit.skim ∈ hid) (h_mbox : StateUnit.mbox ∈ hid) (h_ports : StateUnit.ports ∈ hid) (t : Time) (bank : BitVec 6) {s t' : State} (e : execBankInitDone t bank s = .next t') : t'.hide hid = s.hide hid := by
  unfold execBankInitDone at e
  try dsimp only at e
  rw [Host.Outcome.next.injEq] at e
  subst e
  repeat' (first | with_reducible rfl | (simp only [State.at_hide, State.initDone_hide, h_clk, h_vat, h_vatMem, h_str, h_skim, h_mbox, h_ports, foldl_hide, ite_hide, ite_self, implies_true, and_self]; done) | (with_reducible refine (foldl_hide _ (fun s x => ?_) _ _).trans ?_) | split | (simp only [State.at_hide, State.initDone_hide, h_clk, h_vat, h_vatMem, h_str, h_skim, h_mbox, h_ports, foldl_hide, ite_hide, ite_self, implies_true, and_self]))

theorem execBankDrainDone_hide (h_clk : StateUnit.clk ∈ hid) (h_vat : StateUnit.vat ∈ hid) (h_str : StateUnit.str ∈ hid) (t : Time) (bank : BitVec 6) {s t' : State} (e : execBankDrainDone t bank s = .next t') : t'.hide hid = s.hide hid := by
  unfold execBankDrainDone at e
  try dsimp only at e
  rw [Host.Outcome.next.injEq] at e
  subst e
  repeat' (first | with_reducible rfl | (simp only [State.at_hide, State.modUnit_hide, h_clk, h_vat, h_str, foldl_hide, ite_hide, ite_self, implies_true, and_self]; done) | (with_reducible refine (foldl_hide _ (fun s x => ?_) _ _).trans ?_) | split | (simp only [State.at_hide, State.modUnit_hide, h_clk, h_vat, h_str, foldl_hide, ite_hide, ite_self, implies_true, and_self]))

theorem execBankAckFall_hide (h_clk : StateUnit.clk ∈ hid) (h_shell : StateUnit.shell ∈ hid) (h_vat : StateUnit.vat ∈ hid) (h_str : StateUnit.str ∈ hid) (h_ren : StateUnit.ren ∈ hid) (h_skim : StateUnit.skim ∈ hid) (h_coll : StateUnit.coll ∈ hid) (h_reqs : StateUnit.reqs ∈ hid) (h_mbox : StateUnit.mbox ∈ hid) (h_regs : StateUnit.regs ∈ hid) (h_log : StateUnit.log ∈ hid) (h_ports : StateUnit.ports ∈ hid) (t : Time) (bank : BitVec 6) {s t' : State} (e : execBankAckFall t bank s = .next t') : t'.hide hid = s.hide hid := by
  unfold execBankAckFall at e
  try dsimp only at e
  rw [Host.Outcome.next.injEq] at e
  subst e
  repeat' (first | with_reducible rfl | (simp only [State.at_hide, State.ackFall_hide, h_clk, h_shell, h_vat, h_str, h_ren, h_skim, h_coll, h_reqs, h_mbox, h_regs, h_log, h_ports, foldl_hide, ite_hide, ite_self, implies_true, and_self]; done) | (with_reducible refine (foldl_hide _ (fun s x => ?_) _ _).trans ?_) | split | (simp only [State.at_hide, State.ackFall_hide, h_clk, h_shell, h_vat, h_str, h_ren, h_skim, h_coll, h_reqs, h_mbox, h_regs, h_log, h_ports, foldl_hide, ite_hide, ite_self, implies_true, and_self]))

theorem execStrainerAckRise_hide (h_clk : StateUnit.clk ∈ hid) (h_vat : StateUnit.vat ∈ hid) (h_str : StateUnit.str ∈ hid) (t : Time) (strainer : BitVec 4) {s t' : State} (e : execStrainerAckRise t strainer s = .next t') : t'.hide hid = s.hide hid := by
  unfold execStrainerAckRise at e
  try dsimp only at e
  rw [Host.Outcome.next.injEq] at e
  subst e
  repeat' (first | with_reducible rfl | (simp only [State.at_hide, State.ackRise_hide, h_clk, h_vat, h_str, foldl_hide, ite_hide, ite_self, implies_true, and_self]; done) | (with_reducible refine (foldl_hide _ (fun s x => ?_) _ _).trans ?_) | split | (simp only [State.at_hide, State.ackRise_hide, h_clk, h_vat, h_str, foldl_hide, ite_hide, ite_self, implies_true, and_self]))

theorem execStrainerInitDone_hide (h_clk : StateUnit.clk ∈ hid) (h_vat : StateUnit.vat ∈ hid) (h_vatMem : StateUnit.vatMem ∈ hid) (h_str : StateUnit.str ∈ hid) (h_skim : StateUnit.skim ∈ hid) (h_mbox : StateUnit.mbox ∈ hid) (h_ports : StateUnit.ports ∈ hid) (t : Time) (strainer : BitVec 4) {s t' : State} (e : execStrainerInitDone t strainer s = .next t') : t'.hide hid = s.hide hid := by
  unfold execStrainerInitDone at e
  try dsimp only at e
  rw [Host.Outcome.next.injEq] at e
  subst e
  repeat' (first | with_reducible rfl | (simp only [State.at_hide, State.initDone_hide, h_clk, h_vat, h_vatMem, h_str, h_skim, h_mbox, h_ports, foldl_hide, ite_hide, ite_self, implies_true, and_self]; done) | (with_reducible refine (foldl_hide _ (fun s x => ?_) _ _).trans ?_) | split | (simp only [State.at_hide, State.initDone_hide, h_clk, h_vat, h_vatMem, h_str, h_skim, h_mbox, h_ports, foldl_hide, ite_hide, ite_self, implies_true, and_self]))

theorem execStrainerReleased_hide (h_clk : StateUnit.clk ∈ hid) (h_vat : StateUnit.vat ∈ hid) (h_str : StateUnit.str ∈ hid) (t : Time) (strainer : BitVec 4) {s t' : State} (e : execStrainerReleased t strainer s = .next t') : t'.hide hid = s.hide hid := by
  unfold execStrainerReleased at e
  try dsimp only at e
  rw [Host.Outcome.next.injEq] at e
  subst e
  repeat' (first | with_reducible rfl | (simp only [State.at_hide, State.modUnit_hide, h_clk, h_vat, h_str, Vat.release_mem, Vat.release_tags, Vat.release_checks, Vat.release_parity, Vat.release_banks, foldl_hide, ite_hide, ite_self, implies_true, and_self]; done) | (with_reducible refine (foldl_hide _ (fun s x => ?_) _ _).trans ?_) | split | (simp only [State.at_hide, State.modUnit_hide, h_clk, h_vat, h_str, Vat.release_mem, Vat.release_tags, Vat.release_checks, Vat.release_parity, Vat.release_banks, foldl_hide, ite_hide, ite_self, implies_true, and_self]))

theorem execStrainerAckFall_hide (h_clk : StateUnit.clk ∈ hid) (h_shell : StateUnit.shell ∈ hid) (h_vat : StateUnit.vat ∈ hid) (h_str : StateUnit.str ∈ hid) (h_ren : StateUnit.ren ∈ hid) (h_skim : StateUnit.skim ∈ hid) (h_coll : StateUnit.coll ∈ hid) (h_reqs : StateUnit.reqs ∈ hid) (h_mbox : StateUnit.mbox ∈ hid) (h_regs : StateUnit.regs ∈ hid) (h_log : StateUnit.log ∈ hid) (h_ports : StateUnit.ports ∈ hid) (t : Time) (strainer : BitVec 4) {s t' : State} (e : execStrainerAckFall t strainer s = .next t') : t'.hide hid = s.hide hid := by
  unfold execStrainerAckFall at e
  try dsimp only at e
  rw [Host.Outcome.next.injEq] at e
  subst e
  repeat' (first | with_reducible rfl | (simp only [State.at_hide, State.ackFall_hide, h_clk, h_shell, h_vat, h_str, h_ren, h_skim, h_coll, h_reqs, h_mbox, h_regs, h_log, h_ports, foldl_hide, ite_hide, ite_self, implies_true, and_self]; done) | (with_reducible refine (foldl_hide _ (fun s x => ?_) _ _).trans ?_) | split | (simp only [State.at_hide, State.ackFall_hide, h_clk, h_shell, h_vat, h_str, h_ren, h_skim, h_coll, h_reqs, h_mbox, h_regs, h_log, h_ports, foldl_hide, ite_hide, ite_self, implies_true, and_self]))

theorem State.ackTimeout_hide (h_vat : StateUnit.vat ∈ hid) (h_str : StateUnit.str ∈ hid) (h_skim : StateUnit.skim ∈ hid) (h_mbox : StateUnit.mbox ∈ hid) (h_regs : StateUnit.regs ∈ hid) (h_log : StateUnit.log ∈ hid) (h_ports : StateUnit.ports ∈ hid)  (u : Nat) (s : State) : (State.ackTimeout s u).hide hid = s.hide hid := by
  unfold State.ackTimeout
  try dsimp only
  repeat' (first | with_reducible rfl | (simp only [State.logErr_hide, State.modUnit_hide, State.powerAnswers_hide, h_vat, h_str, h_skim, h_mbox, h_regs, h_log, h_ports, foldl_hide, ite_hide, ite_self, implies_true, and_self]; done) | (with_reducible refine (foldl_hide _ (fun s x => ?_) _ _).trans ?_) | split | (simp only [State.logErr_hide, State.modUnit_hide, State.powerAnswers_hide, h_vat, h_str, h_skim, h_mbox, h_regs, h_log, h_ports, foldl_hide, ite_hide, ite_self, implies_true, and_self]))

theorem execAckTimeout_hide (h_clk : StateUnit.clk ∈ hid) (h_vat : StateUnit.vat ∈ hid) (h_str : StateUnit.str ∈ hid) (h_skim : StateUnit.skim ∈ hid) (h_mbox : StateUnit.mbox ∈ hid) (h_regs : StateUnit.regs ∈ hid) (h_log : StateUnit.log ∈ hid) (h_ports : StateUnit.ports ∈ hid) (t : Time) (unit : Nat) {s t' : State} (e : execAckTimeout t unit s = .next t') : t'.hide hid = s.hide hid := by
  unfold execAckTimeout at e
  try dsimp only at e
  rw [Host.Outcome.next.injEq] at e
  subst e
  repeat' (first | with_reducible rfl | (simp only [State.at_hide, State.ackTimeout_hide, h_clk, h_vat, h_str, h_skim, h_mbox, h_regs, h_log, h_ports, foldl_hide, ite_hide, ite_self, implies_true, and_self]; done) | (with_reducible refine (foldl_hide _ (fun s x => ?_) _ _).trans ?_) | split | (simp only [State.at_hide, State.ackTimeout_hide, h_clk, h_vat, h_str, h_skim, h_mbox, h_regs, h_log, h_ports, foldl_hide, ite_hide, ite_self, implies_true, and_self]))

/-! ### Machine/BootOps.lean -/

theorem State.bootFail_hide (h_boot : StateUnit.boot ∈ hid) (h_regs : StateUnit.regs ∈ hid) (h_log : StateUnit.log ∈ hid)  (raise : Bool) (cause : Nat) (stage : Nat) (d0 : Nat) (d1 : Nat) (fw : Word) (s : State) : (State.bootFail s raise cause stage d0 d1 fw).hide hid = s.hide hid := by
  unfold State.bootFail
  try dsimp only
  repeat' (first | with_reducible rfl | (simp only [State.logErr_hide, State.modBoot_hide, h_boot, h_regs, h_log, foldl_hide, ite_hide, ite_self, implies_true, and_self]; done) | (with_reducible refine (foldl_hide _ (fun s x => ?_) _ _).trans ?_) | (with_reducible refine State.modBoot_hide (by assumption) _ (fun b => by (try dsimp only); first | exact ⟨rfl, rfl⟩ | (split <;> exact ⟨rfl, rfl⟩) | (split <;> split <;> exact ⟨rfl, rfl⟩)) _) | split | (simp only [State.logErr_hide, State.modBoot_hide, h_boot, h_regs, h_log, foldl_hide, ite_hide, ite_self, implies_true, and_self]))

theorem State.enterSkim_hide (h_boot : StateUnit.boot ∈ hid)   (s : State) : (State.enterSkim s).hide hid = s.hide hid := by
  unfold State.enterSkim
  try dsimp only
  repeat' (first | with_reducible rfl | (simp only [State.modBoot_hide, h_boot, foldl_hide, ite_hide, ite_self, implies_true, and_self]; done) | (with_reducible refine (foldl_hide _ (fun s x => ?_) _ _).trans ?_) | (with_reducible refine State.modBoot_hide (by assumption) _ (fun b => by (try dsimp only); first | exact ⟨rfl, rfl⟩ | (split <;> exact ⟨rfl, rfl⟩) | (split <;> split <;> exact ⟨rfl, rfl⟩)) _) | split | (simp only [State.modBoot_hide, h_boot, foldl_hide, ite_hide, ite_self, implies_true, and_self]))

theorem State.bootRestart_hide (h_boot : StateUnit.boot ∈ hid)   (s : State) : (State.bootRestart s).hide hid = s.hide hid := by
  unfold State.bootRestart
  try dsimp only
  repeat' (first | with_reducible rfl | (simp only [State.modBoot_hide, h_boot, foldl_hide, ite_hide, ite_self, implies_true, and_self]; done) | (with_reducible refine (foldl_hide _ (fun s x => ?_) _ _).trans ?_) | (with_reducible refine State.modBoot_hide (by assumption) _ (fun b => by (try dsimp only); first | exact ⟨rfl, rfl⟩ | (split <;> exact ⟨rfl, rfl⟩) | (split <;> split <;> exact ⟨rfl, rfl⟩)) _) | split | (simp only [State.modBoot_hide, h_boot, foldl_hide, ite_hide, ite_self, implies_true, and_self]))

theorem State.underReset_hide (h_clk : StateUnit.clk ∈ hid) (h_shell : StateUnit.shell ∈ hid) (h_vat : StateUnit.vat ∈ hid) (h_vatMem : StateUnit.vatMem ∈ hid) (h_str : StateUnit.str ∈ hid) (h_drw : StateUnit.drw ∈ hid) (h_ren : StateUnit.ren ∈ hid) (h_churn : StateUnit.churn ∈ hid) (h_skim : StateUnit.skim ∈ hid) (h_coll : StateUnit.coll ∈ hid) (h_reqs : StateUnit.reqs ∈ hid) (h_rat : StateUnit.rat ∈ hid) (h_stw : StateUnit.stw ∈ hid) (h_boot : StateUnit.boot ∈ hid) (h_bootMem : StateUnit.bootMem ∈ hid) (h_mbox : StateUnit.mbox ∈ hid) (h_cmdWin : StateUnit.cmdWin ∈ hid) (h_regs : StateUnit.regs ∈ hid) (h_log : StateUnit.log ∈ hid) (h_ports : StateUnit.ports ∈ hid) (cold : Bool) (s : State) : (s.underReset cold).hide hid = s.hide hid := by
  simp only [State.underReset, State.hide, Vat.hide, Boot.hide, Mailbox.hide, Strainers.hide, List.map_map, Function.comp_def, if_true, h_clk, h_shell, h_vat, h_vatMem, h_str, h_drw, h_ren, h_churn, h_skim, h_coll, h_reqs, h_rat, h_stw, h_boot, h_bootMem, h_mbox, h_cmdWin, h_regs, h_log, h_ports]

theorem execColdReset_hide (h_clk : StateUnit.clk ∈ hid) (h_shell : StateUnit.shell ∈ hid) (h_vat : StateUnit.vat ∈ hid) (h_vatMem : StateUnit.vatMem ∈ hid) (h_str : StateUnit.str ∈ hid) (h_drw : StateUnit.drw ∈ hid) (h_ren : StateUnit.ren ∈ hid) (h_churn : StateUnit.churn ∈ hid) (h_skim : StateUnit.skim ∈ hid) (h_coll : StateUnit.coll ∈ hid) (h_reqs : StateUnit.reqs ∈ hid) (h_rat : StateUnit.rat ∈ hid) (h_stw : StateUnit.stw ∈ hid) (h_boot : StateUnit.boot ∈ hid) (h_bootMem : StateUnit.bootMem ∈ hid) (h_mbox : StateUnit.mbox ∈ hid) (h_cmdWin : StateUnit.cmdWin ∈ hid) (h_regs : StateUnit.regs ∈ hid) (h_log : StateUnit.log ∈ hid) (h_ports : StateUnit.ports ∈ hid) (t : Time) {s t' : State} (e : execColdReset t s = .next t') : t'.hide hid = s.hide hid := by
  unfold execColdReset at e
  try dsimp only at e
  rw [Host.Outcome.next.injEq] at e
  subst e
  repeat' (first | with_reducible rfl | (simp only [State.at_hide, State.underReset_hide, h_clk, h_shell, h_vat, h_vatMem, h_str, h_drw, h_ren, h_churn, h_skim, h_coll, h_reqs, h_rat, h_stw, h_boot, h_bootMem, h_mbox, h_cmdWin, h_regs, h_log, h_ports, foldl_hide, ite_hide, ite_self, implies_true, and_self]; done) | (with_reducible refine (foldl_hide _ (fun s x => ?_) _ _).trans ?_) | split | (simp only [State.at_hide, State.underReset_hide, h_clk, h_shell, h_vat, h_vatMem, h_str, h_drw, h_ren, h_churn, h_skim, h_coll, h_reqs, h_rat, h_stw, h_boot, h_bootMem, h_mbox, h_cmdWin, h_regs, h_log, h_ports, foldl_hide, ite_hide, ite_self, implies_true, and_self]))

theorem execWarmReset_hide (h_clk : StateUnit.clk ∈ hid) (h_shell : StateUnit.shell ∈ hid) (h_vat : StateUnit.vat ∈ hid) (h_vatMem : StateUnit.vatMem ∈ hid) (h_str : StateUnit.str ∈ hid) (h_drw : StateUnit.drw ∈ hid) (h_ren : StateUnit.ren ∈ hid) (h_churn : StateUnit.churn ∈ hid) (h_skim : StateUnit.skim ∈ hid) (h_coll : StateUnit.coll ∈ hid) (h_reqs : StateUnit.reqs ∈ hid) (h_rat : StateUnit.rat ∈ hid) (h_stw : StateUnit.stw ∈ hid) (h_boot : StateUnit.boot ∈ hid) (h_bootMem : StateUnit.bootMem ∈ hid) (h_mbox : StateUnit.mbox ∈ hid) (h_cmdWin : StateUnit.cmdWin ∈ hid) (h_regs : StateUnit.regs ∈ hid) (h_log : StateUnit.log ∈ hid) (h_ports : StateUnit.ports ∈ hid) (t : Time) {s t' : State} (e : execWarmReset t s = .next t') : t'.hide hid = s.hide hid := by
  unfold execWarmReset at e
  try dsimp only at e
  rw [Host.Outcome.next.injEq] at e
  subst e
  repeat' (first | with_reducible rfl | (simp only [State.at_hide, State.underReset_hide, h_clk, h_shell, h_vat, h_vatMem, h_str, h_drw, h_ren, h_churn, h_skim, h_coll, h_reqs, h_rat, h_stw, h_boot, h_bootMem, h_mbox, h_cmdWin, h_regs, h_log, h_ports, foldl_hide, ite_hide, ite_self, implies_true, and_self]; done) | (with_reducible refine (foldl_hide _ (fun s x => ?_) _ _).trans ?_) | split | (simp only [State.at_hide, State.underReset_hide, h_clk, h_shell, h_vat, h_vatMem, h_str, h_drw, h_ren, h_churn, h_skim, h_coll, h_reqs, h_rat, h_stw, h_boot, h_bootMem, h_mbox, h_cmdWin, h_regs, h_log, h_ports, foldl_hide, ite_hide, ite_self, implies_true, and_self]))

theorem State.setMapOut_hide (h_vat : StateUnit.vat ∈ hid) (h_regs : StateUnit.regs ∈ hid)  (rows : List Nat) (dead : List Nat) (s : State) : (State.setMapOut s rows dead).hide hid = s.hide hid := by
  unfold State.setMapOut
  try dsimp only
  repeat' (first | with_reducible rfl | (simp only [State.modRegs_hide, State.modVat_hide, h_vat, h_regs, Vat.zeroTag_banks, Vat.writeRow_banks, Vat.writeRows_banks, Vat.zeroBank_banks, lmod_length, putBack_length, List.length_map, ite_length, foldl_hide, ite_hide, ite_self, implies_true, and_self]; done) | (with_reducible refine (foldl_hide _ (fun s x => ?_) _ _).trans ?_) | split | (simp only [State.modRegs_hide, State.modVat_hide, h_vat, h_regs, Vat.zeroTag_banks, Vat.writeRow_banks, Vat.writeRows_banks, Vat.zeroBank_banks, lmod_length, putBack_length, List.length_map, ite_length, foldl_hide, ite_hide, ite_self, implies_true, and_self]))

theorem State.releaseReset_hide (h_clk : StateUnit.clk ∈ hid) (h_boot : StateUnit.boot ∈ hid) (h_wrap : StateUnit.wrap ∈ hid)   (s : State) : (State.releaseReset s).hide hid = s.hide hid := by
  unfold State.releaseReset
  try dsimp only
  repeat' (first | with_reducible rfl | (simp only [State.modBoot_hide, State.modClk_hide, State.modWrap_hide, h_clk, h_boot, h_wrap, foldl_hide, ite_hide, ite_self, implies_true, and_self]; done) | (with_reducible refine (foldl_hide _ (fun s x => ?_) _ _).trans ?_) | (with_reducible refine State.modBoot_hide (by assumption) _ (fun b => by (try dsimp only); first | exact ⟨rfl, rfl⟩ | (split <;> exact ⟨rfl, rfl⟩) | (split <;> split <;> exact ⟨rfl, rfl⟩)) _) | split | (simp only [State.modBoot_hide, State.modClk_hide, State.modWrap_hide, h_clk, h_boot, h_wrap, foldl_hide, ite_hide, ite_self, implies_true, and_self]))

theorem State.readFuses_hide (h_vat : StateUnit.vat ∈ hid) (h_str : StateUnit.str ∈ hid) (h_churn : StateUnit.churn ∈ hid) (h_fuses : StateUnit.fuses ∈ hid) (h_regs : StateUnit.regs ∈ hid)   (s : State) : (State.readFuses s).hide hid = s.hide hid := by
  unfold State.readFuses
  try dsimp only
  repeat' (first | with_reducible rfl | (simp only [State.setMapOut_hide, State.modChurn_hide, State.modFuses_hide, State.modStr_hide, h_vat, h_str, h_churn, h_fuses, h_regs, lmod_length, putBack_length, List.length_map, ite_length, foldl_hide, ite_hide, ite_self, implies_true, and_self]; done) | (with_reducible refine (foldl_hide _ (fun s x => ?_) _ _).trans ?_) | split | (simp only [State.setMapOut_hide, State.modChurn_hide, State.modFuses_hide, State.modStr_hide, h_vat, h_str, h_churn, h_fuses, h_regs, lmod_length, putBack_length, List.length_map, ite_length, foldl_hide, ite_hide, ite_self, implies_true, and_self]))

theorem State.leaveReset_hide (h_clk : StateUnit.clk ∈ hid)  (d : Nat) (s : State) : (State.leaveReset s d).hide hid = s.hide hid := by
  unfold State.leaveReset
  try dsimp only
  repeat' (first | with_reducible rfl | (simp only [State.modClk_hide, h_clk, foldl_hide, ite_hide, ite_self, implies_true, and_self]; done) | (with_reducible refine (foldl_hide _ (fun s x => ?_) _ _).trans ?_) | split | (simp only [State.modClk_hide, h_clk, foldl_hide, ite_hide, ite_self, implies_true, and_self]))

theorem State.sequenceStep_hide (h_clk : StateUnit.clk ∈ hid) (h_vat : StateUnit.vat ∈ hid) (h_str : StateUnit.str ∈ hid) (h_churn : StateUnit.churn ∈ hid) (h_fuses : StateUnit.fuses ∈ hid) (h_boot : StateUnit.boot ∈ hid) (h_regs : StateUnit.regs ∈ hid) (h_wrap : StateUnit.wrap ∈ hid)  (k : Nat) (s : State) : (State.sequenceStep s k).hide hid = s.hide hid := by
  unfold State.sequenceStep
  try dsimp only
  repeat' (first | with_reducible rfl | (simp only [State.releaseReset_hide, State.readFuses_hide, State.leaveReset_hide, State.modBoot_hide, State.modClk_hide, h_clk, h_vat, h_str, h_churn, h_fuses, h_boot, h_regs, h_wrap, Vat.release_mem, Vat.release_tags, Vat.release_checks, Vat.release_parity, Vat.release_banks, foldl_hide, ite_hide, ite_self, implies_true, and_self]; done) | (with_reducible refine (foldl_hide _ (fun s x => ?_) _ _).trans ?_) | (with_reducible refine State.modBoot_hide (by assumption) _ (fun b => by (try dsimp only); first | exact ⟨rfl, rfl⟩ | (split <;> exact ⟨rfl, rfl⟩) | (split <;> split <;> exact ⟨rfl, rfl⟩)) _) | split | (simp only [State.releaseReset_hide, State.readFuses_hide, State.leaveReset_hide, State.modBoot_hide, State.modClk_hide, h_clk, h_vat, h_str, h_churn, h_fuses, h_boot, h_regs, h_wrap, Vat.release_mem, Vat.release_tags, Vat.release_checks, Vat.release_parity, Vat.release_banks, foldl_hide, ite_hide, ite_self, implies_true, and_self]))

theorem State.resetSequence_hide (h_clk : StateUnit.clk ∈ hid) (h_vat : StateUnit.vat ∈ hid) (h_str : StateUnit.str ∈ hid) (h_churn : StateUnit.churn ∈ hid) (h_fuses : StateUnit.fuses ∈ hid) (h_boot : StateUnit.boot ∈ hid) (h_regs : StateUnit.regs ∈ hid) (h_wrap : StateUnit.wrap ∈ hid)  (upTo : Nat) (s : State) : (State.resetSequence s upTo).hide hid = s.hide hid := by
  unfold State.resetSequence
  try dsimp only
  repeat' (first | with_reducible rfl | (simp only [State.sequenceStep_hide, State.modClk_hide, h_clk, h_vat, h_str, h_churn, h_fuses, h_boot, h_regs, h_wrap, foldl_hide, ite_hide, ite_self, implies_true, and_self]; done) | (with_reducible refine (foldl_hide _ (fun s x => ?_) _ _).trans ?_) | split | (simp only [State.sequenceStep_hide, State.modClk_hide, h_clk, h_vat, h_str, h_churn, h_fuses, h_boot, h_regs, h_wrap, foldl_hide, ite_hide, ite_self, implies_true, and_self]))

theorem execResetRelease_hide (h_clk : StateUnit.clk ∈ hid) (h_vat : StateUnit.vat ∈ hid) (h_str : StateUnit.str ∈ hid) (h_churn : StateUnit.churn ∈ hid) (h_fuses : StateUnit.fuses ∈ hid) (h_boot : StateUnit.boot ∈ hid) (h_regs : StateUnit.regs ∈ hid) (h_wrap : StateUnit.wrap ∈ hid) (t : Release) {s t' : State} (e : execResetRelease t s = .next t') : t'.hide hid = s.hide hid := by
  unfold execResetRelease at e
  try dsimp only at e
  rw [Host.Outcome.next.injEq] at e
  subst e
  repeat' (first | with_reducible rfl | (simp only [State.at_hide, State.resetSequence_hide, h_clk, h_vat, h_str, h_churn, h_fuses, h_boot, h_regs, h_wrap, foldl_hide, ite_hide, ite_self, implies_true, and_self]; done) | (with_reducible refine (foldl_hide _ (fun s x => ?_) _ _).trans ?_) | split | (simp only [State.at_hide, State.resetSequence_hide, h_clk, h_vat, h_str, h_churn, h_fuses, h_boot, h_regs, h_wrap, foldl_hide, ite_hide, ite_self, implies_true, and_self]))

theorem State.countStage_hide (h_boot : StateUnit.boot ∈ hid) (h_regs : StateUnit.regs ∈ hid) (h_log : StateUnit.log ∈ hid)   (s : State) : (State.countStage s).hide hid = s.hide hid := by
  unfold State.countStage
  try dsimp only
  repeat' (first | with_reducible rfl | (simp only [State.bootFail_hide, State.enterSkim_hide, State.modBoot_hide, h_boot, h_regs, h_log, foldl_hide, ite_hide, ite_self, implies_true, and_self]; done) | (with_reducible refine (foldl_hide _ (fun s x => ?_) _ _).trans ?_) | (with_reducible refine State.modBoot_hide (by assumption) _ (fun b => by (try dsimp only); first | exact ⟨rfl, rfl⟩ | (split <;> exact ⟨rfl, rfl⟩) | (split <;> split <;> exact ⟨rfl, rfl⟩)) _) | split | (simp only [State.bootFail_hide, State.enterSkim_hide, State.modBoot_hide, h_boot, h_regs, h_log, foldl_hide, ite_hide, ite_self, implies_true, and_self]))

theorem State.selftest_hide (h_boot : StateUnit.boot ∈ hid) (h_regs : StateUnit.regs ∈ hid) (h_log : StateUnit.log ∈ hid)  (m : BitVec 5) (s : State) : (State.selftest s m).hide hid = s.hide hid := by
  unfold State.selftest
  try dsimp only
  repeat' (first | with_reducible rfl | (simp only [State.bootFail_hide, State.countStage_hide, State.modBoot_hide, h_boot, h_regs, h_log, foldl_hide, ite_hide, ite_self, implies_true, and_self]; done) | (with_reducible refine (foldl_hide _ (fun s x => ?_) _ _).trans ?_) | (with_reducible refine State.modBoot_hide (by assumption) _ (fun b => by (try dsimp only); first | exact ⟨rfl, rfl⟩ | (split <;> exact ⟨rfl, rfl⟩) | (split <;> split <;> exact ⟨rfl, rfl⟩)) _) | split | (simp only [State.bootFail_hide, State.countStage_hide, State.modBoot_hide, h_boot, h_regs, h_log, foldl_hide, ite_hide, ite_self, implies_true, and_self]))

theorem execSelftestDone_hide (h_clk : StateUnit.clk ∈ hid) (h_boot : StateUnit.boot ∈ hid) (h_regs : StateUnit.regs ∈ hid) (h_log : StateUnit.log ∈ hid) (t : Time) (passed : BitVec 5) {s t' : State} (e : execSelftestDone t passed s = .next t') : t'.hide hid = s.hide hid := by
  unfold execSelftestDone at e
  try dsimp only at e
  rw [Host.Outcome.next.injEq] at e
  subst e
  repeat' (first | with_reducible rfl | (simp only [State.at_hide, State.selftest_hide, h_clk, h_boot, h_regs, h_log, foldl_hide, ite_hide, ite_self, implies_true, and_self]; done) | (with_reducible refine (foldl_hide _ (fun s x => ?_) _ _).trans ?_) | split | (simp only [State.at_hide, State.selftest_hide, h_clk, h_boot, h_regs, h_log, foldl_hide, ite_hide, ite_self, implies_true, and_self]))

theorem State.awaitImage_hide (h_boot : StateUnit.boot ∈ hid)   (s : State) : (State.awaitImage s).hide hid = s.hide hid := by
  unfold State.awaitImage
  try dsimp only
  repeat' (first | with_reducible rfl | (simp only [State.modBoot_hide, h_boot, foldl_hide, ite_hide, ite_self, implies_true, and_self]; done) | (with_reducible refine (foldl_hide _ (fun s x => ?_) _ _).trans ?_) | (with_reducible refine State.modBoot_hide (by assumption) _ (fun b => by (try dsimp only); first | exact ⟨rfl, rfl⟩ | (split <;> exact ⟨rfl, rfl⟩) | (split <;> split <;> exact ⟨rfl, rfl⟩)) _) | split | (simp only [State.modBoot_hide, h_boot, foldl_hide, ite_hide, ite_self, implies_true, and_self]))

theorem State.sramInit_hide (h_clk : StateUnit.clk ∈ hid) (h_boot : StateUnit.boot ∈ hid) (h_bootMem : StateUnit.bootMem ∈ hid) (h_mbox : StateUnit.mbox ∈ hid) (h_cmdWin : StateUnit.cmdWin ∈ hid) (h_regs : StateUnit.regs ∈ hid) (h_log : StateUnit.log ∈ hid)  (ue : Option Word) (badLog : List Nat) (s : State) : (State.sramInit s ue badLog).hide hid = s.hide hid := by
  unfold State.sramInit
  try dsimp only
  repeat' (first | with_reducible rfl | (simp only [State.bootFail_hide, State.bootRestart_hide, State.awaitImage_hide, State.modBoot_hide, State.modClk_hide, State.modLog_hide, State.modMbox_hide, State.modBoot_hide_mem, State.modMbox_hide_win, h_clk, h_boot, h_bootMem, h_mbox, h_cmdWin, h_regs, h_log, lmod_length, putBack_length, List.length_map, ite_length, foldl_hide, ite_hide, ite_self, implies_true, and_self]; done) | (with_reducible refine (foldl_hide _ (fun s x => ?_) _ _).trans ?_) | (with_reducible refine State.modBoot_hide (by assumption) _ (fun b => by (try dsimp only); first | exact ⟨rfl, rfl⟩ | (split <;> exact ⟨rfl, rfl⟩) | (split <;> split <;> exact ⟨rfl, rfl⟩)) _) | split | (simp only [State.bootFail_hide, State.bootRestart_hide, State.awaitImage_hide, State.modBoot_hide, State.modClk_hide, State.modLog_hide, State.modMbox_hide, State.modBoot_hide_mem, State.modMbox_hide_win, h_clk, h_boot, h_bootMem, h_mbox, h_cmdWin, h_regs, h_log, lmod_length, putBack_length, List.length_map, ite_length, foldl_hide, ite_hide, ite_self, implies_true, and_self]))

theorem execSramInitDone_hide (h_clk : StateUnit.clk ∈ hid) (h_boot : StateUnit.boot ∈ hid) (h_bootMem : StateUnit.bootMem ∈ hid) (h_mbox : StateUnit.mbox ∈ hid) (h_cmdWin : StateUnit.cmdWin ∈ hid) (h_regs : StateUnit.regs ∈ hid) (h_log : StateUnit.log ∈ hid) (t : Time) (ue : Option Word) (badLog : List Nat) {s t' : State} (e : execSramInitDone t ue badLog s = .next t') : t'.hide hid = s.hide hid := by
  unfold execSramInitDone at e
  try dsimp only at e
  rw [Host.Outcome.next.injEq] at e
  subst e
  repeat' (first | with_reducible rfl | (simp only [State.at_hide, State.bootFail_hide, State.bootRestart_hide, State.sramInit_hide, h_clk, h_boot, h_bootMem, h_mbox, h_cmdWin, h_regs, h_log, foldl_hide, ite_hide, ite_self, implies_true, and_self]; done) | (with_reducible refine (foldl_hide _ (fun s x => ?_) _ _).trans ?_) | split | (simp only [State.at_hide, State.bootFail_hide, State.bootRestart_hide, State.sramInit_hide, h_clk, h_boot, h_bootMem, h_mbox, h_cmdWin, h_regs, h_log, foldl_hide, ite_hide, ite_self, implies_true, and_self]))

theorem State.repairData_hide (h_boot : StateUnit.boot ∈ hid) (h_regs : StateUnit.regs ∈ hid) (h_log : StateUnit.log ∈ hid)  (entry : Word) (s : State) : (State.repairData s entry).hide hid = s.hide hid := by
  unfold State.repairData
  try dsimp only
  repeat' (first | with_reducible rfl | (simp only [State.dropAccess_hide, State.modBoot_hide, State.modRegs_hide, h_boot, h_regs, h_log, foldl_hide, ite_hide, ite_self, implies_true, and_self]; done) | (with_reducible refine (foldl_hide _ (fun s x => ?_) _ _).trans ?_) | (with_reducible refine State.modBoot_hide (by assumption) _ (fun b => by (try dsimp only); first | exact ⟨rfl, rfl⟩ | (split <;> exact ⟨rfl, rfl⟩) | (split <;> split <;> exact ⟨rfl, rfl⟩)) _) | split | (simp only [State.dropAccess_hide, State.modBoot_hide, State.modRegs_hide, h_boot, h_regs, h_log, foldl_hide, ite_hide, ite_self, implies_true, and_self]))

theorem execRepairData_hide (h_clk : StateUnit.clk ∈ hid) (h_boot : StateUnit.boot ∈ hid) (h_regs : StateUnit.regs ∈ hid) (h_log : StateUnit.log ∈ hid) (t : Time) (entry : Word) {s t' : State} (e : execRepairData t entry s = .next t') : t'.hide hid = s.hide hid := by
  unfold execRepairData at e
  try dsimp only at e
  rw [Host.Outcome.next.injEq] at e
  subst e
  repeat' (first | with_reducible rfl | (simp only [State.at_hide, State.hostAct_hide, State.repairData_hide, h_clk, h_boot, h_regs, h_log, foldl_hide, ite_hide, ite_self, implies_true, and_self]; done) | (with_reducible refine (foldl_hide _ (fun s x => ?_) _ _).trans ?_) | split | (simp only [State.at_hide, State.hostAct_hide, State.repairData_hide, h_clk, h_boot, h_regs, h_log, foldl_hide, ite_hide, ite_self, implies_true, and_self]))

theorem State.stagingWrite_hide (h_mbox : StateUnit.mbox ∈ hid) (h_cmdWin : StateUnit.cmdWin ∈ hid) (h_regs : StateUnit.regs ∈ hid) (h_log : StateUnit.log ∈ hid)  (offset : Nat) (data : List Byte) (s : State) : (State.stagingWrite s offset data).hide hid = s.hide hid := by
  unfold State.stagingWrite
  try dsimp only
  repeat' (first | with_reducible rfl | (simp only [State.dropAccess_hide, State.dropStaging_hide, State.modMbox_hide, State.modRegs_hide, State.modMbox_hide_win, h_mbox, h_cmdWin, h_regs, h_log, lmod_length, putBack_length, List.length_map, ite_length, foldl_hide, ite_hide, ite_self, implies_true, and_self]; done) | (with_reducible refine (foldl_hide _ (fun s x => ?_) _ _).trans ?_) | split | (simp only [State.dropAccess_hide, State.dropStaging_hide, State.modMbox_hide, State.modRegs_hide, State.modMbox_hide_win, h_mbox, h_cmdWin, h_regs, h_log, lmod_length, putBack_length, List.length_map, ite_length, foldl_hide, ite_hide, ite_self, implies_true, and_self]))

theorem execStagingWindowWrite_hide (h_clk : StateUnit.clk ∈ hid) (h_mbox : StateUnit.mbox ∈ hid) (h_cmdWin : StateUnit.cmdWin ∈ hid) (h_regs : StateUnit.regs ∈ hid) (h_log : StateUnit.log ∈ hid) (t : Time) (offset : Nat) (data : List Byte) {s t' : State} (e : execStagingWindowWrite t offset data s = .next t') : t'.hide hid = s.hide hid := by
  unfold execStagingWindowWrite at e
  try dsimp only at e
  rw [Host.Outcome.next.injEq] at e
  subst e
  repeat' (first | with_reducible rfl | (simp only [State.at_hide, State.stagingWrite_hide, h_clk, h_mbox, h_cmdWin, h_regs, h_log, foldl_hide, ite_hide, ite_self, implies_true, and_self]; done) | (with_reducible refine (foldl_hide _ (fun s x => ?_) _ _).trans ?_) | split | (simp only [State.at_hide, State.stagingWrite_hide, h_clk, h_mbox, h_cmdWin, h_regs, h_log, foldl_hide, ite_hide, ite_self, implies_true, and_self]))

theorem State.go_hide (h_boot : StateUnit.boot ∈ hid) (h_regs : StateUnit.regs ∈ hid) (h_log : StateUnit.log ∈ hid)   (s : State) : (State.go s).hide hid = s.hide hid := by
  unfold State.go
  try dsimp only
  repeat' (first | with_reducible rfl | (simp only [State.logErr_hide, State.modBoot_hide, h_boot, h_regs, h_log, foldl_hide, ite_hide, ite_self, implies_true, and_self]; done) | (with_reducible refine (foldl_hide _ (fun s x => ?_) _ _).trans ?_) | (with_reducible refine State.modBoot_hide (by assumption) _ (fun b => by (try dsimp only); first | exact ⟨rfl, rfl⟩ | (split <;> exact ⟨rfl, rfl⟩) | (split <;> split <;> exact ⟨rfl, rfl⟩)) _) | split | (simp only [State.logErr_hide, State.modBoot_hide, h_boot, h_regs, h_log, foldl_hide, ite_hide, ite_self, implies_true, and_self]))

theorem State.bootCtl_hide (h_boot : StateUnit.boot ∈ hid) (h_regs : StateUnit.regs ∈ hid) (h_log : StateUnit.log ∈ hid)  (value : Word) (s : State) : (State.bootCtl s value).hide hid = s.hide hid := by
  unfold State.bootCtl
  try dsimp only
  repeat' (first | with_reducible rfl | (simp only [State.dropAccess_hide, State.go_hide, State.modBoot_hide, h_boot, h_regs, h_log, foldl_hide, ite_hide, ite_self, implies_true, and_self]; done) | (with_reducible refine (foldl_hide _ (fun s x => ?_) _ _).trans ?_) | (with_reducible refine State.modBoot_hide (by assumption) _ (fun b => by (try dsimp only); first | exact ⟨rfl, rfl⟩ | (split <;> exact ⟨rfl, rfl⟩) | (split <;> split <;> exact ⟨rfl, rfl⟩)) _) | split | (simp only [State.dropAccess_hide, State.go_hide, State.modBoot_hide, h_boot, h_regs, h_log, foldl_hide, ite_hide, ite_self, implies_true, and_self]))

theorem execGo_hide (h_clk : StateUnit.clk ∈ hid) (h_boot : StateUnit.boot ∈ hid) (h_regs : StateUnit.regs ∈ hid) (h_log : StateUnit.log ∈ hid) (t : Time) (value : Word) {s t' : State} (e : execGo t value s = .next t') : t'.hide hid = s.hide hid := by
  unfold execGo at e
  try dsimp only at e
  rw [Host.Outcome.next.injEq] at e
  subst e
  repeat' (first | with_reducible rfl | (simp only [State.at_hide, State.hostAct_hide, State.bootCtl_hide, h_clk, h_boot, h_regs, h_log, foldl_hide, ite_hide, ite_self, implies_true, and_self]; done) | (with_reducible refine (foldl_hide _ (fun s x => ?_) _ _).trans ?_) | split | (simp only [State.at_hide, State.hostAct_hide, State.bootCtl_hide, h_clk, h_boot, h_regs, h_log, foldl_hide, ite_hide, ite_self, implies_true, and_self]))

theorem execClear_hide (h_clk : StateUnit.clk ∈ hid) (h_boot : StateUnit.boot ∈ hid) (h_regs : StateUnit.regs ∈ hid) (h_log : StateUnit.log ∈ hid) (t : Time) (value : Word) {s t' : State} (e : execClear t value s = .next t') : t'.hide hid = s.hide hid := by
  unfold execClear at e
  try dsimp only at e
  rw [Host.Outcome.next.injEq] at e
  subst e
  repeat' (first | with_reducible rfl | (simp only [State.at_hide, State.hostAct_hide, State.bootCtl_hide, h_clk, h_boot, h_regs, h_log, foldl_hide, ite_hide, ite_self, implies_true, and_self]; done) | (with_reducible refine (foldl_hide _ (fun s x => ?_) _ _).trans ?_) | split | (simp only [State.at_hide, State.hostAct_hide, State.bootCtl_hide, h_clk, h_boot, h_regs, h_log, foldl_hide, ite_hide, ite_self, implies_true, and_self]))

theorem State.auth_hide (h_boot : StateUnit.boot ∈ hid) (h_regs : StateUnit.regs ∈ hid) (h_log : StateUnit.log ∈ hid)   (s : State) : (State.auth s).hide hid = s.hide hid := by
  unfold State.auth
  try dsimp only
  repeat' (first | with_reducible rfl | (simp only [State.bootFail_hide, State.enterSkim_hide, State.awaitImage_hide, State.modBoot_hide, h_boot, h_regs, h_log, foldl_hide, ite_hide, ite_self, implies_true, and_self]; done) | (with_reducible refine (foldl_hide _ (fun s x => ?_) _ _).trans ?_) | (with_reducible refine State.modBoot_hide (by assumption) _ (fun b => by (try dsimp only); first | exact ⟨rfl, rfl⟩ | (split <;> exact ⟨rfl, rfl⟩) | (split <;> split <;> exact ⟨rfl, rfl⟩)) _) | split | (simp only [State.bootFail_hide, State.enterSkim_hide, State.awaitImage_hide, State.modBoot_hide, h_boot, h_regs, h_log, foldl_hide, ite_hide, ite_self, implies_true, and_self]))

theorem execAuthDone_hide (h_clk : StateUnit.clk ∈ hid) (h_boot : StateUnit.boot ∈ hid) (h_regs : StateUnit.regs ∈ hid) (h_log : StateUnit.log ∈ hid) (t : Time) {s t' : State} (e : execAuthDone t s = .next t') : t'.hide hid = s.hide hid := by
  unfold execAuthDone at e
  try dsimp only at e
  rw [Host.Outcome.next.injEq] at e
  subst e
  repeat' (first | with_reducible rfl | (simp only [State.at_hide, State.auth_hide, h_clk, h_boot, h_regs, h_log, foldl_hide, ite_hide, ite_self, implies_true, and_self]; done) | (with_reducible refine (foldl_hide _ (fun s x => ?_) _ _).trans ?_) | split | (simp only [State.at_hide, State.auth_hide, h_clk, h_boot, h_regs, h_log, foldl_hide, ite_hide, ite_self, implies_true, and_self]))

theorem State.load_hide (h_boot : StateUnit.boot ∈ hid) (h_bootMem : StateUnit.bootMem ∈ hid)   (s : State) : (State.load s).hide hid = s.hide hid := by
  unfold State.load
  try dsimp only
  repeat' (first | with_reducible rfl | (simp only [State.modBoot_hide, State.modBoot_hide_mem, h_boot, h_bootMem, foldl_hide, ite_hide, ite_self, implies_true, and_self]; done) | (with_reducible refine (foldl_hide _ (fun s x => ?_) _ _).trans ?_) | (with_reducible refine State.modBoot_hide (by assumption) _ (fun b => by (try dsimp only); first | exact ⟨rfl, rfl⟩ | (split <;> exact ⟨rfl, rfl⟩) | (split <;> split <;> exact ⟨rfl, rfl⟩)) _) | split | (simp only [State.modBoot_hide, State.modBoot_hide_mem, h_boot, h_bootMem, foldl_hide, ite_hide, ite_self, implies_true, and_self]))

theorem execLoadDone_hide (h_clk : StateUnit.clk ∈ hid) (h_boot : StateUnit.boot ∈ hid) (h_bootMem : StateUnit.bootMem ∈ hid) (t : Time) {s t' : State} (e : execLoadDone t s = .next t') : t'.hide hid = s.hide hid := by
  unfold execLoadDone at e
  try dsimp only at e
  rw [Host.Outcome.next.injEq] at e
  subst e
  repeat' (first | with_reducible rfl | (simp only [State.at_hide, State.load_hide, h_clk, h_boot, h_bootMem, foldl_hide, ite_hide, ite_self, implies_true, and_self]; done) | (with_reducible refine (foldl_hide _ (fun s x => ?_) _ _).trans ?_) | split | (simp only [State.at_hide, State.load_hide, h_clk, h_boot, h_bootMem, foldl_hide, ite_hide, ite_self, implies_true, and_self]))

theorem State.ready_hide (h_vat : StateUnit.vat ∈ hid) (h_str : StateUnit.str ∈ hid) (h_boot : StateUnit.boot ∈ hid) (h_mbox : StateUnit.mbox ∈ hid) (h_regs : StateUnit.regs ∈ hid) (h_log : StateUnit.log ∈ hid)   (s : State) : (State.ready s).hide hid = s.hide hid := by
  unfold State.ready
  try dsimp only
  repeat' (first | with_reducible rfl | (simp only [State.logAt_hide, State.logErr_hide, State.setMapOut_hide, State.modBoot_hide, State.modMbox_hide, State.modStr_hide, h_vat, h_str, h_boot, h_mbox, h_regs, h_log, lmod_length, putBack_length, List.length_map, ite_length, foldl_hide, ite_hide, ite_self, implies_true, and_self]; done) | (with_reducible refine (foldl_hide _ (fun s x => ?_) _ _).trans ?_) | (with_reducible refine State.modBoot_hide (by assumption) _ (fun b => by (try dsimp only); first | exact ⟨rfl, rfl⟩ | (split <;> exact ⟨rfl, rfl⟩) | (split <;> split <;> exact ⟨rfl, rfl⟩)) _) | split | (simp only [State.logAt_hide, State.logErr_hide, State.setMapOut_hide, State.modBoot_hide, State.modMbox_hide, State.modStr_hide, h_vat, h_str, h_boot, h_mbox, h_regs, h_log, lmod_length, putBack_length, List.length_map, ite_length, foldl_hide, ite_hide, ite_self, implies_true, and_self]))

theorem execReady_hide (h_clk : StateUnit.clk ∈ hid) (h_vat : StateUnit.vat ∈ hid) (h_str : StateUnit.str ∈ hid) (h_boot : StateUnit.boot ∈ hid) (h_mbox : StateUnit.mbox ∈ hid) (h_regs : StateUnit.regs ∈ hid) (h_log : StateUnit.log ∈ hid) (t : Time) {s t' : State} (e : execReady t s = .next t') : t'.hide hid = s.hide hid := by
  unfold execReady at e
  try dsimp only at e
  rw [Host.Outcome.next.injEq] at e
  subst e
  repeat' (first | with_reducible rfl | (simp only [State.at_hide, State.ready_hide, h_clk, h_vat, h_str, h_boot, h_mbox, h_regs, h_log, foldl_hide, ite_hide, ite_self, implies_true, and_self]; done) | (with_reducible refine (foldl_hide _ (fun s x => ?_) _ _).trans ?_) | split | (simp only [State.at_hide, State.ready_hide, h_clk, h_vat, h_str, h_boot, h_mbox, h_regs, h_log, foldl_hide, ite_hide, ite_self, implies_true, and_self]))

theorem execFwInitTimeout_hide (h_clk : StateUnit.clk ∈ hid) (h_boot : StateUnit.boot ∈ hid) (h_regs : StateUnit.regs ∈ hid) (h_log : StateUnit.log ∈ hid) (t : Time) {s t' : State} (e : execFwInitTimeout t s = .next t') : t'.hide hid = s.hide hid := by
  unfold execFwInitTimeout at e
  try dsimp only at e
  rw [Host.Outcome.next.injEq] at e
  subst e
  repeat' (first | with_reducible rfl | (simp only [State.at_hide, State.bootFail_hide, State.bootRestart_hide, h_clk, h_boot, h_regs, h_log, foldl_hide, ite_hide, ite_self, implies_true, and_self]; done) | (with_reducible refine (foldl_hide _ (fun s x => ?_) _ _).trans ?_) | split | (simp only [State.at_hide, State.bootFail_hide, State.bootRestart_hide, h_clk, h_boot, h_regs, h_log, foldl_hide, ite_hide, ite_self, implies_true, and_self]))

theorem execPowerLoss_hide (h_clk : StateUnit.clk ∈ hid) (h_shell : StateUnit.shell ∈ hid) (h_vat : StateUnit.vat ∈ hid) (h_vatMem : StateUnit.vatMem ∈ hid) (h_str : StateUnit.str ∈ hid) (h_drw : StateUnit.drw ∈ hid) (h_ren : StateUnit.ren ∈ hid) (h_churn : StateUnit.churn ∈ hid) (h_skim : StateUnit.skim ∈ hid) (h_coll : StateUnit.coll ∈ hid) (h_reqs : StateUnit.reqs ∈ hid) (h_rat : StateUnit.rat ∈ hid) (h_stw : StateUnit.stw ∈ hid) (h_fuses : StateUnit.fuses ∈ hid) (h_boot : StateUnit.boot ∈ hid) (h_bootMem : StateUnit.bootMem ∈ hid) (h_mbox : StateUnit.mbox ∈ hid) (h_cmdWin : StateUnit.cmdWin ∈ hid) (h_regs : StateUnit.regs ∈ hid) (h_log : StateUnit.log ∈ hid) (h_wrap : StateUnit.wrap ∈ hid) (h_ports : StateUnit.ports ∈ hid) (t : Time) {s t' : State} (e : execPowerLoss t s = .next t') : t'.hide hid = s.hide hid := by
  unfold execPowerLoss at e
  dsimp only at e
  rw [Host.Outcome.next.injEq] at e
  subst e
  simp only [State.hide, State.at, State.modClk, Vat.hide, Boot.hide, Mailbox.hide, Strainers.hide, List.map_map, Function.comp_def, if_true, h_clk, h_shell, h_vat, h_vatMem, h_str, h_drw, h_ren, h_churn, h_skim, h_coll, h_reqs, h_rat, h_stw, h_fuses, h_boot, h_bootMem, h_mbox, h_cmdWin, h_regs, h_log, h_wrap, h_ports]

/-! ### Machine/Collect.lean -/

theorem State.linkLoop_hide (h_coll : StateUnit.coll ∈ hid) (h_regs : StateUnit.regs ∈ hid) (h_log : StateUnit.log ∈ hid)  (h : MsgHeader) (s : State) : (State.linkLoop s h).hide hid = s.hide hid := by
  unfold State.linkLoop
  try dsimp only
  repeat' (first | with_reducible rfl | (simp only [State.logErr_hide, State.modColl_hide, h_coll, h_regs, h_log, foldl_hide, ite_hide, ite_self, implies_true, and_self]; done) | (with_reducible refine (foldl_hide _ (fun s x => ?_) _ _).trans ?_) | split | (simp only [State.logErr_hide, State.modColl_hide, h_coll, h_regs, h_log, foldl_hide, ite_hide, ite_self, implies_true, and_self]))

theorem State.lateMessage_hide (h_coll : StateUnit.coll ∈ hid) (h_regs : StateUnit.regs ∈ hid) (h_log : StateUnit.log ∈ hid)  (h : MsgHeader) (s : State) : (State.lateMessage s h).hide hid = s.hide hid := by
  unfold State.lateMessage
  try dsimp only
  repeat' (first | with_reducible rfl | (simp only [State.logErr_hide, State.modColl_hide, h_coll, h_regs, h_log, foldl_hide, ite_hide, ite_self, implies_true, and_self]; done) | (with_reducible refine (foldl_hide _ (fun s x => ?_) _ _).trans ?_) | split | (simp only [State.logErr_hide, State.modColl_hide, h_coll, h_regs, h_log, foldl_hide, ite_hide, ite_self, implies_true, and_self]))

theorem State.countMissing_hide (h_skim : StateUnit.skim ∈ hid) (h_coll : StateUnit.coll ∈ hid) (h_mbox : StateUnit.mbox ∈ hid) (h_regs : StateUnit.regs ∈ hid) (h_log : StateUnit.log ∈ hid) (h_ports : StateUnit.ports ∈ hid)  (die : Nat) (s : State) : (State.countMissing s die).hide hid = s.hide hid := by
  unfold State.countMissing
  try dsimp only
  repeat' (first | with_reducible rfl | (simp only [State.logErr_hide, State.broadcast_hide, State.modColl_hide, h_skim, h_coll, h_mbox, h_regs, h_log, h_ports, foldl_hide, ite_hide, ite_self, implies_true, and_self]; done) | (with_reducible refine (foldl_hide _ (fun s x => ?_) _ _).trans ?_) | split | (simp only [State.logErr_hide, State.broadcast_hide, State.modColl_hide, h_skim, h_coll, h_mbox, h_regs, h_log, h_ports, foldl_hide, ite_hide, ite_self, implies_true, and_self]))

theorem State.peersMissing_hide (h_skim : StateUnit.skim ∈ hid) (h_coll : StateUnit.coll ∈ hid) (h_mbox : StateUnit.mbox ∈ hid) (h_regs : StateUnit.regs ∈ hid) (h_log : StateUnit.log ∈ hid) (h_ports : StateUnit.ports ∈ hid)  (dies : List Nat) (round : Nat) (s : State) : (State.peersMissing s dies round).hide hid = s.hide hid := by
  unfold State.peersMissing
  try dsimp only
  repeat' (first | with_reducible rfl | (simp only [State.logErr_hide, State.countMissing_hide, State.modColl_hide, h_skim, h_coll, h_mbox, h_regs, h_log, h_ports, foldl_hide, ite_hide, ite_self, implies_true, and_self]; done) | (with_reducible refine (foldl_hide _ (fun s x => ?_) _ _).trans ?_) | split | (simp only [State.logErr_hide, State.countMissing_hide, State.modColl_hide, h_skim, h_coll, h_mbox, h_regs, h_log, h_ports, foldl_hide, ite_hide, ite_self, implies_true, and_self]))

theorem State.mismatch_hide (h_shell : StateUnit.shell ∈ hid) (h_coll : StateUnit.coll ∈ hid) (h_reqs : StateUnit.reqs ∈ hid) (h_regs : StateUnit.regs ∈ hid) (h_log : StateUnit.log ∈ hid)  (n : Nat) (h : MsgHeader) (s : State) : (State.mismatch s n h).hide hid = s.hide hid := by
  unfold State.mismatch
  try dsimp only
  repeat' (first | with_reducible rfl | (simp only [State.logErr_hide, State.engDry_hide, State.modSel_hide, h_shell, h_coll, h_reqs, h_regs, h_log, foldl_hide, ite_hide, ite_self, implies_true, and_self]; done) | (with_reducible refine (foldl_hide _ (fun s x => ?_) _ _).trans ?_) | split | (simp only [State.logErr_hide, State.engDry_hide, State.modSel_hide, h_shell, h_coll, h_reqs, h_regs, h_log, foldl_hide, ite_hide, ite_self, implies_true, and_self]))

theorem State.takePartial_hide (h_shell : StateUnit.shell ∈ hid) (h_coll : StateUnit.coll ∈ hid) (h_reqs : StateUnit.reqs ∈ hid) (h_regs : StateUnit.regs ∈ hid) (h_log : StateUnit.log ∈ hid)  (n : Nat) (h : MsgHeader) (body : List Nat) (s : State) : (State.takePartial s n h body).hide hid = s.hide hid := by
  unfold State.takePartial
  try dsimp only
  repeat' (first | with_reducible rfl | (simp only [State.modSel_hide, State.mismatch_hide, h_shell, h_coll, h_reqs, h_regs, h_log, foldl_hide, ite_hide, ite_self, implies_true, and_self]; done) | (with_reducible refine (foldl_hide _ (fun s x => ?_) _ _).trans ?_) | split | (simp only [State.modSel_hide, State.mismatch_hide, h_shell, h_coll, h_reqs, h_regs, h_log, foldl_hide, ite_hide, ite_self, implies_true, and_self]))

theorem State.takeMergedMsg_hide (h_shell : StateUnit.shell ∈ hid) (h_coll : StateUnit.coll ∈ hid) (h_reqs : StateUnit.reqs ∈ hid) (h_regs : StateUnit.regs ∈ hid) (h_log : StateUnit.log ∈ hid)  (h : MsgHeader) (body : List Nat) (s : State) : (State.takeMergedMsg s h body).hide hid = s.hide hid := by
  unfold State.takeMergedMsg
  try dsimp only
  repeat' (first | with_reducible rfl | (simp only [State.takeMerged_hide, h_shell, h_coll, h_reqs, h_regs, h_log, foldl_hide, ite_hide, ite_self, implies_true, and_self]; done) | (with_reducible refine (foldl_hide _ (fun s x => ?_) _ _).trans ?_) | split | (simp only [State.takeMerged_hide, h_shell, h_coll, h_reqs, h_regs, h_log, foldl_hide, ite_hide, ite_self, implies_true, and_self]))

theorem State.endSelections_hide (h_shell : StateUnit.shell ∈ hid) (h_str : StateUnit.str ∈ hid) (h_ren : StateUnit.ren ∈ hid) (h_coll : StateUnit.coll ∈ hid)  (slot : Nat) (step : Nat) (s : State) : (State.endSelections s slot step).hide hid = s.hide hid := by
  unfold State.endSelections
  try dsimp only
  repeat' (first | with_reducible rfl | (simp only [State.endRow_hide, State.modColl_hide, h_shell, h_str, h_ren, h_coll, foldl_hide, ite_hide, ite_self, implies_true, and_self]; done) | (with_reducible refine (foldl_hide _ (fun s x => ?_) _ _).trans ?_) | split | (simp only [State.endRow_hide, State.modColl_hide, h_shell, h_str, h_ren, h_coll, foldl_hide, ite_hide, ite_self, implies_true, and_self]))

theorem State.decisionMasks_hide (h_ren : StateUnit.ren ∈ hid) (h_regs : StateUnit.regs ∈ hid) (h_log : StateUnit.log ∈ hid) (h_ports : StateUnit.ports ∈ hid)  (f : Shape) (slot : Nat) (step : Nat) (d : Decision) (s : State) : (State.decisionMasks s f slot step d).hide hid = s.hide hid := by
  unfold State.decisionMasks
  try dsimp only
  repeat' (first | with_reducible rfl | (simp only [State.logErr_hide, State.askItems_hide, State.pinKeys_hide, h_ren, h_regs, h_log, h_ports, foldl_hide, ite_hide, ite_self, implies_true, and_self]; done) | (with_reducible refine (foldl_hide _ (fun s x => ?_) _ _).trans ?_) | split | (simp only [State.logErr_hide, State.askItems_hide, State.pinKeys_hide, h_ren, h_regs, h_log, h_ports, foldl_hide, ite_hide, ite_self, implies_true, and_self]))

theorem State.applyDecision_hide (h_shell : StateUnit.shell ∈ hid) (h_str : StateUnit.str ∈ hid) (h_drw : StateUnit.drw ∈ hid) (h_ren : StateUnit.ren ∈ hid) (h_coll : StateUnit.coll ∈ hid) (h_regs : StateUnit.regs ∈ hid) (h_log : StateUnit.log ∈ hid) (h_ports : StateUnit.ports ∈ hid)  (f : Shape) (step : Nat) (slot : Nat) (d : Decision) (s : State) : (State.applyDecision s f step slot d).hide hid = s.hide hid := by
  unfold State.applyDecision
  try dsimp only
  repeat' (first | with_reducible rfl | (simp only [State.sweepPins_hide, State.writeEntry_hide, State.endSelections_hide, State.decisionMasks_hide, State.modColl_hide, State.modDrw_hide, h_shell, h_str, h_drw, h_ren, h_coll, h_regs, h_log, h_ports, foldl_hide, ite_hide, ite_self, implies_true, and_self]; done) | (with_reducible refine (foldl_hide _ (fun s x => ?_) _ _).trans ?_) | split | (simp only [State.sweepPins_hide, State.writeEntry_hide, State.endSelections_hide, State.decisionMasks_hide, State.modColl_hide, State.modDrw_hide, h_shell, h_str, h_drw, h_ren, h_coll, h_regs, h_log, h_ports, foldl_hide, ite_hide, ite_self, implies_true, and_self]))

theorem State.takeDecision_hide (h_shell : StateUnit.shell ∈ hid) (h_str : StateUnit.str ∈ hid) (h_drw : StateUnit.drw ∈ hid) (h_ren : StateUnit.ren ∈ hid) (h_coll : StateUnit.coll ∈ hid) (h_regs : StateUnit.regs ∈ hid) (h_log : StateUnit.log ∈ hid) (h_ports : StateUnit.ports ∈ hid)  (c : CollConfig) (f : Shape) (role : Nat) (h : MsgHeader) (body : List Nat) (s : State) : (State.takeDecision s c f role h body).hide hid = s.hide hid := by
  unfold State.takeDecision
  try dsimp only
  repeat' (first | with_reducible rfl | (simp only [State.spreadOn_hide, State.applyDecision_hide, State.modColl_hide, h_shell, h_str, h_drw, h_ren, h_coll, h_regs, h_log, h_ports, foldl_hide, ite_hide, ite_self, implies_true, and_self]; done) | (with_reducible refine (foldl_hide _ (fun s x => ?_) _ _).trans ?_) | split | (simp only [State.spreadOn_hide, State.applyDecision_hide, State.modColl_hide, h_shell, h_str, h_drw, h_ren, h_coll, h_regs, h_log, h_ports, foldl_hide, ite_hide, ite_self, implies_true, and_self]))

theorem State.walkBlock_hide (h_shell : StateUnit.shell ∈ hid) (h_str : StateUnit.str ∈ hid) (h_coll : StateUnit.coll ∈ hid) (h_reqs : StateUnit.reqs ∈ hid) (h_regs : StateUnit.regs ∈ hid) (h_log : StateUnit.log ∈ hid)  (h : MsgHeader) (w : WalkMsg) (s : State) : (State.walkBlock s h w).hide hid = s.hide hid := by
  unfold State.walkBlock
  try dsimp only
  repeat' (first | with_reducible rfl | (simp only [State.askWork_hide, State.beginBlock_hide, h_shell, h_str, h_coll, h_reqs, h_regs, h_log, foldl_hide, ite_hide, ite_self, implies_true, and_self]; done) | (with_reducible refine (foldl_hide _ (fun s x => ?_) _ _).trans ?_) | split | (simp only [State.askWork_hide, State.beginBlock_hide, h_shell, h_str, h_coll, h_reqs, h_regs, h_log, foldl_hide, ite_hide, ite_self, implies_true, and_self]))

theorem State.answerResolve_hide (h_shell : StateUnit.shell ∈ hid) (h_str : StateUnit.str ∈ hid) (h_coll : StateUnit.coll ∈ hid) (h_reqs : StateUnit.reqs ∈ hid) (h_regs : StateUnit.regs ∈ hid) (h_log : StateUnit.log ∈ hid)  (c : CollConfig) (f : Shape) (x : Sel) (h : MsgHeader) (w : WalkMsg) (s : State) : (State.answerResolve s c f x h w).hide hid = s.hide hid := by
  unfold State.answerResolve
  try dsimp only
  repeat' (first | with_reducible rfl | (simp only [State.modSel_hide, State.post_hide, State.askPass_hide, State.lookDry_hide, h_shell, h_str, h_coll, h_reqs, h_regs, h_log, foldl_hide, ite_hide, ite_self, implies_true, and_self]; done) | (with_reducible refine (foldl_hide _ (fun s x => ?_) _ _).trans ?_) | split | (simp only [State.modSel_hide, State.post_hide, State.askPass_hide, State.lookDry_hide, h_shell, h_str, h_coll, h_reqs, h_regs, h_log, foldl_hide, ite_hide, ite_self, implies_true, and_self]))

theorem State.walkEnded_hide (h_str : StateUnit.str ∈ hid)  (x : Sel) (w : WalkMsg) (s : State) : (State.walkEnded s x w).hide hid = s.hide hid := by
  unfold State.walkEnded
  try dsimp only
  repeat' (first | with_reducible rfl | (simp only [State.askPass_hide, h_str, foldl_hide, ite_hide, ite_self, implies_true, and_self]; done) | (with_reducible refine (foldl_hide _ (fun s x => ?_) _ _).trans ?_) | split | (simp only [State.askPass_hide, h_str, foldl_hide, ite_hide, ite_self, implies_true, and_self]))

theorem State.takeWalk_hide (h_shell : StateUnit.shell ∈ hid) (h_str : StateUnit.str ∈ hid) (h_coll : StateUnit.coll ∈ hid) (h_reqs : StateUnit.reqs ∈ hid) (h_regs : StateUnit.regs ∈ hid) (h_log : StateUnit.log ∈ hid)  (c : CollConfig) (f : Shape) (h : MsgHeader) (body : List Nat) (s : State) : (State.takeWalk s c f h body).hide hid = s.hide hid := by
  unfold State.takeWalk
  try dsimp only
  repeat' (first | with_reducible rfl | (simp only [State.spreadOn_hide, State.askPass_hide, State.beginWalk_hide, State.lookDry_hide, State.histStep_hide, State.walkBlock_hide, State.answerResolve_hide, State.walkEnded_hide, h_shell, h_str, h_coll, h_reqs, h_regs, h_log, foldl_hide, ite_hide, ite_self, implies_true, and_self]; done) | (with_reducible refine (foldl_hide _ (fun s x => ?_) _ _).trans ?_) | split | (simp only [State.spreadOn_hide, State.askPass_hide, State.beginWalk_hide, State.lookDry_hide, State.histStep_hide, State.walkBlock_hide, State.answerResolve_hide, State.walkEnded_hide, h_shell, h_str, h_coll, h_reqs, h_regs, h_log, foldl_hide, ite_hide, ite_self, implies_true, and_self]))

theorem State.takeHist_hide (h_shell : StateUnit.shell ∈ hid) (h_str : StateUnit.str ∈ hid) (h_coll : StateUnit.coll ∈ hid) (h_reqs : StateUnit.reqs ∈ hid) (h_regs : StateUnit.regs ∈ hid) (h_log : StateUnit.log ∈ hid)  (c : CollConfig) (f : Shape) (h : MsgHeader) (body : List Nat) (s : State) : (State.takeHist s c f h body).hide hid = s.hide hid := by
  unfold State.takeHist
  try dsimp only
  repeat' (first | with_reducible rfl | (simp only [State.modSel_hide, State.dryRound_hide, State.histStep_hide, State.lateMessage_hide, h_shell, h_str, h_coll, h_reqs, h_regs, h_log, foldl_hide, ite_hide, ite_self, implies_true, and_self]; done) | (with_reducible refine (foldl_hide _ (fun s x => ?_) _ _).trans ?_) | split | (simp only [State.modSel_hide, State.dryRound_hide, State.histStep_hide, State.lateMessage_hide, h_shell, h_str, h_coll, h_reqs, h_regs, h_log, foldl_hide, ite_hide, ite_self, implies_true, and_self]))

theorem State.takeFound_hide (h_shell : StateUnit.shell ∈ hid) (h_str : StateUnit.str ∈ hid) (h_coll : StateUnit.coll ∈ hid) (h_reqs : StateUnit.reqs ∈ hid) (h_regs : StateUnit.regs ∈ hid) (h_log : StateUnit.log ∈ hid)  (c : CollConfig) (f : Shape) (h : MsgHeader) (body : List Nat) (s : State) : (State.takeFound s c f h body).hide hid = s.hide hid := by
  unfold State.takeFound
  try dsimp only
  repeat' (first | with_reducible rfl | (simp only [State.rootFound_hide, State.rootGo_hide, State.lateMessage_hide, h_shell, h_str, h_coll, h_reqs, h_regs, h_log, foldl_hide, ite_hide, ite_self, implies_true, and_self]; done) | (with_reducible refine (foldl_hide _ (fun s x => ?_) _ _).trans ?_) | split | (simp only [State.rootFound_hide, State.rootGo_hide, State.lateMessage_hide, h_shell, h_str, h_coll, h_reqs, h_regs, h_log, foldl_hide, ite_hide, ite_self, implies_true, and_self]))

theorem State.takeMessage_hide (h_shell : StateUnit.shell ∈ hid) (h_str : StateUnit.str ∈ hid) (h_drw : StateUnit.drw ∈ hid) (h_ren : StateUnit.ren ∈ hid) (h_coll : StateUnit.coll ∈ hid) (h_reqs : StateUnit.reqs ∈ hid) (h_regs : StateUnit.regs ∈ hid) (h_log : StateUnit.log ∈ hid) (h_ports : StateUnit.ports ∈ hid)  (n : Nat) (role : Nat) (c : CollConfig) (f : Shape) (h : MsgHeader) (body : List Nat) (s : State) : (State.takeMessage s n role c f h body).hide hid = s.hide hid := by
  unfold State.takeMessage
  try dsimp only
  repeat' (first | with_reducible rfl | (simp only [State.rejectAt_hide, State.linkLoop_hide, State.lateMessage_hide, State.mismatch_hide, State.takePartial_hide, State.takeMergedMsg_hide, State.takeDecision_hide, State.takeWalk_hide, State.takeHist_hide, State.takeFound_hide, h_shell, h_str, h_drw, h_ren, h_coll, h_reqs, h_regs, h_log, h_ports, foldl_hide, ite_hide, ite_self, implies_true, and_self]; done) | (with_reducible refine (foldl_hide _ (fun s x => ?_) _ _).trans ?_) | split | (simp only [State.rejectAt_hide, State.linkLoop_hide, State.lateMessage_hide, State.mismatch_hide, State.takePartial_hide, State.takeMergedMsg_hide, State.takeDecision_hide, State.takeWalk_hide, State.takeHist_hide, State.takeFound_hide, h_shell, h_str, h_drw, h_ren, h_coll, h_reqs, h_regs, h_log, h_ports, foldl_hide, ite_hide, ite_self, implies_true, and_self]))

theorem State.bufferReads_hide (h_vat : StateUnit.vat ∈ hid) (h_vatMem : StateUnit.vatMem ∈ hid) (h_regs : StateUnit.regs ∈ hid) (h_log : StateUnit.log ∈ hid)  (w : Window) (first : Nat) (rows : Nat) (found : Checks) (s : State) : (State.bufferReads s w first rows found).hide hid = s.hide hid := by
  unfold State.bufferReads
  try dsimp only
  repeat' (first | with_reducible rfl | (simp only [State.rowRead_hide, h_vat, h_vatMem, h_regs, h_log, foldl_hide, ite_hide, ite_self, implies_true, and_self]; done) | (with_reducible refine (foldl_hide _ (fun s x => ?_) _ _).trans ?_) | split | (simp only [State.rowRead_hide, h_vat, h_vatMem, h_regs, h_log, foldl_hide, ite_hide, ite_self, implies_true, and_self]))

theorem State.sampleBuffer_hide (h_shell : StateUnit.shell ∈ hid) (h_vat : StateUnit.vat ∈ hid) (h_vatMem : StateUnit.vatMem ∈ hid) (h_str : StateUnit.str ∈ hid) (h_drw : StateUnit.drw ∈ hid) (h_ren : StateUnit.ren ∈ hid) (h_coll : StateUnit.coll ∈ hid) (h_reqs : StateUnit.reqs ∈ hid) (h_regs : StateUnit.regs ∈ hid) (h_log : StateUnit.log ∈ hid) (h_ports : StateUnit.ports ∈ hid)  (found : Checks) (n : Nat) (first : Nat) (s : State) : (State.sampleBuffer s found n first).hide hid = s.hide hid := by
  unfold State.sampleBuffer
  try dsimp only
  repeat' (first | with_reducible rfl | (simp only [State.logErr_hide, State.takeMessage_hide, State.bufferReads_hide, State.modVat_hide, h_shell, h_vat, h_vatMem, h_str, h_drw, h_ren, h_coll, h_reqs, h_regs, h_log, h_ports, Vat.release_mem, Vat.release_tags, Vat.release_checks, Vat.release_parity, Vat.release_banks, Vat.zeroTag_banks, Vat.writeRow_banks, Vat.writeRows_banks, Vat.zeroBank_banks, lmod_length, putBack_length, List.length_map, ite_length, foldl_hide, ite_hide, ite_self, implies_true, and_self]; done) | (with_reducible refine (foldl_hide _ (fun s x => ?_) _ _).trans ?_) | split | (simp only [State.logErr_hide, State.takeMessage_hide, State.bufferReads_hide, State.modVat_hide, h_shell, h_vat, h_vatMem, h_str, h_drw, h_ren, h_coll, h_reqs, h_regs, h_log, h_ports, Vat.release_mem, Vat.release_tags, Vat.release_checks, Vat.release_parity, Vat.release_banks, Vat.zeroTag_banks, Vat.writeRow_banks, Vat.writeRows_banks, Vat.zeroBank_banks, lmod_length, putBack_length, List.length_map, ite_length, foldl_hide, ite_hide, ite_self, implies_true, and_self]))

theorem State.sampleAll_hide (h_shell : StateUnit.shell ∈ hid) (h_vat : StateUnit.vat ∈ hid) (h_vatMem : StateUnit.vatMem ∈ hid) (h_str : StateUnit.str ∈ hid) (h_drw : StateUnit.drw ∈ hid) (h_ren : StateUnit.ren ∈ hid) (h_coll : StateUnit.coll ∈ hid) (h_reqs : StateUnit.reqs ∈ hid) (h_regs : StateUnit.regs ∈ hid) (h_log : StateUnit.log ∈ hid) (h_ports : StateUnit.ports ∈ hid)  (found : Checks) (s : State) : (State.sampleAll s found).hide hid = s.hide hid := by
  unfold State.sampleAll
  try dsimp only
  repeat' (first | with_reducible rfl | (simp only [State.sampleBuffer_hide, h_shell, h_vat, h_vatMem, h_str, h_drw, h_ren, h_coll, h_reqs, h_regs, h_log, h_ports, foldl_hide, ite_hide, ite_self, implies_true, and_self]; done) | (with_reducible refine (foldl_hide _ (fun s x => ?_) _ _).trans ?_) | split | (simp only [State.sampleBuffer_hide, h_shell, h_vat, h_vatMem, h_str, h_drw, h_ren, h_coll, h_reqs, h_regs, h_log, h_ports, foldl_hide, ite_hide, ite_self, implies_true, and_self]))

theorem State.giveWhole_hide (h_shell : StateUnit.shell ∈ hid) (h_str : StateUnit.str ∈ hid) (h_coll : StateUnit.coll ∈ hid) (h_reqs : StateUnit.reqs ∈ hid) (h_regs : StateUnit.regs ∈ hid) (h_log : StateUnit.log ∈ hid)  (c : CollConfig) (f : Shape) (x : Sel) (m : Part) (s : State) : (State.giveWhole s c f x m).hide hid = s.hide hid := by
  unfold State.giveWhole
  try dsimp only
  repeat' (first | with_reducible rfl | (simp only [State.modSel_hide, State.giveMerged_hide, State.blockRound_hide, h_shell, h_str, h_coll, h_reqs, h_regs, h_log, foldl_hide, ite_hide, ite_self, implies_true, and_self]; done) | (with_reducible refine (foldl_hide _ (fun s x => ?_) _ _).trans ?_) | split | (simp only [State.modSel_hide, State.giveMerged_hide, State.blockRound_hide, h_shell, h_str, h_coll, h_reqs, h_regs, h_log, foldl_hide, ite_hide, ite_self, implies_true, and_self]))

theorem State.mergeUp_hide (h_shell : StateUnit.shell ∈ hid) (h_str : StateUnit.str ∈ hid) (h_coll : StateUnit.coll ∈ hid) (h_reqs : StateUnit.reqs ∈ hid) (h_regs : StateUnit.regs ∈ hid) (h_log : StateUnit.log ∈ hid)  (c : CollConfig) (f : Shape) (x : Sel) (own : Part) (parts : List Part) (timed : Option Nat) (s : State) : (State.mergeUp s c f x own parts timed).hide hid = s.hide hid := by
  unfold State.mergeUp
  try dsimp only
  repeat' (first | with_reducible rfl | (simp only [State.modSel_hide, State.sendPartial_hide, State.giveMerged_hide, State.rootGo_hide, State.giveWhole_hide, h_shell, h_str, h_coll, h_reqs, h_regs, h_log, foldl_hide, ite_hide, ite_self, implies_true, and_self]; done) | (with_reducible refine (foldl_hide _ (fun s x => ?_) _ _).trans ?_) | split | (simp only [State.modSel_hide, State.sendPartial_hide, State.giveMerged_hide, State.rootGo_hide, State.giveWhole_hide, h_shell, h_str, h_coll, h_reqs, h_regs, h_log, foldl_hide, ite_hide, ite_self, implies_true, and_self]))

theorem State.gatherStep_hide (h_shell : StateUnit.shell ∈ hid) (h_str : StateUnit.str ∈ hid) (h_coll : StateUnit.coll ∈ hid) (h_reqs : StateUnit.reqs ∈ hid) (h_regs : StateUnit.regs ∈ hid) (h_log : StateUnit.log ∈ hid)  (x : Sel) (s : State) : (State.gatherStep s x).hide hid = s.hide hid := by
  unfold State.gatherStep
  try dsimp only
  repeat' (first | with_reducible rfl | (simp only [State.mergeUp_hide, h_shell, h_str, h_coll, h_reqs, h_regs, h_log, foldl_hide, ite_hide, ite_self, implies_true, and_self]; done) | (with_reducible refine (foldl_hide _ (fun s x => ?_) _ _).trans ?_) | split | (simp only [State.mergeUp_hide, h_shell, h_str, h_coll, h_reqs, h_regs, h_log, foldl_hide, ite_hide, ite_self, implies_true, and_self]))

theorem State.gatherAll_hide (h_shell : StateUnit.shell ∈ hid) (h_str : StateUnit.str ∈ hid) (h_coll : StateUnit.coll ∈ hid) (h_reqs : StateUnit.reqs ∈ hid) (h_regs : StateUnit.regs ∈ hid) (h_log : StateUnit.log ∈ hid)   (s : State) : (State.gatherAll s).hide hid = s.hide hid := by
  unfold State.gatherAll
  try dsimp only
  repeat' (first | with_reducible rfl | (simp only [State.gatherStep_hide, h_shell, h_str, h_coll, h_reqs, h_regs, h_log, foldl_hide, ite_hide, ite_self, implies_true, and_self]; done) | (with_reducible refine (foldl_hide _ (fun s x => ?_) _ _).trans ?_) | split | (simp only [State.gatherStep_hide, h_shell, h_str, h_coll, h_reqs, h_regs, h_log, foldl_hide, ite_hide, ite_self, implies_true, and_self]))

theorem State.dryParts_hide (h_coll : StateUnit.coll ∈ hid)  (f : Shape) (slot : Nat) (s : State) : (State.dryParts s f slot).hide hid = s.hide hid := by
  unfold State.dryParts
  try dsimp only
  repeat' (first | with_reducible rfl | (simp only [State.modSel_hide, h_coll, foldl_hide, ite_hide, ite_self, implies_true, and_self]; done) | (with_reducible refine (foldl_hide _ (fun s x => ?_) _ _).trans ?_) | split | (simp only [State.modSel_hide, h_coll, foldl_hide, ite_hide, ite_self, implies_true, and_self]))

theorem State.retryWaits_hide (h_shell : StateUnit.shell ∈ hid) (h_str : StateUnit.str ∈ hid) (h_coll : StateUnit.coll ∈ hid) (h_reqs : StateUnit.reqs ∈ hid) (h_regs : StateUnit.regs ∈ hid) (h_log : StateUnit.log ∈ hid)  (f : Shape) (s : State) : (State.retryWaits s f).hide hid = s.hide hid := by
  unfold State.retryWaits
  try dsimp only
  repeat' (first | with_reducible rfl | (simp only [State.modSel_hide, State.rootGo_hide, h_shell, h_str, h_coll, h_reqs, h_regs, h_log, foldl_hide, ite_hide, ite_self, implies_true, and_self]; done) | (with_reducible refine (foldl_hide _ (fun s x => ?_) _ _).trans ?_) | split | (simp only [State.modSel_hide, State.rootGo_hide, h_shell, h_str, h_coll, h_reqs, h_regs, h_log, foldl_hide, ite_hide, ite_self, implies_true, and_self]))

theorem State.collTick_hide (h_shell : StateUnit.shell ∈ hid) (h_vat : StateUnit.vat ∈ hid) (h_vatMem : StateUnit.vatMem ∈ hid) (h_str : StateUnit.str ∈ hid) (h_drw : StateUnit.drw ∈ hid) (h_ren : StateUnit.ren ∈ hid) (h_coll : StateUnit.coll ∈ hid) (h_reqs : StateUnit.reqs ∈ hid) (h_regs : StateUnit.regs ∈ hid) (h_log : StateUnit.log ∈ hid) (h_ports : StateUnit.ports ∈ hid)  (f : Shape) (found : Checks) (s : State) : (State.collTick s f found).hide hid = s.hide hid := by
  unfold State.collTick
  try dsimp only
  repeat' (first | with_reducible rfl | (simp only [State.sampleAll_hide, State.gatherAll_hide, State.dryParts_hide, State.retryWaits_hide, h_shell, h_vat, h_vatMem, h_str, h_drw, h_ren, h_coll, h_reqs, h_regs, h_log, h_ports, foldl_hide, ite_hide, ite_self, implies_true, and_self]; done) | (with_reducible refine (foldl_hide _ (fun s x => ?_) _ _).trans ?_) | split | (simp only [State.sampleAll_hide, State.gatherAll_hide, State.dryParts_hide, State.retryWaits_hide, h_shell, h_vat, h_vatMem, h_str, h_drw, h_ren, h_coll, h_reqs, h_regs, h_log, h_ports, foldl_hide, ite_hide, ite_self, implies_true, and_self]))

theorem execCollectiveTick_hide (h_clk : StateUnit.clk ∈ hid) (h_shell : StateUnit.shell ∈ hid) (h_vat : StateUnit.vat ∈ hid) (h_vatMem : StateUnit.vatMem ∈ hid) (h_str : StateUnit.str ∈ hid) (h_drw : StateUnit.drw ∈ hid) (h_ren : StateUnit.ren ∈ hid) (h_coll : StateUnit.coll ∈ hid) (h_reqs : StateUnit.reqs ∈ hid) (h_regs : StateUnit.regs ∈ hid) (h_log : StateUnit.log ∈ hid) (h_ports : StateUnit.ports ∈ hid) (t : Time) (found : Checks) {s t' : State} (e : execCollectiveTick t found s = .next t') : t'.hide hid = s.hide hid := by
  unfold execCollectiveTick at e
  try dsimp only at e
  rw [Host.Outcome.next.injEq] at e
  subst e
  repeat' (first | with_reducible rfl | (simp only [State.at_hide, State.collTick_hide, h_clk, h_shell, h_vat, h_vatMem, h_str, h_drw, h_ren, h_coll, h_reqs, h_regs, h_log, h_ports, foldl_hide, ite_hide, ite_self, implies_true, and_self]; done) | (with_reducible refine (foldl_hide _ (fun s x => ?_) _ _).trans ?_) | split | (simp only [State.at_hide, State.collTick_hide, h_clk, h_shell, h_vat, h_vatMem, h_str, h_drw, h_ren, h_coll, h_reqs, h_regs, h_log, h_ports, foldl_hide, ite_hide, ite_self, implies_true, and_self]))

theorem execMessageSend_hide (h_clk : StateUnit.clk ∈ hid) (h_coll : StateUnit.coll ∈ hid) (h_ports : StateUnit.ports ∈ hid) (t : Time) {s t' : State} (e : execMessageSend t s = .next t') : t'.hide hid = s.hide hid := by
  unfold execMessageSend at e
  try dsimp only at e
  rw [Host.Outcome.next.injEq] at e
  subst e
  repeat' (first | with_reducible rfl | (simp only [State.at_hide, State.modColl_hide, State.modPorts_hide, h_clk, h_coll, h_ports, foldl_hide, ite_hide, ite_self, implies_true, and_self]; done) | (with_reducible refine (foldl_hide _ (fun s x => ?_) _ _).trans ?_) | split | (simp only [State.at_hide, State.modColl_hide, State.modPorts_hide, h_clk, h_coll, h_ports, foldl_hide, ite_hide, ite_self, implies_true, and_self]))

theorem State.giveMaskLate_hide (h_shell : StateUnit.shell ∈ hid) (h_str : StateUnit.str ∈ hid) (h_ren : StateUnit.ren ∈ hid) (h_coll : StateUnit.coll ∈ hid) (h_reqs : StateUnit.reqs ∈ hid) (h_regs : StateUnit.regs ∈ hid) (h_log : StateUnit.log ∈ hid)  (x : Sel) (s : State) : (State.giveMaskLate s x).hide hid = s.hide hid := by
  unfold State.giveMaskLate
  try dsimp only
  repeat' (first | with_reducible rfl | (simp only [State.logErr_hide, State.engDry_hide, State.modSel_hide, State.endRow_hide, h_shell, h_str, h_ren, h_coll, h_reqs, h_regs, h_log, foldl_hide, ite_hide, ite_self, implies_true, and_self]; done) | (with_reducible refine (foldl_hide _ (fun s x => ?_) _ _).trans ?_) | split | (simp only [State.logErr_hide, State.engDry_hide, State.modSel_hide, State.endRow_hide, h_shell, h_str, h_ren, h_coll, h_reqs, h_regs, h_log, foldl_hide, ite_hide, ite_self, implies_true, and_self]))

theorem State.gatherTimeout_hide (h_shell : StateUnit.shell ∈ hid) (h_str : StateUnit.str ∈ hid) (h_ren : StateUnit.ren ∈ hid) (h_skim : StateUnit.skim ∈ hid) (h_coll : StateUnit.coll ∈ hid) (h_reqs : StateUnit.reqs ∈ hid) (h_mbox : StateUnit.mbox ∈ hid) (h_regs : StateUnit.regs ∈ hid) (h_log : StateUnit.log ∈ hid) (h_ports : StateUnit.ports ∈ hid)  (c : CollConfig) (f : Shape) (x : Sel) (s : State) : (State.gatherTimeout s c f x).hide hid = s.hide hid := by
  unfold State.gatherTimeout
  try dsimp only
  repeat' (first | with_reducible rfl | (simp only [State.peersMissing_hide, State.mergeUp_hide, State.gatherStep_hide, State.giveMaskLate_hide, h_shell, h_str, h_ren, h_skim, h_coll, h_reqs, h_mbox, h_regs, h_log, h_ports, foldl_hide, ite_hide, ite_self, implies_true, and_self]; done) | (with_reducible refine (foldl_hide _ (fun s x => ?_) _ _).trans ?_) | split | (simp only [State.peersMissing_hide, State.mergeUp_hide, State.gatherStep_hide, State.giveMaskLate_hide, h_shell, h_str, h_ren, h_skim, h_coll, h_reqs, h_mbox, h_regs, h_log, h_ports, foldl_hide, ite_hide, ite_self, implies_true, and_self]))

theorem State.mergedTimeout_hide (h_shell : StateUnit.shell ∈ hid) (h_skim : StateUnit.skim ∈ hid) (h_coll : StateUnit.coll ∈ hid) (h_reqs : StateUnit.reqs ∈ hid) (h_mbox : StateUnit.mbox ∈ hid) (h_regs : StateUnit.regs ∈ hid) (h_log : StateUnit.log ∈ hid) (h_ports : StateUnit.ports ∈ hid)  (c : CollConfig) (x : Sel) (s : State) : (State.mergedTimeout s c x).hide hid = s.hide hid := by
  unfold State.mergedTimeout
  try dsimp only
  repeat' (first | with_reducible rfl | (simp only [State.engDry_hide, State.modSel_hide, State.peersMissing_hide, h_shell, h_skim, h_coll, h_reqs, h_mbox, h_regs, h_log, h_ports, foldl_hide, ite_hide, ite_self, implies_true, and_self]; done) | (with_reducible refine (foldl_hide _ (fun s x => ?_) _ _).trans ?_) | split | (simp only [State.engDry_hide, State.modSel_hide, State.peersMissing_hide, h_shell, h_skim, h_coll, h_reqs, h_mbox, h_regs, h_log, h_ports, foldl_hide, ite_hide, ite_self, implies_true, and_self]))

theorem State.passTimeout_hide (h_shell : StateUnit.shell ∈ hid) (h_skim : StateUnit.skim ∈ hid) (h_coll : StateUnit.coll ∈ hid) (h_reqs : StateUnit.reqs ∈ hid) (h_mbox : StateUnit.mbox ∈ hid) (h_regs : StateUnit.regs ∈ hid) (h_log : StateUnit.log ∈ hid) (h_ports : StateUnit.ports ∈ hid)  (c : CollConfig) (f : Shape) (x : Sel) (s : State) : (State.passTimeout s c f x).hide hid = s.hide hid := by
  unfold State.passTimeout
  try dsimp only
  repeat' (first | with_reducible rfl | (simp only [State.modSel_hide, State.dryRound_hide, State.peersMissing_hide, h_shell, h_skim, h_coll, h_reqs, h_mbox, h_regs, h_log, h_ports, foldl_hide, ite_hide, ite_self, implies_true, and_self]; done) | (with_reducible refine (foldl_hide _ (fun s x => ?_) _ _).trans ?_) | split | (simp only [State.modSel_hide, State.dryRound_hide, State.peersMissing_hide, h_shell, h_skim, h_coll, h_reqs, h_mbox, h_regs, h_log, h_ports, foldl_hide, ite_hide, ite_self, implies_true, and_self]))

theorem execRoundTimeout_hide (h_clk : StateUnit.clk ∈ hid) (h_shell : StateUnit.shell ∈ hid) (h_vat : StateUnit.vat ∈ hid) (h_vatMem : StateUnit.vatMem ∈ hid) (h_str : StateUnit.str ∈ hid) (h_drw : StateUnit.drw ∈ hid) (h_ren : StateUnit.ren ∈ hid) (h_skim : StateUnit.skim ∈ hid) (h_coll : StateUnit.coll ∈ hid) (h_reqs : StateUnit.reqs ∈ hid) (h_mbox : StateUnit.mbox ∈ hid) (h_regs : StateUnit.regs ∈ hid) (h_log : StateUnit.log ∈ hid) (h_ports : StateUnit.ports ∈ hid) (t : Time) (slot : BitVec 12) (posn : Nat) (timer : Expiry) {s t' : State} (e : execRoundTimeout t slot posn timer s = .next t') : t'.hide hid = s.hide hid := by
  unfold execRoundTimeout at e
  try dsimp only at e
  rw [Host.Outcome.next.injEq] at e
  subst e
  repeat' (first | with_reducible rfl | (simp only [State.at_hide, State.collTick_hide, State.gatherTimeout_hide, State.mergedTimeout_hide, State.passTimeout_hide, h_clk, h_shell, h_vat, h_vatMem, h_str, h_drw, h_ren, h_skim, h_coll, h_reqs, h_mbox, h_regs, h_log, h_ports, foldl_hide, ite_hide, ite_self, implies_true, and_self]; done) | (with_reducible refine (foldl_hide _ (fun s x => ?_) _ _).trans ?_) | split | (simp only [State.at_hide, State.collTick_hide, State.gatherTimeout_hide, State.mergedTimeout_hide, State.passTimeout_hide, h_clk, h_shell, h_vat, h_vatMem, h_str, h_drw, h_ren, h_skim, h_coll, h_reqs, h_mbox, h_regs, h_log, h_ports, foldl_hide, ite_hide, ite_self, implies_true, and_self]))

/-! ### Machine/Cores.lean -/

theorem State.failoverEvent_hide (h_skim : StateUnit.skim ∈ hid) (h_mbox : StateUnit.mbox ∈ hid) (h_ports : StateUnit.ports ∈ hid)  (role : Nat) (core : Nat) (new : Nat) (cause : Nat) (s : State) : (State.failoverEvent s role core new cause).hide hid = s.hide hid := by
  unfold State.failoverEvent
  try dsimp only
  repeat' (first | with_reducible rfl | (simp only [State.broadcast_hide, h_skim, h_mbox, h_ports, foldl_hide, ite_hide, ite_self, implies_true, and_self]; done) | (with_reducible refine (foldl_hide _ (fun s x => ?_) _ _).trans ?_) | split | (simp only [State.broadcast_hide, h_skim, h_mbox, h_ports, foldl_hide, ite_hide, ite_self, implies_true, and_self]))

theorem State.haltRole_hide (h_skim : StateUnit.skim ∈ hid) (h_boot : StateUnit.boot ∈ hid) (h_mbox : StateUnit.mbox ∈ hid) (h_regs : StateUnit.regs ∈ hid) (h_log : StateUnit.log ∈ hid) (h_ports : StateUnit.ports ∈ hid)  (role : Nat) (core : Nat) (cause : Nat) (s : State) : (State.haltRole s role core cause).hide hid = s.hide hid := by
  unfold State.haltRole
  try dsimp only
  repeat' (first | with_reducible rfl | (simp only [State.logErr_hide, State.failoverEvent_hide, State.modBoot_hide, h_skim, h_boot, h_mbox, h_regs, h_log, h_ports, foldl_hide, ite_hide, ite_self, implies_true, and_self]; done) | (with_reducible refine (foldl_hide _ (fun s x => ?_) _ _).trans ?_) | (with_reducible refine State.modBoot_hide (by assumption) _ (fun b => by (try dsimp only); first | exact ⟨rfl, rfl⟩ | (split <;> exact ⟨rfl, rfl⟩) | (split <;> split <;> exact ⟨rfl, rfl⟩)) _) | split | (simp only [State.logErr_hide, State.failoverEvent_hide, State.modBoot_hide, h_skim, h_boot, h_mbox, h_regs, h_log, h_ports, foldl_hide, ite_hide, ite_self, implies_true, and_self]))

theorem State.coreFails_hide (h_skim : StateUnit.skim ∈ hid) (h_boot : StateUnit.boot ∈ hid) (h_mbox : StateUnit.mbox ∈ hid) (h_regs : StateUnit.regs ∈ hid) (h_log : StateUnit.log ∈ hid) (h_ports : StateUnit.ports ∈ hid)  (core : Nat) (cause : Nat) (s : State) : (State.coreFails s core cause).hide hid = s.hide hid := by
  unfold State.coreFails
  try dsimp only
  repeat' (first | with_reducible rfl | (simp only [State.logErr_hide, State.haltRole_hide, State.modBoot_hide, h_skim, h_boot, h_mbox, h_regs, h_log, h_ports, foldl_hide, ite_hide, ite_self, implies_true, and_self]; done) | (with_reducible refine (foldl_hide _ (fun s x => ?_) _ _).trans ?_) | (with_reducible refine State.modBoot_hide (by assumption) _ (fun b => by (try dsimp only); first | exact ⟨rfl, rfl⟩ | (split <;> exact ⟨rfl, rfl⟩) | (split <;> split <;> exact ⟨rfl, rfl⟩)) _) | split | (simp only [State.logErr_hide, State.haltRole_hide, State.modBoot_hide, h_skim, h_boot, h_mbox, h_regs, h_log, h_ports, foldl_hide, ite_hide, ite_self, implies_true, and_self]))

theorem execWatchdogExpiry_hide (h_clk : StateUnit.clk ∈ hid) (h_skim : StateUnit.skim ∈ hid) (h_boot : StateUnit.boot ∈ hid) (h_mbox : StateUnit.mbox ∈ hid) (h_regs : StateUnit.regs ∈ hid) (h_log : StateUnit.log ∈ hid) (h_ports : StateUnit.ports ∈ hid) (t : Time) (core : Nat) {s t' : State} (e : execWatchdogExpiry t core s = .next t') : t'.hide hid = s.hide hid := by
  unfold execWatchdogExpiry at e
  try dsimp only at e
  rw [Host.Outcome.next.injEq] at e
  subst e
  repeat' (first | with_reducible rfl | (simp only [State.at_hide, State.coreFails_hide, h_clk, h_skim, h_boot, h_mbox, h_regs, h_log, h_ports, foldl_hide, ite_hide, ite_self, implies_true, and_self]; done) | (with_reducible refine (foldl_hide _ (fun s x => ?_) _ _).trans ?_) | split | (simp only [State.at_hide, State.coreFails_hide, h_clk, h_skim, h_boot, h_mbox, h_regs, h_log, h_ports, foldl_hide, ite_hide, ite_self, implies_true, and_self]))

theorem execUnhandledTrap_hide (h_clk : StateUnit.clk ∈ hid) (h_skim : StateUnit.skim ∈ hid) (h_boot : StateUnit.boot ∈ hid) (h_mbox : StateUnit.mbox ∈ hid) (h_regs : StateUnit.regs ∈ hid) (h_log : StateUnit.log ∈ hid) (h_ports : StateUnit.ports ∈ hid) (t : Time) (core : Nat) (addr : Word) (code : Byte) {s t' : State} (e : execUnhandledTrap t core addr code s = .next t') : t'.hide hid = s.hide hid := by
  unfold execUnhandledTrap at e
  try dsimp only at e
  rw [Host.Outcome.next.injEq] at e
  subst e
  repeat' (first | with_reducible rfl | (simp only [State.at_hide, State.logErr_hide, State.bootFail_hide, State.bootRestart_hide, State.coreFails_hide, h_clk, h_skim, h_boot, h_mbox, h_regs, h_log, h_ports, foldl_hide, ite_hide, ite_self, implies_true, and_self]; done) | (with_reducible refine (foldl_hide _ (fun s x => ?_) _ _).trans ?_) | split | (simp only [State.at_hide, State.logErr_hide, State.bootFail_hide, State.bootRestart_hide, State.coreFails_hide, h_clk, h_skim, h_boot, h_mbox, h_regs, h_log, h_ports, foldl_hide, ite_hide, ite_self, implies_true, and_self]))

theorem execPrivateSramError_hide (h_clk : StateUnit.clk ∈ hid) (h_skim : StateUnit.skim ∈ hid) (h_boot : StateUnit.boot ∈ hid) (h_mbox : StateUnit.mbox ∈ hid) (h_regs : StateUnit.regs ∈ hid) (h_log : StateUnit.log ∈ hid) (h_ports : StateUnit.ports ∈ hid) (t : Time) (core : Nat) {s t' : State} (e : execPrivateSramError t core s = .next t') : t'.hide hid = s.hide hid := by
  unfold execPrivateSramError at e
  try dsimp only at e
  rw [Host.Outcome.next.injEq] at e
  subst e
  repeat' (first | with_reducible rfl | (simp only [State.at_hide, State.coreFails_hide, h_clk, h_skim, h_boot, h_mbox, h_regs, h_log, h_ports, foldl_hide, ite_hide, ite_self, implies_true, and_self]; done) | (with_reducible refine (foldl_hide _ (fun s x => ?_) _ _).trans ?_) | split | (simp only [State.at_hide, State.coreFails_hide, h_clk, h_skim, h_boot, h_mbox, h_regs, h_log, h_ports, foldl_hide, ite_hide, ite_self, implies_true, and_self]))

theorem State.takeRung_hide (h_mbox : StateUnit.mbox ∈ hid) (h_regs : StateUnit.regs ∈ hid) (h_log : StateUnit.log ∈ hid)   (s : State) : (State.takeRung s).hide hid = s.hide hid := by
  unfold State.takeRung
  try dsimp only
  repeat' (first | with_reducible rfl | (simp only [State.modCtx_hide, State.takeDoorbell_hide, h_mbox, h_regs, h_log, foldl_hide, ite_hide, ite_self, implies_true, and_self]; done) | (with_reducible refine (foldl_hide _ (fun s x => ?_) _ _).trans ?_) | split | (simp only [State.modCtx_hide, State.takeDoorbell_hide, h_mbox, h_regs, h_log, foldl_hide, ite_hide, ite_self, implies_true, and_self]))

theorem State.failover_hide (h_skim : StateUnit.skim ∈ hid) (h_boot : StateUnit.boot ∈ hid) (h_mbox : StateUnit.mbox ∈ hid) (h_regs : StateUnit.regs ∈ hid) (h_log : StateUnit.log ∈ hid) (h_ports : StateUnit.ports ∈ hid)   (s : State) : (State.failover s).hide hid = s.hide hid := by
  unfold State.failover
  try dsimp only
  repeat' (first | with_reducible rfl | (simp only [State.failoverEvent_hide, State.takeRung_hide, State.modBoot_hide, h_skim, h_boot, h_mbox, h_regs, h_log, h_ports, foldl_hide, ite_hide, ite_self, implies_true, and_self]; done) | (with_reducible refine (foldl_hide _ (fun s x => ?_) _ _).trans ?_) | (with_reducible refine State.modBoot_hide (by assumption) _ (fun b => by (try dsimp only); first | exact ⟨rfl, rfl⟩ | (split <;> exact ⟨rfl, rfl⟩) | (split <;> split <;> exact ⟨rfl, rfl⟩)) _) | split | (simp only [State.failoverEvent_hide, State.takeRung_hide, State.modBoot_hide, h_skim, h_boot, h_mbox, h_regs, h_log, h_ports, foldl_hide, ite_hide, ite_self, implies_true, and_self]))

theorem execCoreFailover_hide (h_clk : StateUnit.clk ∈ hid) (h_skim : StateUnit.skim ∈ hid) (h_boot : StateUnit.boot ∈ hid) (h_mbox : StateUnit.mbox ∈ hid) (h_regs : StateUnit.regs ∈ hid) (h_log : StateUnit.log ∈ hid) (h_ports : StateUnit.ports ∈ hid) (t : Time) {s t' : State} (e : execCoreFailover t s = .next t') : t'.hide hid = s.hide hid := by
  unfold execCoreFailover at e
  try dsimp only at e
  rw [Host.Outcome.next.injEq] at e
  subst e
  repeat' (first | with_reducible rfl | (simp only [State.at_hide, State.failover_hide, h_clk, h_skim, h_boot, h_mbox, h_regs, h_log, h_ports, foldl_hide, ite_hide, ite_self, implies_true, and_self]; done) | (with_reducible refine (foldl_hide _ (fun s x => ?_) _ _).trans ?_) | split | (simp only [State.at_hide, State.failover_hide, h_clk, h_skim, h_boot, h_mbox, h_regs, h_log, h_ports, foldl_hide, ite_hide, ite_self, implies_true, and_self]))

theorem State.logWrite_hide (h_log : StateUnit.log ∈ hid)   (s : State) : (State.logWrite s).hide hid = s.hide hid := by
  unfold State.logWrite
  try dsimp only
  repeat' (first | with_reducible rfl | (simp only [State.modLog_hide, h_log, foldl_hide, ite_hide, ite_self, implies_true, and_self]; done) | (with_reducible refine (foldl_hide _ (fun s x => ?_) _ _).trans ?_) | split | (simp only [State.modLog_hide, h_log, foldl_hide, ite_hide, ite_self, implies_true, and_self]))

theorem execLogWrite_hide (h_clk : StateUnit.clk ∈ hid) (h_log : StateUnit.log ∈ hid) (t : Time) {s t' : State} (e : execLogWrite t s = .next t') : t'.hide hid = s.hide hid := by
  unfold execLogWrite at e
  try dsimp only at e
  rw [Host.Outcome.next.injEq] at e
  subst e
  repeat' (first | with_reducible rfl | (simp only [State.at_hide, State.logWrite_hide, h_clk, h_log, foldl_hide, ite_hide, ite_self, implies_true, and_self]; done) | (with_reducible refine (foldl_hide _ (fun s x => ?_) _ _).trans ?_) | split | (simp only [State.at_hide, State.logWrite_hide, h_clk, h_log, foldl_hide, ite_hide, ite_self, implies_true, and_self]))

theorem execCellarError_hide (h_clk : StateUnit.clk ∈ hid) (h_regs : StateUnit.regs ∈ hid) (h_log : StateUnit.log ∈ hid) (t : Time) (addr : BitVec 48) (cls : Nat) {s t' : State} (e : execCellarError t addr cls s = .next t') : t'.hide hid = s.hide hid := by
  unfold execCellarError at e
  try dsimp only at e
  rw [Host.Outcome.next.injEq] at e
  subst e
  repeat' (first | with_reducible rfl | (simp only [State.at_hide, State.logErr_hide, h_clk, h_regs, h_log, foldl_hide, ite_hide, ite_self, implies_true, and_self]; done) | (with_reducible refine (foldl_hide _ (fun s x => ?_) _ _).trans ?_) | split | (simp only [State.at_hide, State.logErr_hide, h_clk, h_regs, h_log, foldl_hide, ite_hide, ite_self, implies_true, and_self]))

theorem State.clockLoss_hide (h_clk : StateUnit.clk ∈ hid) (h_boot : StateUnit.boot ∈ hid) (h_regs : StateUnit.regs ∈ hid) (h_log : StateUnit.log ∈ hid)  (d : Nat) (s : State) : (State.clockLoss s d).hide hid = s.hide hid := by
  unfold State.clockLoss
  try dsimp only
  repeat' (first | with_reducible rfl | (simp only [State.logErr_hide, State.modBoot_hide, State.modClk_hide, h_clk, h_boot, h_regs, h_log, foldl_hide, ite_hide, ite_self, implies_true, and_self]; done) | (with_reducible refine (foldl_hide _ (fun s x => ?_) _ _).trans ?_) | (with_reducible refine State.modBoot_hide (by assumption) _ (fun b => by (try dsimp only); first | exact ⟨rfl, rfl⟩ | (split <;> exact ⟨rfl, rfl⟩) | (split <;> split <;> exact ⟨rfl, rfl⟩)) _) | split | (simp only [State.logErr_hide, State.modBoot_hide, State.modClk_hide, h_clk, h_boot, h_regs, h_log, foldl_hide, ite_hide, ite_self, implies_true, and_self]))

theorem execClockLoss_hide (h_clk : StateUnit.clk ∈ hid) (h_boot : StateUnit.boot ∈ hid) (h_regs : StateUnit.regs ∈ hid) (h_log : StateUnit.log ∈ hid) (t : Time) (domain : Nat) {s t' : State} (e : execClockLoss t domain s = .next t') : t'.hide hid = s.hide hid := by
  unfold execClockLoss at e
  try dsimp only at e
  rw [Host.Outcome.next.injEq] at e
  subst e
  repeat' (first | with_reducible rfl | (simp only [State.at_hide, State.clockLoss_hide, h_clk, h_boot, h_regs, h_log, foldl_hide, ite_hide, ite_self, implies_true, and_self]; done) | (with_reducible refine (foldl_hide _ (fun s x => ?_) _ _).trans ?_) | split | (simp only [State.at_hide, State.clockLoss_hide, h_clk, h_boot, h_regs, h_log, foldl_hide, ite_hide, ite_self, implies_true, and_self]))

theorem State.clockRuns_hide (h_clk : StateUnit.clk ∈ hid) (h_regs : StateUnit.regs ∈ hid) (h_log : StateUnit.log ∈ hid)  (d : Nat) (s : State) : (State.clockRuns s d).hide hid = s.hide hid := by
  unfold State.clockRuns
  try dsimp only
  repeat' (first | with_reducible rfl | (simp only [State.logErr_hide, State.modClk_hide, h_clk, h_regs, h_log, foldl_hide, ite_hide, ite_self, implies_true, and_self]; done) | (with_reducible refine (foldl_hide _ (fun s x => ?_) _ _).trans ?_) | split | (simp only [State.logErr_hide, State.modClk_hide, h_clk, h_regs, h_log, foldl_hide, ite_hide, ite_self, implies_true, and_self]))

theorem execClockRunsAgain_hide (h_clk : StateUnit.clk ∈ hid) (h_regs : StateUnit.regs ∈ hid) (h_log : StateUnit.log ∈ hid) (t : Time) (domain : Nat) {s t' : State} (e : execClockRunsAgain t domain s = .next t') : t'.hide hid = s.hide hid := by
  unfold execClockRunsAgain at e
  try dsimp only at e
  rw [Host.Outcome.next.injEq] at e
  subst e
  repeat' (first | with_reducible rfl | (simp only [State.at_hide, State.clockRuns_hide, h_clk, h_regs, h_log, foldl_hide, ite_hide, ite_self, implies_true, and_self]; done) | (with_reducible refine (foldl_hide _ (fun s x => ?_) _ _).trans ?_) | split | (simp only [State.at_hide, State.clockRuns_hide, h_clk, h_regs, h_log, foldl_hide, ite_hide, ite_self, implies_true, and_self]))

end Sys2Proof.Machine
end

