-- ==== Sys2Proof/Laws/FramesCommands.lean ====
section
/-! SUPPORT. What each operation and each command leaves in sight (`State.hide`), one lemma each: the remaining commands. -/

set_option Elab.async false

namespace Sys2Proof.Machine

variable {hid : List StateUnit}

set_option linter.unusedSimpArgs false
set_option linter.unusedVariables false
set_option linter.unusedTactic false
set_option linter.unreachableTactic false

/-! ### Machine/Customers.lean -/

theorem cmdSetCustomer_hide (h_skim : StateUnit.skim ∈ hid) (h_rat : StateUnit.rat ∈ hid) (h_mbox : StateUnit.mbox ∈ hid) (h_ports : StateUnit.ports ∈ hid)  (b : Sender) (cust : Nat) (flags : Nat) (f : CustFields) (s : State) : (cmdSetCustomer b cust flags f s).hide hid = s.hide hid := by
  unfold cmdSetCustomer
  try dsimp only
  repeat' (first | with_reducible rfl | (simp only [State.answer_hide, State.refuse_hide, State.modCustomer_hide, State.modRat_hide, h_skim, h_rat, h_mbox, h_ports, foldl_hide, ite_hide, ite_self, implies_true, and_self]; done) | (with_reducible refine (foldl_hide _ (fun s x => ?_) _ _).trans ?_) | split | (simp only [State.answer_hide, State.refuse_hide, State.modCustomer_hide, State.modRat_hide, h_skim, h_rat, h_mbox, h_ports, foldl_hide, ite_hide, ite_self, implies_true, and_self]))

theorem execSetCustomer_hide (h_clk : StateUnit.clk ∈ hid) (h_skim : StateUnit.skim ∈ hid) (h_rat : StateUnit.rat ∈ hid) (h_mbox : StateUnit.mbox ∈ hid) (h_ports : StateUnit.ports ∈ hid) (t : Time) (by_ : Sender) (customer : Nat) (pool : Nat) (flags : Byte) (weight : Nat) (iw : Nat) (rate : Nat) (burst : Nat) {s t' : State} (e : execSetCustomer t by_ customer pool flags weight iw rate burst s = .next t') : t'.hide hid = s.hide hid := by
  unfold execSetCustomer at e
  try dsimp only at e
  rw [Host.Outcome.next.injEq] at e
  subst e
  repeat' (first | with_reducible rfl | (simp only [State.at_hide, State.serve_hide, cmdSetCustomer_hide, h_clk, h_skim, h_rat, h_mbox, h_ports, foldl_hide, ite_hide, ite_self, implies_true, and_self]; done) | (with_reducible refine (foldl_hide _ (fun s x => ?_) _ _).trans ?_) | split | (simp only [State.at_hide, State.serve_hide, cmdSetCustomer_hide, h_clk, h_skim, h_rat, h_mbox, h_ports, foldl_hide, ite_hide, ite_self, implies_true, and_self]))

theorem cmdSetPool_hide (h_skim : StateUnit.skim ∈ hid) (h_rat : StateUnit.rat ∈ hid) (h_mbox : StateUnit.mbox ∈ hid) (h_ports : StateUnit.ports ∈ hid)  (b : Sender) (pool : Nat) (weight : Nat) (turn : Nat) (s : State) : (cmdSetPool b pool weight turn s).hide hid = s.hide hid := by
  unfold cmdSetPool
  try dsimp only
  repeat' (first | with_reducible rfl | (simp only [State.answer_hide, State.refuse_hide, State.modRat_hide, h_skim, h_rat, h_mbox, h_ports, foldl_hide, ite_hide, ite_self, implies_true, and_self]; done) | (with_reducible refine (foldl_hide _ (fun s x => ?_) _ _).trans ?_) | split | (simp only [State.answer_hide, State.refuse_hide, State.modRat_hide, h_skim, h_rat, h_mbox, h_ports, foldl_hide, ite_hide, ite_self, implies_true, and_self]))

theorem execSetPool_hide (h_clk : StateUnit.clk ∈ hid) (h_skim : StateUnit.skim ∈ hid) (h_rat : StateUnit.rat ∈ hid) (h_mbox : StateUnit.mbox ∈ hid) (h_ports : StateUnit.ports ∈ hid) (t : Time) (by_ : Sender) (pool : Nat) (weight : Nat) (turn : Nat) {s t' : State} (e : execSetPool t by_ pool weight turn s = .next t') : t'.hide hid = s.hide hid := by
  unfold execSetPool at e
  try dsimp only at e
  rw [Host.Outcome.next.injEq] at e
  subst e
  repeat' (first | with_reducible rfl | (simp only [State.at_hide, State.serve_hide, cmdSetPool_hide, h_clk, h_skim, h_rat, h_mbox, h_ports, foldl_hide, ite_hide, ite_self, implies_true, and_self]; done) | (with_reducible refine (foldl_hide _ (fun s x => ?_) _ _).trans ?_) | split | (simp only [State.at_hide, State.serve_hide, cmdSetPool_hide, h_clk, h_skim, h_rat, h_mbox, h_ports, foldl_hide, ite_hide, ite_self, implies_true, and_self]))

theorem cmdReadCustomer_hide (h_skim : StateUnit.skim ∈ hid) (h_mbox : StateUnit.mbox ∈ hid) (h_ports : StateUnit.ports ∈ hid)  (b : Sender) (cust : Nat) (s : State) : (cmdReadCustomer b cust s).hide hid = s.hide hid := by
  unfold cmdReadCustomer
  try dsimp only
  repeat' (first | with_reducible rfl | (simp only [State.answer_hide, State.refuse_hide, h_skim, h_mbox, h_ports, foldl_hide, ite_hide, ite_self, implies_true, and_self]; done) | (with_reducible refine (foldl_hide _ (fun s x => ?_) _ _).trans ?_) | split | (simp only [State.answer_hide, State.refuse_hide, h_skim, h_mbox, h_ports, foldl_hide, ite_hide, ite_self, implies_true, and_self]))

theorem execReadCustomer_hide (h_clk : StateUnit.clk ∈ hid) (h_skim : StateUnit.skim ∈ hid) (h_mbox : StateUnit.mbox ∈ hid) (h_ports : StateUnit.ports ∈ hid) (t : Time) (by_ : Sender) (customer : Nat) {s t' : State} (e : execReadCustomer t by_ customer s = .next t') : t'.hide hid = s.hide hid := by
  unfold execReadCustomer at e
  try dsimp only at e
  rw [Host.Outcome.next.injEq] at e
  subst e
  repeat' (first | with_reducible rfl | (simp only [State.at_hide, State.serve_hide, cmdReadCustomer_hide, h_clk, h_skim, h_mbox, h_ports, foldl_hide, ite_hide, ite_self, implies_true, and_self]; done) | (with_reducible refine (foldl_hide _ (fun s x => ?_) _ _).trans ?_) | split | (simp only [State.at_hide, State.serve_hide, cmdReadCustomer_hide, h_clk, h_skim, h_mbox, h_ports, foldl_hide, ite_hide, ite_self, implies_true, and_self]))

/-! ### Machine/Shaping.lean -/

theorem cmdSetStepShape_hide (h_shell : StateUnit.shell ∈ hid) (h_skim : StateUnit.skim ∈ hid) (h_reqs : StateUnit.reqs ∈ hid) (h_mbox : StateUnit.mbox ∈ hid) (h_ports : StateUnit.ports ∈ hid)  (b : Sender) (f : ShapeFields) (s : State) : (cmdSetStepShape b f s).hide hid = s.hide hid := by
  unfold cmdSetStepShape
  try dsimp only
  repeat' (first | with_reducible rfl | (simp only [State.reweigh_hide, State.answer_hide, State.refuse_hide, State.modShell_hide, h_shell, h_skim, h_reqs, h_mbox, h_ports, foldl_hide, ite_hide, ite_self, implies_true, and_self]; done) | (with_reducible refine (foldl_hide _ (fun s x => ?_) _ _).trans ?_) | split | (simp only [State.reweigh_hide, State.answer_hide, State.refuse_hide, State.modShell_hide, h_shell, h_skim, h_reqs, h_mbox, h_ports, foldl_hide, ite_hide, ite_self, implies_true, and_self]))

theorem execSetStepShape_hide (h_clk : StateUnit.clk ∈ hid) (h_shell : StateUnit.shell ∈ hid) (h_skim : StateUnit.skim ∈ hid) (h_reqs : StateUnit.reqs ∈ hid) (h_mbox : StateUnit.mbox ∈ hid) (h_ports : StateUnit.ports ∈ hid) (t : Time) (by_ : Sender) (f : ShapeFields) {s t' : State} (e : execSetStepShape t by_ f s = .next t') : t'.hide hid = s.hide hid := by
  unfold execSetStepShape at e
  try dsimp only at e
  rw [Host.Outcome.next.injEq] at e
  subst e
  repeat' (first | with_reducible rfl | (simp only [State.at_hide, State.serve_hide, cmdSetStepShape_hide, h_clk, h_shell, h_skim, h_reqs, h_mbox, h_ports, foldl_hide, ite_hide, ite_self, implies_true, and_self]; done) | (with_reducible refine (foldl_hide _ (fun s x => ?_) _ _).trans ?_) | split | (simp only [State.at_hide, State.serve_hide, cmdSetStepShape_hide, h_clk, h_shell, h_skim, h_reqs, h_mbox, h_ports, foldl_hide, ite_hide, ite_self, implies_true, and_self]))

theorem cmdSetHomeSlots_hide (h_skim : StateUnit.skim ∈ hid) (h_reqs : StateUnit.reqs ∈ hid) (h_mbox : StateUnit.mbox ∈ hid) (h_ports : StateUnit.ports ∈ hid)  (b : Sender) (first : Nat) (count : Nat) (s : State) : (cmdSetHomeSlots b first count s).hide hid = s.hide hid := by
  unfold cmdSetHomeSlots
  try dsimp only
  repeat' (first | with_reducible rfl | (simp only [State.answer_hide, State.refuse_hide, State.modReqs_hide, h_skim, h_reqs, h_mbox, h_ports, foldl_hide, ite_hide, ite_self, implies_true, and_self]; done) | (with_reducible refine (foldl_hide _ (fun s x => ?_) _ _).trans ?_) | split | (simp only [State.answer_hide, State.refuse_hide, State.modReqs_hide, h_skim, h_reqs, h_mbox, h_ports, foldl_hide, ite_hide, ite_self, implies_true, and_self]))

theorem execSetHomeSlots_hide (h_clk : StateUnit.clk ∈ hid) (h_skim : StateUnit.skim ∈ hid) (h_reqs : StateUnit.reqs ∈ hid) (h_mbox : StateUnit.mbox ∈ hid) (h_ports : StateUnit.ports ∈ hid) (t : Time) (by_ : Sender) (first : Nat) (count : Nat) {s t' : State} (e : execSetHomeSlots t by_ first count s = .next t') : t'.hide hid = s.hide hid := by
  unfold execSetHomeSlots at e
  try dsimp only at e
  rw [Host.Outcome.next.injEq] at e
  subst e
  repeat' (first | with_reducible rfl | (simp only [State.at_hide, State.serve_hide, cmdSetHomeSlots_hide, h_clk, h_skim, h_reqs, h_mbox, h_ports, foldl_hide, ite_hide, ite_self, implies_true, and_self]; done) | (with_reducible refine (foldl_hide _ (fun s x => ?_) _ _).trans ?_) | split | (simp only [State.at_hide, State.serve_hide, cmdSetHomeSlots_hide, h_clk, h_skim, h_reqs, h_mbox, h_ports, foldl_hide, ite_hide, ite_self, implies_true, and_self]))

/-! ### Machine/Plans.lean -/

theorem setVatPlan_hide (h_vat : StateUnit.vat ∈ hid) (h_skim : StateUnit.skim ∈ hid) (h_mbox : StateUnit.mbox ∈ hid) (h_ports : StateUnit.ports ∈ hid)  (b : Sender) (l : List AreaFields) (s : State) : (setVatPlan b l s).hide hid = s.hide hid := by
  unfold setVatPlan
  try dsimp only
  repeat' (first | with_reducible rfl | (simp only [State.answer_hide, State.refuse_hide, State.modVat_hide, h_vat, h_skim, h_mbox, h_ports, Vat.zeroTag_banks, Vat.writeRow_banks, Vat.writeRows_banks, Vat.zeroBank_banks, lmod_length, putBack_length, List.length_map, ite_length, foldl_hide, ite_hide, ite_self, implies_true, and_self]; done) | (with_reducible refine (foldl_hide _ (fun s x => ?_) _ _).trans ?_) | split | (simp only [State.answer_hide, State.refuse_hide, State.modVat_hide, h_vat, h_skim, h_mbox, h_ports, Vat.zeroTag_banks, Vat.writeRow_banks, Vat.writeRows_banks, Vat.zeroBank_banks, lmod_length, putBack_length, List.length_map, ite_length, foldl_hide, ite_hide, ite_self, implies_true, and_self]))

theorem cmdSetVatPlan_hide (h_clk : StateUnit.clk ∈ hid) (h_vat : StateUnit.vat ∈ hid) (h_str : StateUnit.str ∈ hid) (h_skim : StateUnit.skim ∈ hid) (h_mbox : StateUnit.mbox ∈ hid) (h_regs : StateUnit.regs ∈ hid) (h_log : StateUnit.log ∈ hid) (h_ports : StateUnit.ports ∈ hid)  (b : Sender) (l : List AreaFields) (s : State) : (cmdSetVatPlan b l s).hide hid = s.hide hid := by
  unfold cmdSetVatPlan
  try dsimp only
  repeat' (first | with_reducible rfl | (simp only [State.withPower_hide, setVatPlan_hide, h_clk, h_vat, h_str, h_skim, h_mbox, h_regs, h_log, h_ports, foldl_hide, ite_hide, ite_self, implies_true, and_self]; done) | (with_reducible refine (foldl_hide _ (fun s x => ?_) _ _).trans ?_) | split | (simp only [State.withPower_hide, setVatPlan_hide, h_clk, h_vat, h_str, h_skim, h_mbox, h_regs, h_log, h_ports, foldl_hide, ite_hide, ite_self, implies_true, and_self]))

theorem execSetVatPlan_hide (h_clk : StateUnit.clk ∈ hid) (h_vat : StateUnit.vat ∈ hid) (h_str : StateUnit.str ∈ hid) (h_skim : StateUnit.skim ∈ hid) (h_mbox : StateUnit.mbox ∈ hid) (h_regs : StateUnit.regs ∈ hid) (h_log : StateUnit.log ∈ hid) (h_ports : StateUnit.ports ∈ hid) (t : Time) (by_ : Sender) (areas : List AreaFields) {s t' : State} (e : execSetVatPlan t by_ areas s = .next t') : t'.hide hid = s.hide hid := by
  unfold execSetVatPlan at e
  try dsimp only at e
  rw [Host.Outcome.next.injEq] at e
  subst e
  repeat' (first | with_reducible rfl | (simp only [State.at_hide, State.serve_hide, cmdSetVatPlan_hide, h_clk, h_vat, h_str, h_skim, h_mbox, h_regs, h_log, h_ports, foldl_hide, ite_hide, ite_self, implies_true, and_self]; done) | (with_reducible refine (foldl_hide _ (fun s x => ?_) _ _).trans ?_) | split | (simp only [State.at_hide, State.serve_hide, cmdSetVatPlan_hide, h_clk, h_vat, h_str, h_skim, h_mbox, h_regs, h_log, h_ports, foldl_hide, ite_hide, ite_self, implies_true, and_self]))

theorem cmdOpenWindow_hide (h_vat : StateUnit.vat ∈ hid) (h_skim : StateUnit.skim ∈ hid) (h_mbox : StateUnit.mbox ∈ hid) (h_ports : StateUnit.ports ∈ hid)  (b : Sender) (die : Nat) (area : Nat) (role : Nat) (firstRow : Nat) (length : Nat) (peer : Nat) (s : State) : (cmdOpenWindow b die area role firstRow length peer s).hide hid = s.hide hid := by
  unfold cmdOpenWindow
  try dsimp only
  repeat' (first | with_reducible rfl | (simp only [State.answer_hide, State.refuse_hide, State.modVat_hide, h_vat, h_skim, h_mbox, h_ports, Vat.zeroTag_banks, Vat.writeRow_banks, Vat.writeRows_banks, Vat.zeroBank_banks, lmod_length, putBack_length, List.length_map, ite_length, foldl_hide, ite_hide, ite_self, implies_true, and_self]; done) | (with_reducible refine (foldl_hide _ (fun s x => ?_) _ _).trans ?_) | split | (simp only [State.answer_hide, State.refuse_hide, State.modVat_hide, h_vat, h_skim, h_mbox, h_ports, Vat.zeroTag_banks, Vat.writeRow_banks, Vat.writeRows_banks, Vat.zeroBank_banks, lmod_length, putBack_length, List.length_map, ite_length, foldl_hide, ite_hide, ite_self, implies_true, and_self]))

theorem execOpenWindow_hide (h_clk : StateUnit.clk ∈ hid) (h_vat : StateUnit.vat ∈ hid) (h_skim : StateUnit.skim ∈ hid) (h_mbox : StateUnit.mbox ∈ hid) (h_ports : StateUnit.ports ∈ hid) (t : Time) (by_ : Sender) (die : Nat) (area : Nat) (role : Nat) (firstRow : Nat) (length : Nat) (peer : Nat) {s t' : State} (e : execOpenWindow t by_ die area role firstRow length peer s = .next t') : t'.hide hid = s.hide hid := by
  unfold execOpenWindow at e
  try dsimp only at e
  rw [Host.Outcome.next.injEq] at e
  subst e
  repeat' (first | with_reducible rfl | (simp only [State.at_hide, State.serve_hide, cmdOpenWindow_hide, h_clk, h_vat, h_skim, h_mbox, h_ports, foldl_hide, ite_hide, ite_self, implies_true, and_self]; done) | (with_reducible refine (foldl_hide _ (fun s x => ?_) _ _).trans ?_) | split | (simp only [State.at_hide, State.serve_hide, cmdOpenWindow_hide, h_clk, h_vat, h_skim, h_mbox, h_ports, foldl_hide, ite_hide, ite_self, implies_true, and_self]))

theorem cmdCloseWindow_hide (h_vat : StateUnit.vat ∈ hid) (h_skim : StateUnit.skim ∈ hid) (h_mbox : StateUnit.mbox ∈ hid) (h_ports : StateUnit.ports ∈ hid)  (b : Sender) (n : Nat) (s : State) : (cmdCloseWindow b n s).hide hid = s.hide hid := by
  unfold cmdCloseWindow
  try dsimp only
  repeat' (first | with_reducible rfl | (simp only [State.answer_hide, State.refuse_hide, State.modVat_hide, h_vat, h_skim, h_mbox, h_ports, Vat.zeroTag_banks, Vat.writeRow_banks, Vat.writeRows_banks, Vat.zeroBank_banks, lmod_length, putBack_length, List.length_map, ite_length, foldl_hide, ite_hide, ite_self, implies_true, and_self]; done) | (with_reducible refine (foldl_hide _ (fun s x => ?_) _ _).trans ?_) | split | (simp only [State.answer_hide, State.refuse_hide, State.modVat_hide, h_vat, h_skim, h_mbox, h_ports, Vat.zeroTag_banks, Vat.writeRow_banks, Vat.writeRows_banks, Vat.zeroBank_banks, lmod_length, putBack_length, List.length_map, ite_length, foldl_hide, ite_hide, ite_self, implies_true, and_self]))

theorem execCloseWindow_hide (h_clk : StateUnit.clk ∈ hid) (h_vat : StateUnit.vat ∈ hid) (h_skim : StateUnit.skim ∈ hid) (h_mbox : StateUnit.mbox ∈ hid) (h_ports : StateUnit.ports ∈ hid) (t : Time) (by_ : Sender) (window : Nat) {s t' : State} (e : execCloseWindow t by_ window s = .next t') : t'.hide hid = s.hide hid := by
  unfold execCloseWindow at e
  try dsimp only at e
  rw [Host.Outcome.next.injEq] at e
  subst e
  repeat' (first | with_reducible rfl | (simp only [State.at_hide, State.serve_hide, cmdCloseWindow_hide, h_clk, h_vat, h_skim, h_mbox, h_ports, foldl_hide, ite_hide, ite_self, implies_true, and_self]; done) | (with_reducible refine (foldl_hide _ (fun s x => ?_) _ _).trans ?_) | split | (simp only [State.at_hide, State.serve_hide, cmdCloseWindow_hide, h_clk, h_vat, h_skim, h_mbox, h_ports, foldl_hide, ite_hide, ite_self, implies_true, and_self]))

theorem cmdSetCollective_hide (h_skim : StateUnit.skim ∈ hid) (h_coll : StateUnit.coll ∈ hid) (h_mbox : StateUnit.mbox ∈ hid) (h_ports : StateUnit.ports ∈ hid)  (b : Sender) (blen : Nat) (src : Option (List Byte)) (s : State) : (cmdSetCollective b blen src s).hide hid = s.hide hid := by
  unfold cmdSetCollective
  try dsimp only
  repeat' (first | with_reducible rfl | (simp only [State.answer_hide, State.refuse_hide, State.modColl_hide, h_skim, h_coll, h_mbox, h_ports, foldl_hide, ite_hide, ite_self, implies_true, and_self]; done) | (with_reducible refine (foldl_hide _ (fun s x => ?_) _ _).trans ?_) | split | (simp only [State.answer_hide, State.refuse_hide, State.modColl_hide, h_skim, h_coll, h_mbox, h_ports, foldl_hide, ite_hide, ite_self, implies_true, and_self]))

theorem execSetCollective_hide (h_clk : StateUnit.clk ∈ hid) (h_skim : StateUnit.skim ∈ hid) (h_coll : StateUnit.coll ∈ hid) (h_mbox : StateUnit.mbox ∈ hid) (h_ports : StateUnit.ports ∈ hid) (t : Time) (by_ : Sender) (blen : Nat) (src : Option (List Byte)) {s t' : State} (e : execSetCollective t by_ blen src s = .next t') : t'.hide hid = s.hide hid := by
  unfold execSetCollective at e
  try dsimp only at e
  rw [Host.Outcome.next.injEq] at e
  subst e
  repeat' (first | with_reducible rfl | (simp only [State.at_hide, State.serve_hide, cmdSetCollective_hide, h_clk, h_skim, h_coll, h_mbox, h_ports, foldl_hide, ite_hide, ite_self, implies_true, and_self]; done) | (with_reducible refine (foldl_hide _ (fun s x => ?_) _ _).trans ?_) | split | (simp only [State.at_hide, State.serve_hide, cmdSetCollective_hide, h_clk, h_skim, h_coll, h_mbox, h_ports, foldl_hide, ite_hide, ite_self, implies_true, and_self]))

/-! ### Machine/RennetOps.lean -/

theorem State.countPrefetch_hide (h_ren : StateUnit.ren ∈ hid)  (gidx : Nat) (r : RennetRead) (s : State) : (State.countPrefetch s gidx r).hide hid = s.hide hid := by
  unfold State.countPrefetch
  try dsimp only
  repeat' (first | with_reducible rfl | (simp only [State.modRen_hide, h_ren, foldl_hide, ite_hide, ite_self, implies_true, and_self]; done) | (with_reducible refine (foldl_hide _ (fun s x => ?_) _ _).trans ?_) | split | (simp only [State.modRen_hide, h_ren, foldl_hide, ite_hide, ite_self, implies_true, and_self]))

theorem State.fillItem_hide (h_shell : StateUnit.shell ∈ hid) (h_str : StateUnit.str ∈ hid) (h_ren : StateUnit.ren ∈ hid) (h_churn : StateUnit.churn ∈ hid) (h_skim : StateUnit.skim ∈ hid) (h_coll : StateUnit.coll ∈ hid) (h_reqs : StateUnit.reqs ∈ hid) (h_stw : StateUnit.stw ∈ hid) (h_mbox : StateUnit.mbox ∈ hid) (h_regs : StateUnit.regs ∈ hid) (h_log : StateUnit.log ∈ hid) (h_ports : StateUnit.ports ∈ hid)  (g : Grammar) (r : RennetRead) (s : State) : (State.fillItem s g r).hide hid = s.hide hid := by
  unfold State.fillItem
  try dsimp only
  repeat' (first | with_reducible rfl | (simp only [State.retryBuilds_hide, State.countPrefetch_hide, State.modRen_hide, h_shell, h_str, h_ren, h_churn, h_skim, h_coll, h_reqs, h_stw, h_mbox, h_regs, h_log, h_ports, foldl_hide, ite_hide, ite_self, implies_true, and_self]; done) | (with_reducible refine (foldl_hide _ (fun s x => ?_) _ _).trans ?_) | split | (simp only [State.retryBuilds_hide, State.countPrefetch_hide, State.modRen_hide, h_shell, h_str, h_ren, h_churn, h_skim, h_coll, h_reqs, h_stw, h_mbox, h_regs, h_log, h_ports, foldl_hide, ite_hide, ite_self, implies_true, and_self]))

theorem State.celItemDone_hide (h_ports : StateUnit.ports ∈ hid)  (r : RennetRead) (s : State) : (State.celItemDone s r).hide hid = s.hide hid := by
  unfold State.celItemDone
  try dsimp only
  repeat' (first | with_reducible rfl | (simp only [State.modPorts_hide, h_ports, foldl_hide, ite_hide, ite_self, implies_true, and_self]; done) | (with_reducible refine (foldl_hide _ (fun s x => ?_) _ _).trans ?_) | split | (simp only [State.modPorts_hide, h_ports, foldl_hide, ite_hide, ite_self, implies_true, and_self]))

theorem State.maskFill_hide (h_shell : StateUnit.shell ∈ hid) (h_str : StateUnit.str ∈ hid) (h_ren : StateUnit.ren ∈ hid) (h_churn : StateUnit.churn ∈ hid) (h_skim : StateUnit.skim ∈ hid) (h_coll : StateUnit.coll ∈ hid) (h_reqs : StateUnit.reqs ∈ hid) (h_stw : StateUnit.stw ∈ hid) (h_mbox : StateUnit.mbox ∈ hid) (h_regs : StateUnit.regs ∈ hid) (h_log : StateUnit.log ∈ hid) (h_ports : StateUnit.ports ∈ hid)  (g : Grammar) (r : RennetRead) (fin : FillEnd) (s : State) : (State.maskFill s g r fin).hide hid = s.hide hid := by
  unfold State.maskFill
  try dsimp only
  repeat' (first | with_reducible rfl | (simp only [State.logErr_hide, State.logReadFault_hide, State.fillItem_hide, h_shell, h_str, h_ren, h_churn, h_skim, h_coll, h_reqs, h_stw, h_mbox, h_regs, h_log, h_ports, foldl_hide, ite_hide, ite_self, implies_true, and_self]; done) | (with_reducible refine (foldl_hide _ (fun s x => ?_) _ _).trans ?_) | split | (simp only [State.logErr_hide, State.logReadFault_hide, State.fillItem_hide, h_shell, h_str, h_ren, h_churn, h_skim, h_coll, h_reqs, h_stw, h_mbox, h_regs, h_log, h_ports, foldl_hide, ite_hide, ite_self, implies_true, and_self]))

theorem execMaskFillDone_hide (h_clk : StateUnit.clk ∈ hid) (h_shell : StateUnit.shell ∈ hid) (h_str : StateUnit.str ∈ hid) (h_ren : StateUnit.ren ∈ hid) (h_churn : StateUnit.churn ∈ hid) (h_skim : StateUnit.skim ∈ hid) (h_coll : StateUnit.coll ∈ hid) (h_reqs : StateUnit.reqs ∈ hid) (h_stw : StateUnit.stw ∈ hid) (h_mbox : StateUnit.mbox ∈ hid) (h_regs : StateUnit.regs ∈ hid) (h_log : StateUnit.log ∈ hid) (h_ports : StateUnit.ports ∈ hid) (t : Time) (gidx : BitVec 12) (kind : FillKind) (fin : FillEnd) {s t' : State} (e : execMaskFillDone t gidx kind fin s = .next t') : t'.hide hid = s.hide hid := by
  unfold execMaskFillDone at e
  try dsimp only at e
  rw [Host.Outcome.next.injEq] at e
  subst e
  repeat' (first | with_reducible rfl | (simp only [State.at_hide, State.celItemDone_hide, State.maskFill_hide, State.modRen_hide, h_clk, h_shell, h_str, h_ren, h_churn, h_skim, h_coll, h_reqs, h_stw, h_mbox, h_regs, h_log, h_ports, foldl_hide, ite_hide, ite_self, implies_true, and_self]; done) | (with_reducible refine (foldl_hide _ (fun s x => ?_) _ _).trans ?_) | split | (simp only [State.at_hide, State.celItemDone_hide, State.maskFill_hide, State.modRen_hide, h_clk, h_shell, h_str, h_ren, h_churn, h_skim, h_coll, h_reqs, h_stw, h_mbox, h_regs, h_log, h_ports, foldl_hide, ite_hide, ite_self, implies_true, and_self]))

theorem State.sweepPrefetched_hide (h_ren : StateUnit.ren ∈ hid)   (s : State) : (State.sweepPrefetched s).hide hid = s.hide hid := by
  unfold State.sweepPrefetched
  try dsimp only
  repeat' (first | with_reducible rfl | (simp only [State.modRen_hide, h_ren, foldl_hide, ite_hide, ite_self, implies_true, and_self]; done) | (with_reducible refine (foldl_hide _ (fun s x => ?_) _ _).trans ?_) | split | (simp only [State.modRen_hide, h_ren, foldl_hide, ite_hide, ite_self, implies_true, and_self]))

theorem State.prefetchKey_hide (h_ren : StateUnit.ren ∈ hid) (h_ports : StateUnit.ports ∈ hid)  (f : Shape) (k : Nat × Nat × Nat) (s : State) : (State.prefetchKey s f k).hide hid = s.hide hid := by
  unfold State.prefetchKey
  try dsimp only
  repeat' (first | with_reducible rfl | (simp only [State.askItems_hide, h_ren, h_ports, foldl_hide, ite_hide, ite_self, implies_true, and_self]; done) | (with_reducible refine (foldl_hide _ (fun s x => ?_) _ _).trans ?_) | split | (simp only [State.askItems_hide, h_ren, h_ports, foldl_hide, ite_hide, ite_self, implies_true, and_self]))

theorem execPrefetch_hide (h_clk : StateUnit.clk ∈ hid) (h_ren : StateUnit.ren ∈ hid) (h_ports : StateUnit.ports ∈ hid) (t : Time) {s t' : State} (e : execPrefetch t s = .next t') : t'.hide hid = s.hide hid := by
  unfold execPrefetch at e
  try dsimp only at e
  rw [Host.Outcome.next.injEq] at e
  subst e
  repeat' (first | with_reducible rfl | (simp only [State.at_hide, State.sweepPrefetched_hide, State.prefetchKey_hide, h_clk, h_ren, h_ports, foldl_hide, ite_hide, ite_self, implies_true, and_self]; done) | (with_reducible refine (foldl_hide _ (fun s x => ?_) _ _).trans ?_) | split | (simp only [State.at_hide, State.sweepPrefetched_hide, State.prefetchKey_hide, h_clk, h_ren, h_ports, foldl_hide, ite_hide, ite_self, implies_true, and_self]))

theorem execPrefetchTune_hide (h_clk : StateUnit.clk ∈ hid) (h_ren : StateUnit.ren ∈ hid) (t : Time) (gidx : BitVec 12) {s t' : State} (e : execPrefetchTune t gidx s = .next t') : t'.hide hid = s.hide hid := by
  unfold execPrefetchTune at e
  try dsimp only at e
  rw [Host.Outcome.next.injEq] at e
  subst e
  repeat' (first | with_reducible rfl | (simp only [State.at_hide, State.sweepPrefetched_hide, State.modRen_hide, h_clk, h_ren, foldl_hide, ite_hide, ite_self, implies_true, and_self]; done) | (with_reducible refine (foldl_hide _ (fun s x => ?_) _ _).trans ?_) | split | (simp only [State.at_hide, State.sweepPrefetched_hide, State.modRen_hide, h_clk, h_ren, foldl_hide, ite_hide, ite_self, implies_true, and_self]))

/-! ### Machine/Stores.lean -/

theorem cmdLoadProgram_hide (h_drw : StateUnit.drw ∈ hid) (h_skim : StateUnit.skim ∈ hid) (h_mbox : StateUnit.mbox ∈ hid) (h_ports : StateUnit.ports ∈ hid)  (b : Sender) (prog : Nat) (image : Nat) (s : State) : (cmdLoadProgram b prog image s).hide hid = s.hide hid := by
  unfold cmdLoadProgram
  try dsimp only
  repeat' (first | with_reducible rfl | (simp only [State.answer_hide, State.refuse_hide, State.modDrw_hide, h_drw, h_skim, h_mbox, h_ports, foldl_hide, ite_hide, ite_self, implies_true, and_self]; done) | (with_reducible refine (foldl_hide _ (fun s x => ?_) _ _).trans ?_) | split | (simp only [State.answer_hide, State.refuse_hide, State.modDrw_hide, h_drw, h_skim, h_mbox, h_ports, foldl_hide, ite_hide, ite_self, implies_true, and_self]))

theorem execLoadLogitProgram_hide (h_clk : StateUnit.clk ∈ hid) (h_drw : StateUnit.drw ∈ hid) (h_skim : StateUnit.skim ∈ hid) (h_mbox : StateUnit.mbox ∈ hid) (h_ports : StateUnit.ports ∈ hid) (t : Time) (by_ : Sender) (prog : Nat) (image : BitVec 1024) {s t' : State} (e : execLoadLogitProgram t by_ prog image s = .next t') : t'.hide hid = s.hide hid := by
  unfold execLoadLogitProgram at e
  try dsimp only at e
  rw [Host.Outcome.next.injEq] at e
  subst e
  repeat' (first | with_reducible rfl | (simp only [State.at_hide, State.serve_hide, cmdLoadProgram_hide, h_clk, h_drw, h_skim, h_mbox, h_ports, foldl_hide, ite_hide, ite_self, implies_true, and_self]; done) | (with_reducible refine (foldl_hide _ (fun s x => ?_) _ _).trans ?_) | split | (simp only [State.at_hide, State.serve_hide, cmdLoadProgram_hide, h_clk, h_drw, h_skim, h_mbox, h_ports, foldl_hide, ite_hide, ite_self, implies_true, and_self]))

theorem cmdLoadBias_hide (h_drw : StateUnit.drw ∈ hid) (h_skim : StateUnit.skim ∈ hid) (h_mbox : StateUnit.mbox ∈ hid) (h_ports : StateUnit.ports ∈ hid)  (b : Sender) (list : Nat) (nent : Nat) (src : Option (List Byte)) (s : State) : (cmdLoadBias b list nent src s).hide hid = s.hide hid := by
  unfold cmdLoadBias
  try dsimp only
  repeat' (first | with_reducible rfl | (simp only [State.answer_hide, State.refuse_hide, State.modDrw_hide, h_drw, h_skim, h_mbox, h_ports, foldl_hide, ite_hide, ite_self, implies_true, and_self]; done) | (with_reducible refine (foldl_hide _ (fun s x => ?_) _ _).trans ?_) | split | (simp only [State.answer_hide, State.refuse_hide, State.modDrw_hide, h_drw, h_skim, h_mbox, h_ports, foldl_hide, ite_hide, ite_self, implies_true, and_self]))

theorem execLoadBiasList_hide (h_clk : StateUnit.clk ∈ hid) (h_drw : StateUnit.drw ∈ hid) (h_skim : StateUnit.skim ∈ hid) (h_mbox : StateUnit.mbox ∈ hid) (h_ports : StateUnit.ports ∈ hid) (t : Time) (by_ : Sender) (list : Nat) (nent : Nat) (src : Option (List Byte)) {s t' : State} (e : execLoadBiasList t by_ list nent src s = .next t') : t'.hide hid = s.hide hid := by
  unfold execLoadBiasList at e
  try dsimp only at e
  rw [Host.Outcome.next.injEq] at e
  subst e
  repeat' (first | with_reducible rfl | (simp only [State.at_hide, State.serve_hide, cmdLoadBias_hide, h_clk, h_drw, h_skim, h_mbox, h_ports, foldl_hide, ite_hide, ite_self, implies_true, and_self]; done) | (with_reducible refine (foldl_hide _ (fun s x => ?_) _ _).trans ?_) | split | (simp only [State.at_hide, State.serve_hide, cmdLoadBias_hide, h_clk, h_drw, h_skim, h_mbox, h_ports, foldl_hide, ite_hide, ite_self, implies_true, and_self]))

theorem cmdLoadVocab_hide (h_churn : StateUnit.churn ∈ hid) (h_skim : StateUnit.skim ∈ hid) (h_mbox : StateUnit.mbox ∈ hid) (h_ports : StateUnit.ports ∈ hid)  (b : Sender) (vidx : Nat) (len : Nat) (addr : BitVec 64) (src : Option (List Byte)) (s : State) : (cmdLoadVocab b vidx len addr src s).hide hid = s.hide hid := by
  unfold cmdLoadVocab
  try dsimp only
  repeat' (first | with_reducible rfl | (simp only [State.imageRead_hide, State.answer_hide, State.refuse_hide, State.modChurn_hide, h_churn, h_skim, h_mbox, h_ports, foldl_hide, ite_hide, ite_self, implies_true, and_self]; done) | (with_reducible refine (foldl_hide _ (fun s x => ?_) _ _).trans ?_) | split | (simp only [State.imageRead_hide, State.answer_hide, State.refuse_hide, State.modChurn_hide, h_churn, h_skim, h_mbox, h_ports, foldl_hide, ite_hide, ite_self, implies_true, and_self]))

theorem execLoadVocab_hide (h_clk : StateUnit.clk ∈ hid) (h_churn : StateUnit.churn ∈ hid) (h_skim : StateUnit.skim ∈ hid) (h_mbox : StateUnit.mbox ∈ hid) (h_ports : StateUnit.ports ∈ hid) (t : Time) (by_ : Sender) (vidx : Nat) (len : Nat) (addr : BitVec 64) (src : Option (List Byte)) {s t' : State} (e : execLoadVocab t by_ vidx len addr src s = .next t') : t'.hide hid = s.hide hid := by
  unfold execLoadVocab at e
  try dsimp only at e
  rw [Host.Outcome.next.injEq] at e
  subst e
  repeat' (first | with_reducible rfl | (simp only [State.at_hide, State.serve_hide, cmdLoadVocab_hide, h_clk, h_churn, h_skim, h_mbox, h_ports, foldl_hide, ite_hide, ite_self, implies_true, and_self]; done) | (with_reducible refine (foldl_hide _ (fun s x => ?_) _ _).trans ?_) | split | (simp only [State.at_hide, State.serve_hide, cmdLoadVocab_hide, h_clk, h_churn, h_skim, h_mbox, h_ports, foldl_hide, ite_hide, ite_self, implies_true, and_self]))

theorem cmdReleaseVocab_hide (h_churn : StateUnit.churn ∈ hid) (h_skim : StateUnit.skim ∈ hid) (h_mbox : StateUnit.mbox ∈ hid) (h_ports : StateUnit.ports ∈ hid)  (b : Sender) (vidx : Nat) (s : State) : (cmdReleaseVocab b vidx s).hide hid = s.hide hid := by
  unfold cmdReleaseVocab
  try dsimp only
  repeat' (first | with_reducible rfl | (simp only [State.answer_hide, State.refuse_hide, State.modChurn_hide, h_churn, h_skim, h_mbox, h_ports, foldl_hide, ite_hide, ite_self, implies_true, and_self]; done) | (with_reducible refine (foldl_hide _ (fun s x => ?_) _ _).trans ?_) | split | (simp only [State.answer_hide, State.refuse_hide, State.modChurn_hide, h_churn, h_skim, h_mbox, h_ports, foldl_hide, ite_hide, ite_self, implies_true, and_self]))

theorem execReleaseVocab_hide (h_clk : StateUnit.clk ∈ hid) (h_churn : StateUnit.churn ∈ hid) (h_skim : StateUnit.skim ∈ hid) (h_mbox : StateUnit.mbox ∈ hid) (h_ports : StateUnit.ports ∈ hid) (t : Time) (by_ : Sender) (vidx : Nat) {s t' : State} (e : execReleaseVocab t by_ vidx s = .next t') : t'.hide hid = s.hide hid := by
  unfold execReleaseVocab at e
  try dsimp only at e
  rw [Host.Outcome.next.injEq] at e
  subst e
  repeat' (first | with_reducible rfl | (simp only [State.at_hide, State.serve_hide, cmdReleaseVocab_hide, h_clk, h_churn, h_skim, h_mbox, h_ports, foldl_hide, ite_hide, ite_self, implies_true, and_self]; done) | (with_reducible refine (foldl_hide _ (fun s x => ?_) _ _).trans ?_) | split | (simp only [State.at_hide, State.serve_hide, cmdReleaseVocab_hide, h_clk, h_churn, h_skim, h_mbox, h_ports, foldl_hide, ite_hide, ite_self, implies_true, and_self]))

theorem cmdSetPartition_hide (h_churn : StateUnit.churn ∈ hid) (h_skim : StateUnit.skim ∈ hid) (h_mbox : StateUnit.mbox ∈ hid) (h_ports : StateUnit.ports ∈ hid)  (b : Sender) (lock : Bool) (masks : List (BitVec 16)) (map : List Nat) (s : State) : (cmdSetPartition b lock masks map s).hide hid = s.hide hid := by
  unfold cmdSetPartition
  try dsimp only
  repeat' (first | with_reducible rfl | (simp only [State.answer_hide, State.refuse_hide, State.modChurn_hide, h_churn, h_skim, h_mbox, h_ports, foldl_hide, ite_hide, ite_self, implies_true, and_self]; done) | (with_reducible refine (foldl_hide _ (fun s x => ?_) _ _).trans ?_) | split | (simp only [State.answer_hide, State.refuse_hide, State.modChurn_hide, h_churn, h_skim, h_mbox, h_ports, foldl_hide, ite_hide, ite_self, implies_true, and_self]))

theorem execSetVocabPartition_hide (h_clk : StateUnit.clk ∈ hid) (h_churn : StateUnit.churn ∈ hid) (h_skim : StateUnit.skim ∈ hid) (h_mbox : StateUnit.mbox ∈ hid) (h_ports : StateUnit.ports ∈ hid) (t : Time) (by_ : Sender) (lock : Bool) (masks : List (BitVec 16)) (map : List Nat) {s t' : State} (e : execSetVocabPartition t by_ lock masks map s = .next t') : t'.hide hid = s.hide hid := by
  unfold execSetVocabPartition at e
  try dsimp only at e
  rw [Host.Outcome.next.injEq] at e
  subst e
  repeat' (first | with_reducible rfl | (simp only [State.at_hide, State.serve_hide, cmdSetPartition_hide, h_clk, h_churn, h_skim, h_mbox, h_ports, foldl_hide, ite_hide, ite_self, implies_true, and_self]; done) | (with_reducible refine (foldl_hide _ (fun s x => ?_) _ _).trans ?_) | split | (simp only [State.at_hide, State.serve_hide, cmdSetPartition_hide, h_clk, h_churn, h_skim, h_mbox, h_ports, foldl_hide, ite_hide, ite_self, implies_true, and_self]))

theorem cmdLoadGrammar_hide (h_ren : StateUnit.ren ∈ hid) (h_skim : StateUnit.skim ∈ hid) (h_mbox : StateUnit.mbox ∈ hid) (h_ports : StateUnit.ports ∈ hid)  (b : Sender) (handle : Handle) (len : Nat) (addr : BitVec 64) (src : Option (List Byte)) (s : State) : (cmdLoadGrammar b handle len addr src s).hide hid = s.hide hid := by
  unfold cmdLoadGrammar
  try dsimp only
  repeat' (first | with_reducible rfl | (simp only [State.imageRead_hide, State.answer_hide, State.refuse_hide, State.modRen_hide, h_ren, h_skim, h_mbox, h_ports, foldl_hide, ite_hide, ite_self, implies_true, and_self]; done) | (with_reducible refine (foldl_hide _ (fun s x => ?_) _ _).trans ?_) | split | (simp only [State.imageRead_hide, State.answer_hide, State.refuse_hide, State.modRen_hide, h_ren, h_skim, h_mbox, h_ports, foldl_hide, ite_hide, ite_self, implies_true, and_self]))

theorem execLoadGrammar_hide (h_clk : StateUnit.clk ∈ hid) (h_ren : StateUnit.ren ∈ hid) (h_skim : StateUnit.skim ∈ hid) (h_mbox : StateUnit.mbox ∈ hid) (h_ports : StateUnit.ports ∈ hid) (t : Time) (by_ : Sender) (handle : Handle) (len : Nat) (addr : BitVec 64) (src : Option (List Byte)) {s t' : State} (e : execLoadGrammar t by_ handle len addr src s = .next t') : t'.hide hid = s.hide hid := by
  unfold execLoadGrammar at e
  try dsimp only at e
  rw [Host.Outcome.next.injEq] at e
  subst e
  repeat' (first | with_reducible rfl | (simp only [State.at_hide, State.serve_hide, cmdLoadGrammar_hide, h_clk, h_ren, h_skim, h_mbox, h_ports, foldl_hide, ite_hide, ite_self, implies_true, and_self]; done) | (with_reducible refine (foldl_hide _ (fun s x => ?_) _ _).trans ?_) | split | (simp only [State.at_hide, State.serve_hide, cmdLoadGrammar_hide, h_clk, h_ren, h_skim, h_mbox, h_ports, foldl_hide, ite_hide, ite_self, implies_true, and_self]))

theorem cmdReleaseGrammar_hide (h_ren : StateUnit.ren ∈ hid) (h_skim : StateUnit.skim ∈ hid) (h_mbox : StateUnit.mbox ∈ hid) (h_ports : StateUnit.ports ∈ hid)  (b : Sender) (handle : Handle) (s : State) : (cmdReleaseGrammar b handle s).hide hid = s.hide hid := by
  unfold cmdReleaseGrammar
  try dsimp only
  repeat' (first | with_reducible rfl | (simp only [State.answer_hide, State.refuse_hide, State.modRen_hide, h_ren, h_skim, h_mbox, h_ports, Vat.release_mem, Vat.release_tags, Vat.release_checks, Vat.release_parity, Vat.release_banks, foldl_hide, ite_hide, ite_self, implies_true, and_self]; done) | (with_reducible refine (foldl_hide _ (fun s x => ?_) _ _).trans ?_) | split | (simp only [State.answer_hide, State.refuse_hide, State.modRen_hide, h_ren, h_skim, h_mbox, h_ports, Vat.release_mem, Vat.release_tags, Vat.release_checks, Vat.release_parity, Vat.release_banks, foldl_hide, ite_hide, ite_self, implies_true, and_self]))

theorem execReleaseGrammar_hide (h_clk : StateUnit.clk ∈ hid) (h_ren : StateUnit.ren ∈ hid) (h_skim : StateUnit.skim ∈ hid) (h_mbox : StateUnit.mbox ∈ hid) (h_ports : StateUnit.ports ∈ hid) (t : Time) (by_ : Sender) (handle : Handle) {s t' : State} (e : execReleaseGrammar t by_ handle s = .next t') : t'.hide hid = s.hide hid := by
  unfold execReleaseGrammar at e
  try dsimp only at e
  rw [Host.Outcome.next.injEq] at e
  subst e
  repeat' (first | with_reducible rfl | (simp only [State.at_hide, State.serve_hide, cmdReleaseGrammar_hide, h_clk, h_ren, h_skim, h_mbox, h_ports, foldl_hide, ite_hide, ite_self, implies_true, and_self]; done) | (with_reducible refine (foldl_hide _ (fun s x => ?_) _ _).trans ?_) | split | (simp only [State.at_hide, State.serve_hide, cmdReleaseGrammar_hide, h_clk, h_ren, h_skim, h_mbox, h_ports, foldl_hide, ite_hide, ite_self, implies_true, and_self]))

theorem cmdLoadStopSet_hide (h_skim : StateUnit.skim ∈ hid) (h_mbox : StateUnit.mbox ∈ hid) (h_regs : StateUnit.regs ∈ hid) (h_log : StateUnit.log ∈ hid) (h_ports : StateUnit.ports ∈ hid)  (b : Sender) (index : Nat) (host : Bool) (len : Nat) (src : Option (List Byte)) (s : State) : (cmdLoadStopSet b index host len src s).hide hid = s.hide hid := by
  unfold cmdLoadStopSet
  try dsimp only
  repeat' (first | with_reducible rfl | (simp only [State.logErr_hide, State.answer_hide, State.refuse_hide, State.modSkim_hide, h_skim, h_mbox, h_regs, h_log, h_ports, foldl_hide, ite_hide, ite_self, implies_true, and_self]; done) | (with_reducible refine (foldl_hide _ (fun s x => ?_) _ _).trans ?_) | split | (simp only [State.logErr_hide, State.answer_hide, State.refuse_hide, State.modSkim_hide, h_skim, h_mbox, h_regs, h_log, h_ports, foldl_hide, ite_hide, ite_self, implies_true, and_self]))

theorem execLoadStopSet_hide (h_clk : StateUnit.clk ∈ hid) (h_skim : StateUnit.skim ∈ hid) (h_mbox : StateUnit.mbox ∈ hid) (h_regs : StateUnit.regs ∈ hid) (h_log : StateUnit.log ∈ hid) (h_ports : StateUnit.ports ∈ hid) (t : Time) (by_ : Sender) (index : Nat) (host : Bool) (len : Nat) (src : Option (List Byte)) {s t' : State} (e : execLoadStopSet t by_ index host len src s = .next t') : t'.hide hid = s.hide hid := by
  unfold execLoadStopSet at e
  try dsimp only at e
  rw [Host.Outcome.next.injEq] at e
  subst e
  repeat' (first | with_reducible rfl | (simp only [State.at_hide, State.serve_hide, cmdLoadStopSet_hide, h_clk, h_skim, h_mbox, h_regs, h_log, h_ports, foldl_hide, ite_hide, ite_self, implies_true, and_self]; done) | (with_reducible refine (foldl_hide _ (fun s x => ?_) _ _).trans ?_) | split | (simp only [State.at_hide, State.serve_hide, cmdLoadStopSet_hide, h_clk, h_skim, h_mbox, h_regs, h_log, h_ports, foldl_hide, ite_hide, ite_self, implies_true, and_self]))

theorem cmdReleaseStopSet_hide (h_skim : StateUnit.skim ∈ hid) (h_mbox : StateUnit.mbox ∈ hid) (h_ports : StateUnit.ports ∈ hid)  (b : Sender) (index : Nat) (s : State) : (cmdReleaseStopSet b index s).hide hid = s.hide hid := by
  unfold cmdReleaseStopSet
  try dsimp only
  repeat' (first | with_reducible rfl | (simp only [State.answer_hide, State.refuse_hide, State.modSkim_hide, h_skim, h_mbox, h_ports, foldl_hide, ite_hide, ite_self, implies_true, and_self]; done) | (with_reducible refine (foldl_hide _ (fun s x => ?_) _ _).trans ?_) | split | (simp only [State.answer_hide, State.refuse_hide, State.modSkim_hide, h_skim, h_mbox, h_ports, foldl_hide, ite_hide, ite_self, implies_true, and_self]))

theorem execReleaseStopSet_hide (h_clk : StateUnit.clk ∈ hid) (h_skim : StateUnit.skim ∈ hid) (h_mbox : StateUnit.mbox ∈ hid) (h_ports : StateUnit.ports ∈ hid) (t : Time) (by_ : Sender) (index : Nat) {s t' : State} (e : execReleaseStopSet t by_ index s = .next t') : t'.hide hid = s.hide hid := by
  unfold execReleaseStopSet at e
  try dsimp only at e
  rw [Host.Outcome.next.injEq] at e
  subst e
  repeat' (first | with_reducible rfl | (simp only [State.at_hide, State.serve_hide, cmdReleaseStopSet_hide, h_clk, h_skim, h_mbox, h_ports, foldl_hide, ite_hide, ite_self, implies_true, and_self]; done) | (with_reducible refine (foldl_hide _ (fun s x => ?_) _ _).trans ?_) | split | (simp only [State.at_hide, State.serve_hide, cmdReleaseStopSet_hide, h_clk, h_skim, h_mbox, h_ports, foldl_hide, ite_hide, ite_self, implies_true, and_self]))

theorem cmdSetAdapterPool_hide (h_skim : StateUnit.skim ∈ hid) (h_stw : StateUnit.stw ∈ hid) (h_mbox : StateUnit.mbox ∈ hid) (h_ports : StateUnit.ports ∈ hid)  (b : Sender) (p : AdapterPool) (s : State) : (cmdSetAdapterPool b p s).hide hid = s.hide hid := by
  unfold cmdSetAdapterPool
  try dsimp only
  repeat' (first | with_reducible rfl | (simp only [State.answer_hide, State.refuse_hide, State.modStw_hide, h_skim, h_stw, h_mbox, h_ports, foldl_hide, ite_hide, ite_self, implies_true, and_self]; done) | (with_reducible refine (foldl_hide _ (fun s x => ?_) _ _).trans ?_) | split | (simp only [State.answer_hide, State.refuse_hide, State.modStw_hide, h_skim, h_stw, h_mbox, h_ports, foldl_hide, ite_hide, ite_self, implies_true, and_self]))

theorem execSetAdapterPool_hide (h_clk : StateUnit.clk ∈ hid) (h_skim : StateUnit.skim ∈ hid) (h_stw : StateUnit.stw ∈ hid) (h_mbox : StateUnit.mbox ∈ hid) (h_ports : StateUnit.ports ∈ hid) (t : Time) (by_ : Sender) (library : BitVec 64) (rslots : Nat) (log2g : Nat) (eventCtx : Nat) (slotBytes : Nat) (gring : BitVec 64) (doneAddr : BitVec 64) {s t' : State} (e : execSetAdapterPool t by_ library rslots log2g eventCtx slotBytes gring doneAddr s = .next t') : t'.hide hid = s.hide hid := by
  unfold execSetAdapterPool at e
  try dsimp only at e
  rw [Host.Outcome.next.injEq] at e
  subst e
  repeat' (first | with_reducible rfl | (simp only [State.at_hide, State.serve_hide, cmdSetAdapterPool_hide, h_clk, h_skim, h_stw, h_mbox, h_ports, foldl_hide, ite_hide, ite_self, implies_true, and_self]; done) | (with_reducible refine (foldl_hide _ (fun s x => ?_) _ _).trans ?_) | split | (simp only [State.at_hide, State.serve_hide, cmdSetAdapterPool_hide, h_clk, h_skim, h_stw, h_mbox, h_ports, foldl_hide, ite_hide, ite_self, implies_true, and_self]))

/-! ### Machine/Streams.lean -/

theorem cmdEncodeOpen_hide (h_churn : StateUnit.churn ∈ hid) (h_skim : StateUnit.skim ∈ hid) (h_mbox : StateUnit.mbox ∈ hid) (h_ports : StateUnit.ports ∈ hid)  (b : Sender) (customer : Nat) (options : Nat) (s : State) : (cmdEncodeOpen b customer options s).hide hid = s.hide hid := by
  unfold cmdEncodeOpen
  try dsimp only
  repeat' (first | with_reducible rfl | (simp only [State.answer_hide, State.refuse_hide, State.modChurn_hide, h_churn, h_skim, h_mbox, h_ports, foldl_hide, ite_hide, ite_self, implies_true, and_self]; done) | (with_reducible refine (foldl_hide _ (fun s x => ?_) _ _).trans ?_) | split | (simp only [State.answer_hide, State.refuse_hide, State.modChurn_hide, h_churn, h_skim, h_mbox, h_ports, foldl_hide, ite_hide, ite_self, implies_true, and_self]))

theorem execEncodeOpen_hide (h_clk : StateUnit.clk ∈ hid) (h_churn : StateUnit.churn ∈ hid) (h_skim : StateUnit.skim ∈ hid) (h_mbox : StateUnit.mbox ∈ hid) (h_ports : StateUnit.ports ∈ hid) (t : Time) (by_ : Sender) (customer : Nat) (options : BitVec 256) {s t' : State} (e : execEncodeOpen t by_ customer options s = .next t') : t'.hide hid = s.hide hid := by
  unfold execEncodeOpen at e
  try dsimp only at e
  rw [Host.Outcome.next.injEq] at e
  subst e
  repeat' (first | with_reducible rfl | (simp only [State.at_hide, State.serve_hide, cmdEncodeOpen_hide, h_clk, h_churn, h_skim, h_mbox, h_ports, foldl_hide, ite_hide, ite_self, implies_true, and_self]; done) | (with_reducible refine (foldl_hide _ (fun s x => ?_) _ _).trans ?_) | split | (simp only [State.at_hide, State.serve_hide, cmdEncodeOpen_hide, h_clk, h_churn, h_skim, h_mbox, h_ports, foldl_hide, ite_hide, ite_self, implies_true, and_self]))

theorem State.queueBuffer_hide (h_churn : StateUnit.churn ∈ hid) (h_mbox : StateUnit.mbox ∈ hid)  (b : Sender) (i : Nat) (buf : InBuffer) (s : State) : (State.queueBuffer s b i buf).hide hid = s.hide hid := by
  unfold State.queueBuffer
  try dsimp only
  repeat' (first | with_reducible rfl | (simp only [State.modCtx_hide, State.schedule_hide, State.modStream_hide, h_churn, h_mbox, foldl_hide, ite_hide, ite_self, implies_true, and_self]; done) | (with_reducible refine (foldl_hide _ (fun s x => ?_) _ _).trans ?_) | split | (simp only [State.modCtx_hide, State.schedule_hide, State.modStream_hide, h_churn, h_mbox, foldl_hide, ite_hide, ite_self, implies_true, and_self]))

theorem State.append_hide (h_churn : StateUnit.churn ∈ hid) (h_skim : StateUnit.skim ∈ hid) (h_mbox : StateUnit.mbox ∈ hid) (h_ports : StateUnit.ports ∈ hid)  (b : Sender) (h : Handle) (flags : Nat) (addr : BitVec 64) (len : Nat) (src : Option (List Byte)) (s : State) : (State.append s b h flags addr len src).hide hid = s.hide hid := by
  unfold State.append
  try dsimp only
  repeat' (first | with_reducible rfl | (simp only [State.answerFirst_hide, State.queueBuffer_hide, State.modChurn_hide, h_churn, h_skim, h_mbox, h_ports, foldl_hide, ite_hide, ite_self, implies_true, and_self]; done) | (with_reducible refine (foldl_hide _ (fun s x => ?_) _ _).trans ?_) | split | (simp only [State.answerFirst_hide, State.queueBuffer_hide, State.modChurn_hide, h_churn, h_skim, h_mbox, h_ports, foldl_hide, ite_hide, ite_self, implies_true, and_self]))

theorem cmdAppend_hide (h_churn : StateUnit.churn ∈ hid) (h_skim : StateUnit.skim ∈ hid) (h_reqs : StateUnit.reqs ∈ hid) (h_mbox : StateUnit.mbox ∈ hid) (h_ports : StateUnit.ports ∈ hid)  (b : Sender) (h : Handle) (flags : Nat) (addr : BitVec 64) (len : Nat) (src : Option (List Byte)) (s : State) : (cmdAppend b h flags addr len src s).hide hid = s.hide hid := by
  unfold cmdAppend
  try dsimp only
  repeat' (first | with_reducible rfl | (simp only [State.answerFirst_hide, State.useRecord_hide, State.append_hide, h_churn, h_skim, h_reqs, h_mbox, h_ports, foldl_hide, ite_hide, ite_self, implies_true, and_self]; done) | (with_reducible refine (foldl_hide _ (fun s x => ?_) _ _).trans ?_) | split | (simp only [State.answerFirst_hide, State.useRecord_hide, State.append_hide, h_churn, h_skim, h_reqs, h_mbox, h_ports, foldl_hide, ite_hide, ite_self, implies_true, and_self]))

theorem execAppendInput_hide (h_clk : StateUnit.clk ∈ hid) (h_churn : StateUnit.churn ∈ hid) (h_skim : StateUnit.skim ∈ hid) (h_reqs : StateUnit.reqs ∈ hid) (h_mbox : StateUnit.mbox ∈ hid) (h_ports : StateUnit.ports ∈ hid) (t : Time) (by_ : Sender) (stream : Handle) (flags : Byte) (addr : BitVec 64) (len : Word) (src : Option (List Byte)) {s t' : State} (e : execAppendInput t by_ stream flags addr len src s = .next t') : t'.hide hid = s.hide hid := by
  unfold execAppendInput at e
  try dsimp only at e
  rw [Host.Outcome.next.injEq] at e
  subst e
  repeat' (first | with_reducible rfl | (simp only [State.at_hide, State.serve_hide, cmdAppend_hide, h_clk, h_churn, h_skim, h_reqs, h_mbox, h_ports, foldl_hide, ite_hide, ite_self, implies_true, and_self]; done) | (with_reducible refine (foldl_hide _ (fun s x => ?_) _ _).trans ?_) | split | (simp only [State.at_hide, State.serve_hide, cmdAppend_hide, h_clk, h_churn, h_skim, h_reqs, h_mbox, h_ports, foldl_hide, ite_hide, ite_self, implies_true, and_self]))

theorem cmdEncodeClose_hide (h_churn : StateUnit.churn ∈ hid) (h_skim : StateUnit.skim ∈ hid) (h_reqs : StateUnit.reqs ∈ hid) (h_rat : StateUnit.rat ∈ hid) (h_mbox : StateUnit.mbox ∈ hid) (h_ports : StateUnit.ports ∈ hid)  (b : Sender) (h : Handle) (s : State) : (cmdEncodeClose b h s).hide hid = s.hide hid := by
  unfold cmdEncodeClose
  try dsimp only
  repeat' (first | with_reducible rfl | (simp only [State.answer_hide, State.refuse_hide, State.schedule_hide, State.chargeJob_hide, State.freeStream_hide, State.answerBuffers_hide, h_churn, h_skim, h_reqs, h_rat, h_mbox, h_ports, foldl_hide, ite_hide, ite_self, implies_true, and_self]; done) | (with_reducible refine (foldl_hide _ (fun s x => ?_) _ _).trans ?_) | split | (simp only [State.answer_hide, State.refuse_hide, State.schedule_hide, State.chargeJob_hide, State.freeStream_hide, State.answerBuffers_hide, h_churn, h_skim, h_reqs, h_rat, h_mbox, h_ports, foldl_hide, ite_hide, ite_self, implies_true, and_self]))

theorem execEncodeClose_hide (h_clk : StateUnit.clk ∈ hid) (h_churn : StateUnit.churn ∈ hid) (h_skim : StateUnit.skim ∈ hid) (h_reqs : StateUnit.reqs ∈ hid) (h_rat : StateUnit.rat ∈ hid) (h_mbox : StateUnit.mbox ∈ hid) (h_ports : StateUnit.ports ∈ hid) (t : Time) (by_ : Sender) (job : Handle) {s t' : State} (e : execEncodeClose t by_ job s = .next t') : t'.hide hid = s.hide hid := by
  unfold execEncodeClose at e
  try dsimp only at e
  rw [Host.Outcome.next.injEq] at e
  subst e
  repeat' (first | with_reducible rfl | (simp only [State.at_hide, State.serve_hide, cmdEncodeClose_hide, h_clk, h_churn, h_skim, h_reqs, h_rat, h_mbox, h_ports, foldl_hide, ite_hide, ite_self, implies_true, and_self]; done) | (with_reducible refine (foldl_hide _ (fun s x => ?_) _ _).trans ?_) | split | (simp only [State.at_hide, State.serve_hide, cmdEncodeClose_hide, h_clk, h_churn, h_skim, h_reqs, h_rat, h_mbox, h_ports, foldl_hide, ite_hide, ite_self, implies_true, and_self]))

/-! ### Machine/Ladles.lean -/

theorem runCommand_hide (h_clk : StateUnit.clk ∈ hid) (h_shell : StateUnit.shell ∈ hid) (h_vat : StateUnit.vat ∈ hid) (h_str : StateUnit.str ∈ hid) (h_drw : StateUnit.drw ∈ hid) (h_ren : StateUnit.ren ∈ hid) (h_churn : StateUnit.churn ∈ hid) (h_skim : StateUnit.skim ∈ hid) (h_coll : StateUnit.coll ∈ hid) (h_reqs : StateUnit.reqs ∈ hid) (h_rat : StateUnit.rat ∈ hid) (h_stw : StateUnit.stw ∈ hid) (h_mbox : StateUnit.mbox ∈ hid) (h_regs : StateUnit.regs ∈ hid) (h_log : StateUnit.log ∈ hid) (h_ports : StateUnit.ports ∈ hid)  (b : Sender) (op : Nat) (body : List Byte) (src : Option (List Byte)) (s : State) : (runCommand b op body src s).hide hid = s.hide hid := by
  unfold runCommand
  try dsimp only
  repeat' (first | with_reducible rfl | (simp only [State.refuse_hide, cmdIdentify_hide, cmdAttach_hide, cmdDetach_hide, cmdReadLog_hide, cmdReadBootReport_hide, cmdAdmit_hide, cmdCancel_hide, cmdReadRequest_hide, cmdSetGrammar_hide, cmdPostDrafts_hide, cmdSetPower_hide, cmdSetCustomer_hide, cmdSetPool_hide, cmdReadCustomer_hide, cmdSetStepShape_hide, cmdSetHomeSlots_hide, cmdSetVatPlan_hide, cmdOpenWindow_hide, cmdCloseWindow_hide, cmdSetCollective_hide, cmdLoadProgram_hide, cmdLoadBias_hide, cmdLoadVocab_hide, cmdReleaseVocab_hide, cmdSetPartition_hide, cmdLoadGrammar_hide, cmdReleaseGrammar_hide, cmdLoadStopSet_hide, cmdReleaseStopSet_hide, cmdSetAdapterPool_hide, cmdEncodeOpen_hide, cmdAppend_hide, cmdEncodeClose_hide, h_clk, h_shell, h_vat, h_str, h_drw, h_ren, h_churn, h_skim, h_coll, h_reqs, h_rat, h_stw, h_mbox, h_regs, h_log, h_ports, foldl_hide, ite_hide, ite_self, implies_true, and_self]; done) | (with_reducible refine (foldl_hide _ (fun s x => ?_) _ _).trans ?_) | split | (simp only [State.refuse_hide, cmdIdentify_hide, cmdAttach_hide, cmdDetach_hide, cmdReadLog_hide, cmdReadBootReport_hide, cmdAdmit_hide, cmdCancel_hide, cmdReadRequest_hide, cmdSetGrammar_hide, cmdPostDrafts_hide, cmdSetPower_hide, cmdSetCustomer_hide, cmdSetPool_hide, cmdReadCustomer_hide, cmdSetStepShape_hide, cmdSetHomeSlots_hide, cmdSetVatPlan_hide, cmdOpenWindow_hide, cmdCloseWindow_hide, cmdSetCollective_hide, cmdLoadProgram_hide, cmdLoadBias_hide, cmdLoadVocab_hide, cmdReleaseVocab_hide, cmdSetPartition_hide, cmdLoadGrammar_hide, cmdReleaseGrammar_hide, cmdLoadStopSet_hide, cmdReleaseStopSet_hide, cmdSetAdapterPool_hide, cmdEncodeOpen_hide, cmdAppend_hide, cmdEncodeClose_hide, h_clk, h_shell, h_vat, h_str, h_drw, h_ren, h_churn, h_skim, h_coll, h_reqs, h_rat, h_stw, h_mbox, h_regs, h_log, h_ports, foldl_hide, ite_hide, ite_self, implies_true, and_self]))

theorem State.setLoading_hide (h_ren : StateUnit.ren ∈ hid) (h_churn : StateUnit.churn ∈ hid)  (k : Taken) (on : Bool) (s : State) : (State.setLoading s k on).hide hid = s.hide hid := by
  unfold State.setLoading
  try dsimp only
  repeat' (first | with_reducible rfl | (simp only [State.modChurn_hide, State.modRen_hide, h_ren, h_churn, foldl_hide, ite_hide, ite_self, implies_true, and_self]; done) | (with_reducible refine (foldl_hide _ (fun s x => ?_) _ _).trans ?_) | split | (simp only [State.modChurn_hide, State.modRen_hide, h_ren, h_churn, foldl_hide, ite_hide, ite_self, implies_true, and_self]))

theorem State.refuseTaken_hide (h_skim : StateUnit.skim ∈ hid) (h_mbox : StateUnit.mbox ∈ hid) (h_ports : StateUnit.ports ∈ hid)  (b : Sender) (k : Taken) (status : Nat) (s : State) : (State.refuseTaken s b k status).hide hid = s.hide hid := by
  unfold State.refuseTaken
  try dsimp only
  repeat' (first | with_reducible rfl | (simp only [State.answerFirst_hide, State.refuseAttach_hide, h_skim, h_mbox, h_ports, foldl_hide, ite_hide, ite_self, implies_true, and_self]; done) | (with_reducible refine (foldl_hide _ (fun s x => ?_) _ _).trans ?_) | split | (simp only [State.answerFirst_hide, State.refuseAttach_hide, h_skim, h_mbox, h_ports, foldl_hide, ite_hide, ite_self, implies_true, and_self]))

theorem State.runLadle_hide (h_clk : StateUnit.clk ∈ hid) (h_shell : StateUnit.shell ∈ hid) (h_vat : StateUnit.vat ∈ hid) (h_str : StateUnit.str ∈ hid) (h_drw : StateUnit.drw ∈ hid) (h_ren : StateUnit.ren ∈ hid) (h_churn : StateUnit.churn ∈ hid) (h_skim : StateUnit.skim ∈ hid) (h_coll : StateUnit.coll ∈ hid) (h_reqs : StateUnit.reqs ∈ hid) (h_rat : StateUnit.rat ∈ hid) (h_stw : StateUnit.stw ∈ hid) (h_mbox : StateUnit.mbox ∈ hid) (h_regs : StateUnit.regs ∈ hid) (h_log : StateUnit.log ∈ hid) (h_ports : StateUnit.ports ∈ hid)  (c : Nat) (k : Taken) (src : Option (List Byte)) (last : Bool) (s : State) : (State.runLadle s c k src last).hide hid = s.hide hid := by
  unfold State.runLadle
  try dsimp only
  repeat' (first | with_reducible rfl | (simp only [State.celAccess_hide, State.modCtx_hide, runCommand_hide, State.setLoading_hide, State.refuseTaken_hide, h_clk, h_shell, h_vat, h_str, h_drw, h_ren, h_churn, h_skim, h_coll, h_reqs, h_rat, h_stw, h_mbox, h_regs, h_log, h_ports, foldl_hide, ite_hide, ite_self, implies_true, and_self]; done) | (with_reducible refine (foldl_hide _ (fun s x => ?_) _ _).trans ?_) | split | (simp only [State.celAccess_hide, State.modCtx_hide, runCommand_hide, State.setLoading_hide, State.refuseTaken_hide, h_clk, h_shell, h_vat, h_str, h_drw, h_ren, h_churn, h_skim, h_coll, h_reqs, h_rat, h_stw, h_mbox, h_regs, h_log, h_ports, foldl_hide, ite_hide, ite_self, implies_true, and_self]))

theorem State.ladle_hide (h_clk : StateUnit.clk ∈ hid) (h_shell : StateUnit.shell ∈ hid) (h_vat : StateUnit.vat ∈ hid) (h_str : StateUnit.str ∈ hid) (h_drw : StateUnit.drw ∈ hid) (h_ren : StateUnit.ren ∈ hid) (h_churn : StateUnit.churn ∈ hid) (h_skim : StateUnit.skim ∈ hid) (h_coll : StateUnit.coll ∈ hid) (h_reqs : StateUnit.reqs ∈ hid) (h_rat : StateUnit.rat ∈ hid) (h_stw : StateUnit.stw ∈ hid) (h_mbox : StateUnit.mbox ∈ hid) (h_regs : StateUnit.regs ∈ hid) (h_log : StateUnit.log ∈ hid) (h_ports : StateUnit.ports ∈ hid)  (role : Nat) (src : Option (List Byte)) (last : Bool) (s : State) : (State.ladle s role src last).hide hid = s.hide hid := by
  unfold State.ladle
  try dsimp only
  repeat' (first | with_reducible rfl | (simp only [State.runLadle_hide, State.modMbox_hide, h_clk, h_shell, h_vat, h_str, h_drw, h_ren, h_churn, h_skim, h_coll, h_reqs, h_rat, h_stw, h_mbox, h_regs, h_log, h_ports, lmod_length, putBack_length, List.length_map, ite_length, foldl_hide, ite_hide, ite_self, implies_true, and_self]; done) | (with_reducible refine (foldl_hide _ (fun s x => ?_) _ _).trans ?_) | split | (simp only [State.runLadle_hide, State.modMbox_hide, h_clk, h_shell, h_vat, h_str, h_drw, h_ren, h_churn, h_skim, h_coll, h_reqs, h_rat, h_stw, h_mbox, h_regs, h_log, h_ports, lmod_length, putBack_length, List.length_map, ite_length, foldl_hide, ite_hide, ite_self, implies_true, and_self]))

theorem execLadle_hide (h_clk : StateUnit.clk ∈ hid) (h_shell : StateUnit.shell ∈ hid) (h_vat : StateUnit.vat ∈ hid) (h_str : StateUnit.str ∈ hid) (h_drw : StateUnit.drw ∈ hid) (h_ren : StateUnit.ren ∈ hid) (h_churn : StateUnit.churn ∈ hid) (h_skim : StateUnit.skim ∈ hid) (h_coll : StateUnit.coll ∈ hid) (h_reqs : StateUnit.reqs ∈ hid) (h_rat : StateUnit.rat ∈ hid) (h_stw : StateUnit.stw ∈ hid) (h_mbox : StateUnit.mbox ∈ hid) (h_regs : StateUnit.regs ∈ hid) (h_log : StateUnit.log ∈ hid) (h_ports : StateUnit.ports ∈ hid) (t : Time) (role : Nat) (src : Option (List Byte)) (last : Bool) {s t' : State} (e : execLadle t role src last s = .next t') : t'.hide hid = s.hide hid := by
  unfold execLadle at e
  try dsimp only at e
  rw [Host.Outcome.next.injEq] at e
  subst e
  repeat' (first | with_reducible rfl | (simp only [State.at_hide, State.ladle_hide, h_clk, h_shell, h_vat, h_str, h_drw, h_ren, h_churn, h_skim, h_coll, h_reqs, h_rat, h_stw, h_mbox, h_regs, h_log, h_ports, foldl_hide, ite_hide, ite_self, implies_true, and_self]; done) | (with_reducible refine (foldl_hide _ (fun s x => ?_) _ _).trans ?_) | split | (simp only [State.at_hide, State.ladle_hide, h_clk, h_shell, h_vat, h_str, h_drw, h_ren, h_churn, h_skim, h_coll, h_reqs, h_rat, h_stw, h_mbox, h_regs, h_log, h_ports, foldl_hide, ite_hide, ite_self, implies_true, and_self]))

/-! ### Machine/Registers.lean -/

theorem State.regView_hide (h_clk : StateUnit.clk ∈ hid) (h_regs : StateUnit.regs ∈ hid)   (s : State) : (State.regView s).hide hid = s.hide hid := by
  unfold State.regView
  try dsimp only
  repeat' (first | with_reducible rfl | (simp only [State.modClk_hide, State.modRegs_hide, h_clk, h_regs, foldl_hide, ite_hide, ite_self, implies_true, and_self]; done) | (with_reducible refine (foldl_hide _ (fun s x => ?_) _ _).trans ?_) | split | (simp only [State.modClk_hide, State.modRegs_hide, h_clk, h_regs, foldl_hide, ite_hide, ite_self, implies_true, and_self]))

theorem State.afterRead_hide (h_clk : StateUnit.clk ∈ hid) (h_mbox : StateUnit.mbox ∈ hid) (h_regs : StateUnit.regs ∈ hid)  (o : Nat) (s : State) : (State.afterRead s o).hide hid = s.hide hid := by
  unfold State.afterRead
  try dsimp only
  repeat' (first | with_reducible rfl | (simp only [State.modCtx_hide, State.modClk_hide, State.modRegs_hide, h_clk, h_mbox, h_regs, foldl_hide, ite_hide, ite_self, implies_true, and_self]; done) | (with_reducible refine (foldl_hide _ (fun s x => ?_) _ _).trans ?_) | split | (simp only [State.modCtx_hide, State.modClk_hide, State.modRegs_hide, h_clk, h_mbox, h_regs, foldl_hide, ite_hide, ite_self, implies_true, and_self]))

theorem State.setRead_hide (h_regs : StateUnit.regs ∈ hid)  (v : Nat) (s : State) : (State.setRead s v).hide hid = s.hide hid := by
  unfold State.setRead
  try dsimp only
  repeat' (first | with_reducible rfl | (simp only [State.modRegs_hide, h_regs, foldl_hide, ite_hide, ite_self, implies_true, and_self]; done) | (with_reducible refine (foldl_hide _ (fun s x => ?_) _ _).trans ?_) | split | (simp only [State.modRegs_hide, h_regs, foldl_hide, ite_hide, ite_self, implies_true, and_self]))

theorem State.regRead_hide (h_clk : StateUnit.clk ∈ hid) (h_mbox : StateUnit.mbox ∈ hid) (h_regs : StateUnit.regs ∈ hid) (h_log : StateUnit.log ∈ hid)  (wrapper : Bool) (o : Nat) (size : Nat) (s : State) : (State.regRead s wrapper o size).hide hid = s.hide hid := by
  unfold State.regRead
  try dsimp only
  repeat' (first | with_reducible rfl | (simp only [State.dropAccess_hide, State.afterRead_hide, State.setRead_hide, h_clk, h_mbox, h_regs, h_log, foldl_hide, ite_hide, ite_self, implies_true, and_self]; done) | (with_reducible refine (foldl_hide _ (fun s x => ?_) _ _).trans ?_) | split | (simp only [State.dropAccess_hide, State.afterRead_hide, State.setRead_hide, h_clk, h_mbox, h_regs, h_log, foldl_hide, ite_hide, ite_self, implies_true, and_self]))

theorem execReadClear_hide (h_clk : StateUnit.clk ∈ hid) (h_mbox : StateUnit.mbox ∈ hid) (h_regs : StateUnit.regs ∈ hid) (h_log : StateUnit.log ∈ hid) (t : Time) (read : RegRead) {s t' : State} (e : execReadClear t read s = .next t') : t'.hide hid = s.hide hid := by
  unfold execReadClear at e
  try dsimp only at e
  rw [Host.Outcome.next.injEq] at e
  subst e
  repeat' (first | with_reducible rfl | (simp only [State.at_hide, State.hostAct_hide, State.regRead_hide, h_clk, h_mbox, h_regs, h_log, foldl_hide, ite_hide, ite_self, implies_true, and_self]; done) | (with_reducible refine (foldl_hide _ (fun s x => ?_) _ _).trans ?_) | split | (simp only [State.at_hide, State.hostAct_hide, State.regRead_hide, h_clk, h_mbox, h_regs, h_log, foldl_hide, ite_hide, ite_self, implies_true, and_self]))

theorem execTsLo_hide (h_clk : StateUnit.clk ∈ hid) (h_mbox : StateUnit.mbox ∈ hid) (h_regs : StateUnit.regs ∈ hid) (h_log : StateUnit.log ∈ hid) (t : Time) {s t' : State} (e : execTsLo t s = .next t') : t'.hide hid = s.hide hid := by
  unfold execTsLo at e
  try dsimp only at e
  rw [Host.Outcome.next.injEq] at e
  subst e
  repeat' (first | with_reducible rfl | (simp only [State.at_hide, State.hostAct_hide, State.regRead_hide, h_clk, h_mbox, h_regs, h_log, foldl_hide, ite_hide, ite_self, implies_true, and_self]; done) | (with_reducible refine (foldl_hide _ (fun s x => ?_) _ _).trans ?_) | split | (simp only [State.at_hide, State.hostAct_hide, State.regRead_hide, h_clk, h_mbox, h_regs, h_log, foldl_hide, ite_hide, ite_self, implies_true, and_self]))

theorem State.writeErrStatus_hide (h_regs : StateUnit.regs ∈ hid)  (v : Word) (s : State) : (State.writeErrStatus s v).hide hid = s.hide hid := by
  unfold State.writeErrStatus
  try dsimp only
  repeat' (first | with_reducible rfl | (simp only [State.modRegs_hide, h_regs, foldl_hide, ite_hide, ite_self, implies_true, and_self]; done) | (with_reducible refine (foldl_hide _ (fun s x => ?_) _ _).trans ?_) | split | (simp only [State.modRegs_hide, h_regs, foldl_hide, ite_hide, ite_self, implies_true, and_self]))

theorem execErrStatus_hide (h_clk : StateUnit.clk ∈ hid) (h_regs : StateUnit.regs ∈ hid) (h_log : StateUnit.log ∈ hid) (t : Time) (value : Word) {s t' : State} (e : execErrStatus t value s = .next t') : t'.hide hid = s.hide hid := by
  unfold execErrStatus at e
  try dsimp only at e
  rw [Host.Outcome.next.injEq] at e
  subst e
  repeat' (first | with_reducible rfl | (simp only [State.at_hide, State.hostAct_hide, State.dropAccess_hide, State.writeErrStatus_hide, h_clk, h_regs, h_log, foldl_hide, ite_hide, ite_self, implies_true, and_self]; done) | (with_reducible refine (foldl_hide _ (fun s x => ?_) _ _).trans ?_) | split | (simp only [State.at_hide, State.hostAct_hide, State.dropAccess_hide, State.writeErrStatus_hide, h_clk, h_regs, h_log, foldl_hide, ite_hide, ite_self, implies_true, and_self]))

theorem State.writeFuseSvn_hide (h_fuses : StateUnit.fuses ∈ hid) (h_regs : StateUnit.regs ∈ hid) (h_log : StateUnit.log ∈ hid)  (value : Word) (s : State) : (State.writeFuseSvn s value).hide hid = s.hide hid := by
  unfold State.writeFuseSvn
  try dsimp only
  repeat' (first | with_reducible rfl | (simp only [State.dropAccess_hide, State.modFuses_hide, h_fuses, h_regs, h_log, foldl_hide, ite_hide, ite_self, implies_true, and_self]; done) | (with_reducible refine (foldl_hide _ (fun s x => ?_) _ _).trans ?_) | split | (simp only [State.dropAccess_hide, State.modFuses_hide, h_fuses, h_regs, h_log, foldl_hide, ite_hide, ite_self, implies_true, and_self]))

theorem State.writeFuseKeyrev_hide (h_fuses : StateUnit.fuses ∈ hid) (h_regs : StateUnit.regs ∈ hid) (h_log : StateUnit.log ∈ hid)  (value : Word) (s : State) : (State.writeFuseKeyrev s value).hide hid = s.hide hid := by
  unfold State.writeFuseKeyrev
  try dsimp only
  repeat' (first | with_reducible rfl | (simp only [State.dropAccess_hide, State.modFuses_hide, h_fuses, h_regs, h_log, foldl_hide, ite_hide, ite_self, implies_true, and_self]; done) | (with_reducible refine (foldl_hide _ (fun s x => ?_) _ _).trans ?_) | split | (simp only [State.dropAccess_hide, State.modFuses_hide, h_fuses, h_regs, h_log, foldl_hide, ite_hide, ite_self, implies_true, and_self]))

theorem execFuseSvn_hide (h_clk : StateUnit.clk ∈ hid) (h_fuses : StateUnit.fuses ∈ hid) (h_regs : StateUnit.regs ∈ hid) (h_log : StateUnit.log ∈ hid) (t : Time) (value : Word) {s t' : State} (e : execFuseSvn t value s = .next t') : t'.hide hid = s.hide hid := by
  unfold execFuseSvn at e
  try dsimp only at e
  rw [Host.Outcome.next.injEq] at e
  subst e
  repeat' (first | with_reducible rfl | (simp only [State.at_hide, State.writeFuseSvn_hide, h_clk, h_fuses, h_regs, h_log, foldl_hide, ite_hide, ite_self, implies_true, and_self]; done) | (with_reducible refine (foldl_hide _ (fun s x => ?_) _ _).trans ?_) | split | (simp only [State.at_hide, State.writeFuseSvn_hide, h_clk, h_fuses, h_regs, h_log, foldl_hide, ite_hide, ite_self, implies_true, and_self]))

theorem execFuseKeyrev_hide (h_clk : StateUnit.clk ∈ hid) (h_fuses : StateUnit.fuses ∈ hid) (h_regs : StateUnit.regs ∈ hid) (h_log : StateUnit.log ∈ hid) (t : Time) (value : Word) {s t' : State} (e : execFuseKeyrev t value s = .next t') : t'.hide hid = s.hide hid := by
  unfold execFuseKeyrev at e
  try dsimp only at e
  rw [Host.Outcome.next.injEq] at e
  subst e
  repeat' (first | with_reducible rfl | (simp only [State.at_hide, State.writeFuseKeyrev_hide, h_clk, h_fuses, h_regs, h_log, foldl_hide, ite_hide, ite_self, implies_true, and_self]; done) | (with_reducible refine (foldl_hide _ (fun s x => ?_) _ _).trans ?_) | split | (simp only [State.at_hide, State.writeFuseKeyrev_hide, h_clk, h_fuses, h_regs, h_log, foldl_hide, ite_hide, ite_self, implies_true, and_self]))

theorem execFuseWriteDone_hide (h_clk : StateUnit.clk ∈ hid) (h_fuses : StateUnit.fuses ∈ hid) (t : Time) {s t' : State} (e : execFuseWriteDone t s = .next t') : t'.hide hid = s.hide hid := by
  unfold execFuseWriteDone at e
  try dsimp only at e
  rw [Host.Outcome.next.injEq] at e
  subst e
  repeat' (first | with_reducible rfl | (simp only [State.at_hide, State.modFuses_hide, h_clk, h_fuses, foldl_hide, ite_hide, ite_self, implies_true, and_self]; done) | (with_reducible refine (foldl_hide _ (fun s x => ?_) _ _).trans ?_) | split | (simp only [State.at_hide, State.modFuses_hide, h_clk, h_fuses, foldl_hide, ite_hide, ite_self, implies_true, and_self]))

theorem State.regWrite_hide (h_clk : StateUnit.clk ∈ hid) (h_vat : StateUnit.vat ∈ hid) (h_str : StateUnit.str ∈ hid) (h_skim : StateUnit.skim ∈ hid) (h_fuses : StateUnit.fuses ∈ hid) (h_boot : StateUnit.boot ∈ hid) (h_mbox : StateUnit.mbox ∈ hid) (h_regs : StateUnit.regs ∈ hid) (h_log : StateUnit.log ∈ hid) (h_ports : StateUnit.ports ∈ hid)  (wrapper : Bool) (o : Nat) (value : Word) (s : State) : (State.regWrite s wrapper o value).hide hid = s.hide hid := by
  unfold State.regWrite
  try dsimp only
  repeat' (first | with_reducible rfl | (simp only [State.dropAccess_hide, State.doorbell_hide, State.regPower_hide, State.repairData_hide, State.bootCtl_hide, State.writeErrStatus_hide, State.writeFuseSvn_hide, State.writeFuseKeyrev_hide, State.modBoot_hide, h_clk, h_vat, h_str, h_skim, h_fuses, h_boot, h_mbox, h_regs, h_log, h_ports, foldl_hide, ite_hide, ite_self, implies_true, and_self]; done) | (with_reducible refine (foldl_hide _ (fun s x => ?_) _ _).trans ?_) | (with_reducible refine State.modBoot_hide (by assumption) _ (fun b => by (try dsimp only); first | exact ⟨rfl, rfl⟩ | (split <;> exact ⟨rfl, rfl⟩) | (split <;> split <;> exact ⟨rfl, rfl⟩)) _) | split | (simp only [State.dropAccess_hide, State.doorbell_hide, State.regPower_hide, State.repairData_hide, State.bootCtl_hide, State.writeErrStatus_hide, State.writeFuseSvn_hide, State.writeFuseKeyrev_hide, State.modBoot_hide, h_clk, h_vat, h_str, h_skim, h_fuses, h_boot, h_mbox, h_regs, h_log, h_ports, foldl_hide, ite_hide, ite_self, implies_true, and_self]))

theorem State.hostRegWrite_hide (h_clk : StateUnit.clk ∈ hid) (h_vat : StateUnit.vat ∈ hid) (h_str : StateUnit.str ∈ hid) (h_skim : StateUnit.skim ∈ hid) (h_fuses : StateUnit.fuses ∈ hid) (h_boot : StateUnit.boot ∈ hid) (h_mbox : StateUnit.mbox ∈ hid) (h_cmdWin : StateUnit.cmdWin ∈ hid) (h_regs : StateUnit.regs ∈ hid) (h_log : StateUnit.log ∈ hid) (h_ports : StateUnit.ports ∈ hid)  (o : Nat) (size : Nat) (value : BitVec 64) (s : State) : (State.hostRegWrite s o size value).hide hid = s.hide hid := by
  unfold State.hostRegWrite
  try dsimp only
  repeat' (first | with_reducible rfl | (simp only [State.dropAccess_hide, State.windowWrite_hide, State.regPower_hide, State.stagingWrite_hide, State.regWrite_hide, h_clk, h_vat, h_str, h_skim, h_fuses, h_boot, h_mbox, h_cmdWin, h_regs, h_log, h_ports, foldl_hide, ite_hide, ite_self, implies_true, and_self]; done) | (with_reducible refine (foldl_hide _ (fun s x => ?_) _ _).trans ?_) | split | (simp only [State.dropAccess_hide, State.windowWrite_hide, State.regPower_hide, State.stagingWrite_hide, State.regWrite_hide, h_clk, h_vat, h_str, h_skim, h_fuses, h_boot, h_mbox, h_cmdWin, h_regs, h_log, h_ports, foldl_hide, ite_hide, ite_self, implies_true, and_self]))

theorem execRegisterWrite_hide (h_clk : StateUnit.clk ∈ hid) (h_vat : StateUnit.vat ∈ hid) (h_str : StateUnit.str ∈ hid) (h_skim : StateUnit.skim ∈ hid) (h_fuses : StateUnit.fuses ∈ hid) (h_boot : StateUnit.boot ∈ hid) (h_mbox : StateUnit.mbox ∈ hid) (h_cmdWin : StateUnit.cmdWin ∈ hid) (h_regs : StateUnit.regs ∈ hid) (h_log : StateUnit.log ∈ hid) (h_ports : StateUnit.ports ∈ hid) (t : Time) (offset : Nat) (size : Nat) (value : BitVec 64) {s t' : State} (e : execRegisterWrite t offset size value s = .next t') : t'.hide hid = s.hide hid := by
  unfold execRegisterWrite at e
  try dsimp only at e
  rw [Host.Outcome.next.injEq] at e
  subst e
  repeat' (first | with_reducible rfl | (simp only [State.at_hide, State.hostAct_hide, State.hostRegWrite_hide, h_clk, h_vat, h_str, h_skim, h_fuses, h_boot, h_mbox, h_cmdWin, h_regs, h_log, h_ports, foldl_hide, ite_hide, ite_self, implies_true, and_self]; done) | (with_reducible refine (foldl_hide _ (fun s x => ?_) _ _).trans ?_) | split | (simp only [State.at_hide, State.hostAct_hide, State.hostRegWrite_hide, h_clk, h_vat, h_str, h_skim, h_fuses, h_boot, h_mbox, h_cmdWin, h_regs, h_log, h_ports, foldl_hide, ite_hide, ite_self, implies_true, and_self]))

theorem State.hostAgain_hide (h_clk : StateUnit.clk ∈ hid) (h_vat : StateUnit.vat ∈ hid) (h_str : StateUnit.str ∈ hid) (h_skim : StateUnit.skim ∈ hid) (h_fuses : StateUnit.fuses ∈ hid) (h_boot : StateUnit.boot ∈ hid) (h_mbox : StateUnit.mbox ∈ hid) (h_cmdWin : StateUnit.cmdWin ∈ hid) (h_regs : StateUnit.regs ∈ hid) (h_log : StateUnit.log ∈ hid) (h_ports : StateUnit.ports ∈ hid)  (a : HostAct) (s : State) : (State.hostAgain s a).hide hid = s.hide hid := by
  unfold State.hostAgain
  try dsimp only
  repeat' (first | with_reducible rfl | (simp only [State.hostAct_hide, State.regRead_hide, State.hostRegWrite_hide, h_clk, h_vat, h_str, h_skim, h_fuses, h_boot, h_mbox, h_cmdWin, h_regs, h_log, h_ports, foldl_hide, ite_hide, ite_self, implies_true, and_self]; done) | (with_reducible refine (foldl_hide _ (fun s x => ?_) _ _).trans ?_) | split | (simp only [State.hostAct_hide, State.regRead_hide, State.hostRegWrite_hide, h_clk, h_vat, h_str, h_skim, h_fuses, h_boot, h_mbox, h_cmdWin, h_regs, h_log, h_ports, foldl_hide, ite_hide, ite_self, implies_true, and_self]))

/-! ### Machine/Skim.lean -/

theorem State.modPail_hide (h_reqs : StateUnit.reqs ∈ hid)  (h : Handle) (f : Pail → Pail) (s : State) : (State.modPail h f s).hide hid = s.hide hid := by
  unfold State.modPail
  try dsimp only
  repeat' (first | with_reducible rfl | (simp only [State.modReq_hide, h_reqs, foldl_hide, ite_hide, ite_self, implies_true, and_self]; done) | (with_reducible refine (foldl_hide _ (fun s x => ?_) _ _).trans ?_) | split | (simp only [State.modReq_hide, h_reqs, foldl_hide, ite_hide, ite_self, implies_true, and_self]))

theorem State.pailWrite_hide (h_skim : StateUnit.skim ∈ hid) (h_reqs : StateUnit.reqs ∈ hid) (h_ports : StateUnit.ports ∈ hid)  (r : Request) (e : PailEntry) (s : State) : (State.pailWrite s r e).hide hid = s.hide hid := by
  unfold State.pailWrite
  try dsimp only
  repeat' (first | with_reducible rfl | (simp only [State.hostWrite_hide, State.modPail_hide, State.modSkim_hide, h_skim, h_reqs, h_ports, foldl_hide, ite_hide, ite_self, implies_true, and_self]; done) | (with_reducible refine (foldl_hide _ (fun s x => ?_) _ _).trans ?_) | split | (simp only [State.hostWrite_hide, State.modPail_hide, State.modSkim_hide, h_skim, h_reqs, h_ports, foldl_hide, ite_hide, ite_self, implies_true, and_self]))

theorem State.pailLoss_hide (h_skim : StateUnit.skim ∈ hid) (h_reqs : StateUnit.reqs ∈ hid) (h_ports : StateUnit.ports ∈ hid)  (h : Handle) (s : State) : (State.pailLoss s h).hide hid = s.hide hid := by
  unfold State.pailLoss
  try dsimp only
  repeat' (first | with_reducible rfl | (simp only [State.modPail_hide, State.pailWrite_hide, h_skim, h_reqs, h_ports, foldl_hide, ite_hide, ite_self, implies_true, and_self]; done) | (with_reducible refine (foldl_hide _ (fun s x => ?_) _ _).trans ?_) | split | (simp only [State.modPail_hide, State.pailWrite_hide, h_skim, h_reqs, h_ports, foldl_hide, ite_hide, ite_self, implies_true, and_self]))

theorem State.pailFit_hide (h_skim : StateUnit.skim ∈ hid) (h_reqs : StateUnit.reqs ∈ hid) (h_ports : StateUnit.ports ∈ hid) (h : Handle) (es : List PailEntry) (s : State) : (State.pailFit h es s).1.hide hid = s.hide hid := by
  induction es generalizing s with
  | nil => rfl
  | cons e es ih =>
    unfold State.pailFit
    try dsimp only
    repeat' (first | with_reducible rfl | (simp only [ih, State.pailWrite_hide, State.pailLoss_hide, h_skim, h_reqs, h_ports, foldl_hide, ite_hide, ite_self, implies_true, and_self]; done) | (with_reducible refine (foldl_hide _ (fun s x => ?_) _ _).trans ?_) | split | (simp only [ih, State.pailWrite_hide, State.pailLoss_hide, h_skim, h_reqs, h_ports, foldl_hide, ite_hide, ite_self, implies_true, and_self]))

theorem State.pailDone_hide (h_skim : StateUnit.skim ∈ hid) (h_ports : StateUnit.ports ∈ hid)  (h : Handle) (from_ : Nat) (urgent : Bool) (s : State) : (State.pailDone s h from_ urgent).hide hid = s.hide hid := by
  unfold State.pailDone
  try dsimp only
  repeat' (first | with_reducible rfl | (simp only [State.hostWrite_hide, State.bell_hide, h_skim, h_ports, foldl_hide, ite_hide, ite_self, implies_true, and_self]; done) | (with_reducible refine (foldl_hide _ (fun s x => ?_) _ _).trans ?_) | split | (simp only [State.hostWrite_hide, State.bell_hide, h_skim, h_ports, foldl_hide, ite_hide, ite_self, implies_true, and_self]))

theorem State.pailAsk_hide (h_reqs : StateUnit.reqs ∈ hid) (h_ports : StateUnit.ports ∈ hid)  (h : Handle) (s : State) : (State.pailAsk s h).hide hid = s.hide hid := by
  unfold State.pailAsk
  try dsimp only
  repeat' (first | with_reducible rfl | (simp only [State.askHost_hide, State.modPail_hide, h_reqs, h_ports, foldl_hide, ite_hide, ite_self, implies_true, and_self]; done) | (with_reducible refine (foldl_hide _ (fun s x => ?_) _ _).trans ?_) | split | (simp only [State.askHost_hide, State.modPail_hide, h_reqs, h_ports, foldl_hide, ite_hide, ite_self, implies_true, and_self]))

theorem State.closePail_hide (h_churn : StateUnit.churn ∈ hid) (h_skim : StateUnit.skim ∈ hid) (h_reqs : StateUnit.reqs ∈ hid) (h_ports : StateUnit.ports ∈ hid)  (h : Handle) (s : State) : (State.closePail s h).hide hid = s.hide hid := by
  unfold State.closePail
  try dsimp only
  repeat' (first | with_reducible rfl | (simp only [State.retire_hide, State.modPail_hide, h_churn, h_skim, h_reqs, h_ports, foldl_hide, ite_hide, ite_self, implies_true, and_self]; done) | (with_reducible refine (foldl_hide _ (fun s x => ?_) _ _).trans ?_) | split | (simp only [State.retire_hide, State.modPail_hide, h_churn, h_skim, h_reqs, h_ports, foldl_hide, ite_hide, ite_self, implies_true, and_self]))

theorem State.pailPut_hide (h_churn : StateUnit.churn ∈ hid) (h_skim : StateUnit.skim ∈ hid) (h_reqs : StateUnit.reqs ∈ hid) (h_ports : StateUnit.ports ∈ hid)  (h : Handle) (es : List PailEntry) (s : State) : (State.pailPut s h es).hide hid = s.hide hid := by
  unfold State.pailPut
  try dsimp only
  repeat' (first | with_reducible rfl | (simp only [State.modPail_hide, State.pailFit_hide, State.pailDone_hide, State.pailAsk_hide, State.closePail_hide, h_churn, h_skim, h_reqs, h_ports, foldl_hide, ite_hide, ite_self, implies_true, and_self]; done) | (with_reducible refine (foldl_hide _ (fun s x => ?_) _ _).trans ?_) | split | (simp only [State.modPail_hide, State.pailFit_hide, State.pailDone_hide, State.pailAsk_hide, State.closePail_hide, h_churn, h_skim, h_reqs, h_ports, foldl_hide, ite_hide, ite_self, implies_true, and_self]))

theorem State.giveVerdict_hide (h_shell : StateUnit.shell ∈ hid) (h_str : StateUnit.str ∈ hid) (h_ren : StateUnit.ren ∈ hid) (h_churn : StateUnit.churn ∈ hid) (h_skim : StateUnit.skim ∈ hid) (h_coll : StateUnit.coll ∈ hid) (h_reqs : StateUnit.reqs ∈ hid) (h_stw : StateUnit.stw ∈ hid) (h_mbox : StateUnit.mbox ∈ hid) (h_regs : StateUnit.regs ∈ hid) (h_log : StateUnit.log ∈ hid) (h_ports : StateUnit.ports ∈ hid)  (h : Handle) (stopped : Bool) (s : State) : (State.giveVerdict s h stopped).hide hid = s.hide hid := by
  unfold State.giveVerdict
  try dsimp only
  repeat' (first | with_reducible rfl | (simp only [State.modReq_hide, State.endOutput_hide, State.buildSlot_hide, h_shell, h_str, h_ren, h_churn, h_skim, h_coll, h_reqs, h_stw, h_mbox, h_regs, h_log, h_ports, foldl_hide, ite_hide, ite_self, implies_true, and_self]; done) | (with_reducible refine (foldl_hide _ (fun s x => ?_) _ _).trans ?_) | split | (simp only [State.modReq_hide, State.endOutput_hide, State.buildSlot_hide, h_shell, h_str, h_ren, h_churn, h_skim, h_coll, h_reqs, h_stw, h_mbox, h_regs, h_log, h_ports, foldl_hide, ite_hide, ite_self, implies_true, and_self]))

theorem State.skimOne_hide (h_shell : StateUnit.shell ∈ hid) (h_str : StateUnit.str ∈ hid) (h_ren : StateUnit.ren ∈ hid) (h_churn : StateUnit.churn ∈ hid) (h_skim : StateUnit.skim ∈ hid) (h_coll : StateUnit.coll ∈ hid) (h_reqs : StateUnit.reqs ∈ hid) (h_stw : StateUnit.stw ∈ hid) (h_mbox : StateUnit.mbox ∈ hid) (h_regs : StateUnit.regs ∈ hid) (h_log : StateUnit.log ∈ hid) (h_ports : StateUnit.ports ∈ hid)  (r : Request) (w : SkimWork) (s : State) : (State.skimOne s r w).hide hid = s.hide hid := by
  unfold State.skimOne
  try dsimp only
  repeat' (first | with_reducible rfl | (simp only [State.modReq_hide, State.readTokens_hide, State.pailPut_hide, State.giveVerdict_hide, h_shell, h_str, h_ren, h_churn, h_skim, h_coll, h_reqs, h_stw, h_mbox, h_regs, h_log, h_ports, foldl_hide, ite_hide, ite_self, implies_true, and_self]; done) | (with_reducible refine (foldl_hide _ (fun s x => ?_) _ _).trans ?_) | split | (simp only [State.modReq_hide, State.readTokens_hide, State.pailPut_hide, State.giveVerdict_hide, h_shell, h_str, h_ren, h_churn, h_skim, h_coll, h_reqs, h_stw, h_mbox, h_regs, h_log, h_ports, foldl_hide, ite_hide, ite_self, implies_true, and_self]))

theorem execSkimCommit_hide (h_clk : StateUnit.clk ∈ hid) (h_shell : StateUnit.shell ∈ hid) (h_str : StateUnit.str ∈ hid) (h_ren : StateUnit.ren ∈ hid) (h_churn : StateUnit.churn ∈ hid) (h_skim : StateUnit.skim ∈ hid) (h_coll : StateUnit.coll ∈ hid) (h_reqs : StateUnit.reqs ∈ hid) (h_stw : StateUnit.stw ∈ hid) (h_mbox : StateUnit.mbox ∈ hid) (h_regs : StateUnit.regs ∈ hid) (h_log : StateUnit.log ∈ hid) (h_ports : StateUnit.ports ∈ hid) (t : Time) (req : Handle) {s t' : State} (e : execSkimCommit t req s = .next t') : t'.hide hid = s.hide hid := by
  unfold execSkimCommit at e
  try dsimp only at e
  rw [Host.Outcome.next.injEq] at e
  subst e
  repeat' (first | with_reducible rfl | (simp only [State.at_hide, State.ringAll_hide, State.skimOne_hide, State.modSkim_hide, h_clk, h_shell, h_str, h_ren, h_churn, h_skim, h_coll, h_reqs, h_stw, h_mbox, h_regs, h_log, h_ports, foldl_hide, ite_hide, ite_self, implies_true, and_self]; done) | (with_reducible refine (foldl_hide _ (fun s x => ?_) _ _).trans ?_) | split | (simp only [State.at_hide, State.ringAll_hide, State.skimOne_hide, State.modSkim_hide, h_clk, h_shell, h_str, h_ren, h_churn, h_skim, h_coll, h_reqs, h_stw, h_mbox, h_regs, h_log, h_ports, foldl_hide, ite_hide, ite_self, implies_true, and_self]))

theorem execConsumerPoll_hide (h_clk : StateUnit.clk ∈ hid) (h_skim : StateUnit.skim ∈ hid) (h_reqs : StateUnit.reqs ∈ hid) (h_ports : StateUnit.ports ∈ hid) (t : Time) (req : Handle) {s t' : State} (e : execConsumerPoll t req s = .next t') : t'.hide hid = s.hide hid := by
  unfold execConsumerPoll at e
  try dsimp only at e
  rw [Host.Outcome.next.injEq] at e
  subst e
  repeat' (first | with_reducible rfl | (simp only [State.at_hide, State.ringAll_hide, State.pailAsk_hide, h_clk, h_skim, h_reqs, h_ports, foldl_hide, ite_hide, ite_self, implies_true, and_self]; done) | (with_reducible refine (foldl_hide _ (fun s x => ?_) _ _).trans ?_) | split | (simp only [State.at_hide, State.ringAll_hide, State.pailAsk_hide, h_clk, h_skim, h_reqs, h_ports, foldl_hide, ite_hide, ite_self, implies_true, and_self]))

theorem State.pauseOrResume_hide (h_reqs : StateUnit.reqs ∈ hid)  (h : Handle) (s : State) : (State.pauseOrResume s h).hide hid = s.hide hid := by
  unfold State.pauseOrResume
  try dsimp only
  repeat' (first | with_reducible rfl | (simp only [State.modReq_hide, State.makeWaiting_hide, h_reqs, foldl_hide, ite_hide, ite_self, implies_true, and_self]; done) | (with_reducible refine (foldl_hide _ (fun s x => ?_) _ _).trans ?_) | split | (simp only [State.modReq_hide, State.makeWaiting_hide, h_reqs, foldl_hide, ite_hide, ite_self, implies_true, and_self]))

theorem State.drainSpill_hide (h_skim : StateUnit.skim ∈ hid) (h_reqs : StateUnit.reqs ∈ hid) (h_ports : StateUnit.ports ∈ hid)  (h : Handle) (s : State) : (State.drainSpill s h).hide hid = s.hide hid := by
  unfold State.drainSpill
  try dsimp only
  repeat' (first | with_reducible rfl | (simp only [State.modPail_hide, State.pailLoss_hide, State.pailFit_hide, State.pailDone_hide, h_skim, h_reqs, h_ports, foldl_hide, ite_hide, ite_self, implies_true, and_self]; done) | (with_reducible refine (foldl_hide _ (fun s x => ?_) _ _).trans ?_) | split | (simp only [State.modPail_hide, State.pailLoss_hide, State.pailFit_hide, State.pailDone_hide, h_skim, h_reqs, h_ports, foldl_hide, ite_hide, ite_self, implies_true, and_self]))

theorem State.consumerRead_hide (h_churn : StateUnit.churn ∈ hid) (h_skim : StateUnit.skim ∈ hid) (h_reqs : StateUnit.reqs ∈ hid) (h_regs : StateUnit.regs ∈ hid) (h_log : StateUnit.log ∈ hid) (h_ports : StateUnit.ports ∈ hid)  (r : Request) (value : Option (BitVec 64)) (s : State) : (State.consumerRead s r value).hide hid = s.hide hid := by
  unfold State.consumerRead
  try dsimp only
  repeat' (first | with_reducible rfl | (simp only [State.logErr_hide, State.modPail_hide, State.closePail_hide, State.pauseOrResume_hide, State.drainSpill_hide, h_churn, h_skim, h_reqs, h_regs, h_log, h_ports, foldl_hide, ite_hide, ite_self, implies_true, and_self]; done) | (with_reducible refine (foldl_hide _ (fun s x => ?_) _ _).trans ?_) | split | (simp only [State.logErr_hide, State.modPail_hide, State.closePail_hide, State.pauseOrResume_hide, State.drainSpill_hide, h_churn, h_skim, h_reqs, h_regs, h_log, h_ports, foldl_hide, ite_hide, ite_self, implies_true, and_self]))

theorem execConsumerReadDone_hide (h_clk : StateUnit.clk ∈ hid) (h_shell : StateUnit.shell ∈ hid) (h_str : StateUnit.str ∈ hid) (h_ren : StateUnit.ren ∈ hid) (h_churn : StateUnit.churn ∈ hid) (h_skim : StateUnit.skim ∈ hid) (h_coll : StateUnit.coll ∈ hid) (h_reqs : StateUnit.reqs ∈ hid) (h_stw : StateUnit.stw ∈ hid) (h_mbox : StateUnit.mbox ∈ hid) (h_regs : StateUnit.regs ∈ hid) (h_log : StateUnit.log ∈ hid) (h_ports : StateUnit.ports ∈ hid) (t : Time) (req : Handle) (value : Option (BitVec 64)) {s t' : State} (e : execConsumerReadDone t req value s = .next t') : t'.hide hid = s.hide hid := by
  unfold execConsumerReadDone at e
  try dsimp only at e
  rw [Host.Outcome.next.injEq] at e
  subst e
  repeat' (first | with_reducible rfl | (simp only [State.at_hide, State.retryBuild_hide, State.consumerRead_hide, h_clk, h_shell, h_str, h_ren, h_churn, h_skim, h_coll, h_reqs, h_stw, h_mbox, h_regs, h_log, h_ports, foldl_hide, ite_hide, ite_self, implies_true, and_self]; done) | (with_reducible refine (foldl_hide _ (fun s x => ?_) _ _).trans ?_) | split | (simp only [State.at_hide, State.retryBuild_hide, State.consumerRead_hide, h_clk, h_shell, h_str, h_ren, h_churn, h_skim, h_coll, h_reqs, h_stw, h_mbox, h_regs, h_log, h_ports, foldl_hide, ite_hide, ite_self, implies_true, and_self]))

/-! ### Machine/TestAccess.lean -/

theorem execWirUpdate_hide (h_clk : StateUnit.clk ∈ hid) (h_wrap : StateUnit.wrap ∈ hid) (t : Time) (code : BitVec 4) {s t' : State} (e : execWirUpdate t code s = .next t') : t'.hide hid = s.hide hid := by
  unfold execWirUpdate at e
  try dsimp only at e
  rw [Host.Outcome.next.injEq] at e
  subst e
  repeat' (first | with_reducible rfl | (simp only [State.at_hide, State.modWrap_hide, h_clk, h_wrap, foldl_hide, ite_hide, ite_self, implies_true, and_self]; done) | (with_reducible refine (foldl_hide _ (fun s x => ?_) _ _).trans ?_) | split | (simp only [State.at_hide, State.modWrap_hide, h_clk, h_wrap, foldl_hide, ite_hide, ite_self, implies_true, and_self]))

theorem execWrapperReset_hide (h_clk : StateUnit.clk ∈ hid) (h_wrap : StateUnit.wrap ∈ hid) (t : Time) {s t' : State} (e : execWrapperReset t s = .next t') : t'.hide hid = s.hide hid := by
  unfold execWrapperReset at e
  try dsimp only at e
  rw [Host.Outcome.next.injEq] at e
  subst e
  repeat' (first | with_reducible rfl | (simp only [State.at_hide, State.modWrap_hide, h_clk, h_wrap, foldl_hide, ite_hide, ite_self, implies_true, and_self]; done) | (with_reducible refine (foldl_hide _ (fun s x => ?_) _ _).trans ?_) | split | (simp only [State.at_hide, State.modWrap_hide, h_clk, h_wrap, foldl_hide, ite_hide, ite_self, implies_true, and_self]))

theorem State.skOnce_hide (h_clk : StateUnit.clk ∈ hid) (h_vat : StateUnit.vat ∈ hid) (h_str : StateUnit.str ∈ hid) (h_skim : StateUnit.skim ∈ hid) (h_fuses : StateUnit.fuses ∈ hid) (h_boot : StateUnit.boot ∈ hid) (h_mbox : StateUnit.mbox ∈ hid) (h_regs : StateUnit.regs ∈ hid) (h_log : StateUnit.log ∈ hid) (h_wrap : StateUnit.wrap ∈ hid) (h_ports : StateUnit.ports ∈ hid)  (v : Nat) (s : State) : (State.skOnce s v).hide hid = s.hide hid := by
  unfold State.skOnce
  try dsimp only
  repeat' (first | with_reducible rfl | (simp only [State.regRead_hide, State.regWrite_hide, State.modRegs_hide, State.modWrap_hide, h_clk, h_vat, h_str, h_skim, h_fuses, h_boot, h_mbox, h_regs, h_log, h_wrap, h_ports, foldl_hide, ite_hide, ite_self, implies_true, and_self]; done) | (with_reducible refine (foldl_hide _ (fun s x => ?_) _ _).trans ?_) | split | (simp only [State.regRead_hide, State.regWrite_hide, State.modRegs_hide, State.modWrap_hide, h_clk, h_vat, h_str, h_skim, h_fuses, h_boot, h_mbox, h_regs, h_log, h_wrap, h_ports, foldl_hide, ite_hide, ite_self, implies_true, and_self]))

theorem State.skAccess_hide (h_clk : StateUnit.clk ∈ hid) (h_vat : StateUnit.vat ∈ hid) (h_str : StateUnit.str ∈ hid) (h_skim : StateUnit.skim ∈ hid) (h_fuses : StateUnit.fuses ∈ hid) (h_boot : StateUnit.boot ∈ hid) (h_mbox : StateUnit.mbox ∈ hid) (h_cmdWin : StateUnit.cmdWin ∈ hid) (h_regs : StateUnit.regs ∈ hid) (h_log : StateUnit.log ∈ hid) (h_wrap : StateUnit.wrap ∈ hid) (h_ports : StateUnit.ports ∈ hid)  (v : Nat) (s : State) : (State.skAccess s v).hide hid = s.hide hid := by
  unfold State.skAccess
  try dsimp only
  repeat' (first | with_reducible rfl | (simp only [State.hostRestore_hide, State.hostAgain_hide, State.skOnce_hide, h_clk, h_vat, h_str, h_skim, h_fuses, h_boot, h_mbox, h_cmdWin, h_regs, h_log, h_wrap, h_ports, foldl_hide, ite_hide, ite_self, implies_true, and_self]; done) | (with_reducible refine (foldl_hide _ (fun s x => ?_) _ _).trans ?_) | split | (simp only [State.hostRestore_hide, State.hostAgain_hide, State.skOnce_hide, h_clk, h_vat, h_str, h_skim, h_fuses, h_boot, h_mbox, h_cmdWin, h_regs, h_log, h_wrap, h_ports, foldl_hide, ite_hide, ite_self, implies_true, and_self]))

theorem execSkReg_hide (h_clk : StateUnit.clk ∈ hid) (h_vat : StateUnit.vat ∈ hid) (h_str : StateUnit.str ∈ hid) (h_skim : StateUnit.skim ∈ hid) (h_fuses : StateUnit.fuses ∈ hid) (h_boot : StateUnit.boot ∈ hid) (h_mbox : StateUnit.mbox ∈ hid) (h_cmdWin : StateUnit.cmdWin ∈ hid) (h_regs : StateUnit.regs ∈ hid) (h_log : StateUnit.log ∈ hid) (h_wrap : StateUnit.wrap ∈ hid) (h_ports : StateUnit.ports ∈ hid) (t : Time) (value : BitVec 64) {s t' : State} (e : execSkReg t value s = .next t') : t'.hide hid = s.hide hid := by
  unfold execSkReg at e
  try dsimp only at e
  rw [Host.Outcome.next.injEq] at e
  subst e
  repeat' (first | with_reducible rfl | (simp only [State.at_hide, State.skAccess_hide, h_clk, h_vat, h_str, h_skim, h_fuses, h_boot, h_mbox, h_cmdWin, h_regs, h_log, h_wrap, h_ports, foldl_hide, ite_hide, ite_self, implies_true, and_self]; done) | (with_reducible refine (foldl_hide _ (fun s x => ?_) _ _).trans ?_) | split | (simp only [State.at_hide, State.skAccess_hide, h_clk, h_vat, h_str, h_skim, h_fuses, h_boot, h_mbox, h_cmdWin, h_regs, h_log, h_wrap, h_ports, foldl_hide, ite_hide, ite_self, implies_true, and_self]))

theorem execSkMbist_hide (h_clk : StateUnit.clk ∈ hid) (h_log : StateUnit.log ∈ hid) (h_wrap : StateUnit.wrap ∈ hid) (t : Time) (value : Word) {s t' : State} (e : execSkMbist t value s = .next t') : t'.hide hid = s.hide hid := by
  unfold execSkMbist at e
  try dsimp only at e
  rw [Host.Outcome.next.injEq] at e
  subst e
  repeat' (first | with_reducible rfl | (simp only [State.at_hide, State.modLog_hide, State.modWrap_hide, h_clk, h_log, h_wrap, foldl_hide, ite_hide, ite_self, implies_true, and_self]; done) | (with_reducible refine (foldl_hide _ (fun s x => ?_) _ _).trans ?_) | split | (simp only [State.at_hide, State.modLog_hide, State.modWrap_hide, h_clk, h_log, h_wrap, foldl_hide, ite_hide, ite_self, implies_true, and_self]))

theorem execMbistDone_hide (h_clk : StateUnit.clk ∈ hid) (h_wrap : StateUnit.wrap ∈ hid) (t : Time) (failing : List (BitVec 17)) (other : Bool) {s t' : State} (e : execMbistDone t failing other s = .next t') : t'.hide hid = s.hide hid := by
  unfold execMbistDone at e
  try dsimp only at e
  rw [Host.Outcome.next.injEq] at e
  subst e
  repeat' (first | with_reducible rfl | (simp only [State.at_hide, State.modWrap_hide, h_clk, h_wrap, foldl_hide, ite_hide, ite_self, implies_true, and_self]; done) | (with_reducible refine (foldl_hide _ (fun s x => ?_) _ _).trans ?_) | split | (simp only [State.at_hide, State.modWrap_hide, h_clk, h_wrap, foldl_hide, ite_hide, ite_self, implies_true, and_self]))

theorem execMbistCapture_hide (h_clk : StateUnit.clk ∈ hid) (h_wrap : StateUnit.wrap ∈ hid) (t : Time) {s t' : State} (e : execMbistCapture t s = .next t') : t'.hide hid = s.hide hid := by
  unfold execMbistCapture at e
  try dsimp only at e
  rw [Host.Outcome.next.injEq] at e
  subst e
  repeat' (first | with_reducible rfl | (simp only [State.at_hide, State.modWrap_hide, h_clk, h_wrap, foldl_hide, ite_hide, ite_self, implies_true, and_self]; done) | (with_reducible refine (foldl_hide _ (fun s x => ?_) _ _).trans ?_) | split | (simp only [State.at_hide, State.modWrap_hide, h_clk, h_wrap, foldl_hide, ite_hide, ite_self, implies_true, and_self]))

end Sys2Proof.Machine
end

