-- ==== Sys2Proof/Laws/Memory.lean ====
section
/-! SUPPORT. Every operation on a memory keeps the canonical form, and what a byte reads as after each of them. -/

set_option Elab.async false

namespace Sys2Proof.Machine

/-- The bound below a canonical list may be lowered. -/
theorem Memory.wfFrom_none {lo : Option Nat} {m : Memory} (h : Memory.wfFrom lo m = true) : Memory.wfFrom none m = true := by
  cases m with
  | nil => rfl
  | cons x r =>
    simp only [Memory.wfFrom, Bool.and_eq_true] at h ⊢
    exact ⟨⟨trivial, h.1.2⟩, h.2⟩

theorem Memory.bound_ok {a : Nat} {lo : Option Nat} :
    (∀ l, lo = some l → l < a) → (match lo with | none => true | some l => decide (l < a)) = true := by
  cases lo with
  | none => exact fun _ => rfl
  | some l => exact fun h => by simpa using h l rfl

theorem Memory.wfFrom_lower {k l : Nat} {m : Memory} (hkl : k ≤ l) (h : Memory.wfFrom (some l) m = true) : Memory.wfFrom (some k) m = true := by
  cases m with
  | nil => rfl
  | cons x r =>
    simp only [Memory.wfFrom, Bool.and_eq_true, decide_eq_true_eq] at h ⊢
    exact ⟨⟨by omega, h.1.2⟩, h.2⟩

theorem Memory.wfFrom_write {a : Nat} (b : Byte) {lo : Option Nat} {m : Memory} (hlo : ∀ l, lo = some l → l < a)
    (h : Memory.wfFrom lo m = true) : Memory.wfFrom lo (Memory.write a b m) = true := by
  induction m generalizing lo with
  | nil =>
    unfold Memory.write
    split
    · rfl
    · simp only [Memory.wfFrom, Bool.and_true, Bool.and_eq_true, decide_eq_true_eq]
      refine ⟨?_, by assumption⟩
      cases lo with
      | none => rfl
      | some l => simpa using hlo l rfl
  | cons x r ih =>
    obtain ⟨k, c⟩ := x
    simp only [Memory.wfFrom, Bool.and_eq_true, decide_eq_true_eq] at h
    obtain ⟨⟨h1, h2⟩, h3⟩ := h
    unfold Memory.write
    split
    · split
      · simp only [Memory.wfFrom, Bool.and_eq_true, decide_eq_true_eq]; exact ⟨⟨h1, h2⟩, h3⟩
      · simp only [Memory.wfFrom, Bool.and_eq_true, decide_eq_true_eq]
        exact ⟨⟨Memory.bound_ok hlo, by assumption⟩, ⟨by assumption, h2⟩, h3⟩
    · split
      · split
        · cases lo with
          | none => exact Memory.wfFrom_none h3
          | some l => exact Memory.wfFrom_lower (Nat.le_of_lt (by simpa using h1)) h3
        · simp only [Memory.wfFrom, Bool.and_eq_true, decide_eq_true_eq]
          refine ⟨⟨Memory.bound_ok hlo, by assumption⟩, ?_⟩
          have : k = a := by assumption
          exact this ▸ h3
      · simp only [Memory.wfFrom, Bool.and_eq_true, decide_eq_true_eq]
        refine ⟨⟨h1, h2⟩, ih (fun l hl => ?_) h3⟩
        cases hl; omega

/-- A write of one byte keeps the canonical form. -/
theorem Memory.wf_write (a : Nat) (b : Byte) {m : Memory} (h : m.wf = true) : (Memory.write a b m).wf = true :=
  Memory.wfFrom_write b (fun _ h => nomatch h) h

/-- A write of a run of bytes keeps the canonical form. -/
theorem Memory.wf_writeRun (a : Nat) (bs : List Byte) {m : Memory} (h : m.wf = true) : (Memory.writeRun a bs m).wf = true := by
  induction bs generalizing a m with
  | nil => exact h
  | cons b r ih => exact ih (a + 1) (Memory.wf_write a b h)

theorem Memory.wfFrom_filter (p : Host.Cell → Bool) {lo : Option Nat} {m : Memory} (h : Memory.wfFrom lo m = true) :
    Memory.wfFrom lo (m.filter p) = true := by
  induction m generalizing lo with
  | nil => exact h
  | cons x r ih =>
    obtain ⟨k, c⟩ := x
    simp only [Memory.wfFrom, Bool.and_eq_true, decide_eq_true_eq] at h
    obtain ⟨⟨h1, h2⟩, h3⟩ := h
    rw [List.filter_cons]
    split
    · simp only [Memory.wfFrom, Bool.and_eq_true, decide_eq_true_eq]
      exact ⟨⟨h1, h2⟩, ih h3⟩
    · cases lo with
      | none => exact Memory.wfFrom_none (ih h3)
      | some l => exact Memory.wfFrom_lower (Nat.le_of_lt (by simpa using h1)) (ih h3)

/-- Clearing a range keeps the canonical form. -/
theorem Memory.wf_clearRange (a n : Nat) {m : Memory} (h : m.wf = true) : (Memory.clearRange a n m).wf = true :=
  Memory.wfFrom_filter _ h

theorem Memory.wf_nil : Memory.wf [] = true := rfl

/-- Below the first listed address every byte reads 0. -/
theorem Memory.read_below {l a : Nat} {m : Memory} (h : Memory.wfFrom (some l) m = true) (ha : a ≤ l) : Memory.read a m = 0 := by
  cases m with
  | nil => rfl
  | cons x r =>
    simp only [Memory.wfFrom, Bool.and_eq_true, decide_eq_true_eq] at h
    unfold Memory.read
    rw [if_neg (by omega), if_pos (by omega)]

theorem Memory.read_write_from {a : Nat} (c : Nat) (b : Byte) {lo : Option Nat} {m : Memory} (h : Memory.wfFrom lo m = true) :
    Memory.read c (Memory.write a b m) = if c = a then b else Memory.read c m := by
  induction m generalizing lo with
  | nil =>
    unfold Memory.write
    by_cases hb : b = 0
    · rw [if_pos hb, hb]; simp [Memory.read]
    · rw [if_neg hb]
      simp only [Memory.read]
      by_cases hc : c = a
      · rw [if_pos hc.symm, if_pos hc]
      · rw [if_neg (Ne.symm hc), if_neg hc]; simp
  | cons x r ih =>
    obtain ⟨k, d⟩ := x
    simp only [Memory.wfFrom, Bool.and_eq_true, decide_eq_true_eq] at h
    obtain ⟨-, h3⟩ := h
    unfold Memory.write
    by_cases h1 : a < k
    · rw [if_pos h1]
      by_cases hb : b = 0
      · rw [if_pos hb]
        by_cases hc : c = a
        · rw [if_pos hc, hb]; unfold Memory.read; rw [if_neg (by omega), if_pos (by omega)]
        · rw [if_neg hc]
      · rw [if_neg hb]
        by_cases hc : c = a
        · rw [if_pos hc]; simp [Memory.read, hc]
        · rw [if_neg hc]
          conv => lhs; unfold Memory.read
          rw [if_neg (Ne.symm hc)]
          by_cases hca : c < a
          · rw [if_pos hca]; unfold Memory.read; rw [if_neg (by omega), if_pos (by omega)]
          · rw [if_neg hca]
    · rw [if_neg h1]
      by_cases h2 : k = a
      · rw [if_pos h2]
        by_cases hb : b = 0
        · rw [if_pos hb]
          by_cases hc : c = a
          · rw [if_pos hc, hb]; exact Memory.read_below h3 (by omega)
          · rw [if_neg hc]
            conv => rhs; unfold Memory.read
            rw [if_neg (by omega)]
            by_cases hck : c < k
            · rw [if_pos hck]; exact Memory.read_below h3 (by omega)
            · rw [if_neg hck]
        · rw [if_neg hb]
          by_cases hc : c = a
          · rw [if_pos hc]; simp [Memory.read, hc]
          · rw [if_neg hc]; simp only [Memory.read, h2]; rw [if_neg (Ne.symm hc), if_neg (Ne.symm hc)]
      · rw [if_neg h2]
        simp only [Memory.read]
        by_cases hk : k = c
        · rw [if_pos hk, if_neg (by omega), if_pos hk]
        · rw [if_neg hk, if_neg hk]
          by_cases hck : c < k
          · rw [if_pos hck, if_pos hck, if_neg (by omega)]
          · rw [if_neg hck, if_neg hck]; exact ih h3

/-- A byte reads as written, and a write leaves every other byte alone. -/
theorem Memory.read_write {a : Nat} (c : Nat) (b : Byte) {m : Memory} (h : m.wf = true) :
    Memory.read c (Memory.write a b m) = if c = a then b else Memory.read c m := Memory.read_write_from c b h

/-- A run of bytes reads as written, and every byte outside it as before. -/
theorem Memory.read_writeRun (a c : Nat) (bs : List Byte) {m : Memory} (h : m.wf = true) :
    Memory.read c (Memory.writeRun a bs m) = if a ≤ c ∧ c < a + bs.length then bs.getD (c - a) 0 else Memory.read c m := by
  induction bs generalizing a m with
  | nil => rw [if_neg (by simp)]; rfl
  | cons b r ih =>
    unfold Memory.writeRun
    rw [ih (a + 1) (Memory.wf_write a b h), Memory.read_write c b h, List.length_cons]
    by_cases h1 : a + 1 ≤ c ∧ c < a + 1 + r.length
    · rw [if_pos h1, if_pos (by omega)]
      obtain ⟨k, hk⟩ : ∃ k, c - a = k + 1 := ⟨c - a - 1, by omega⟩
      rw [hk, List.getD_cons_succ, show c - (a + 1) = k by omega]
    · rw [if_neg h1]
      by_cases h2 : c = a
      · rw [if_pos h2, if_pos (by omega), h2, Nat.sub_self, List.getD_cons_zero]
      · rw [if_neg h2, if_neg (by omega)]

theorem Memory.read_filter_from (p : Nat → Bool) (c : Nat) {lo : Option Nat} {m : Memory} (h : Memory.wfFrom lo m = true) :
    Memory.read c (m.filter (fun x => p x.1)) = if p c = true then Memory.read c m else 0 := by
  induction m generalizing lo with
  | nil => simp [Memory.read]
  | cons x r ih =>
    obtain ⟨k, d⟩ := x
    simp only [Memory.wfFrom, Bool.and_eq_true, decide_eq_true_eq] at h
    obtain ⟨-, h3⟩ := h
    rw [List.filter_cons]
    by_cases hp : p k = true
    · rw [if_pos hp]
      simp only [Memory.read]
      by_cases hk : k = c
      · rw [if_pos hk, if_pos hk, if_pos (hk ▸ hp)]
      · rw [if_neg hk, if_neg hk]
        by_cases hck : c < k
        · rw [if_pos hck, if_pos hck]; simp
        · rw [if_neg hck, if_neg hck]; exact ih h3
    · rw [if_neg hp, ih h3]
      by_cases hc : p c = true
      · rw [if_pos hc, if_pos hc]
        simp only [Memory.read]
        rw [if_neg (fun e : k = c => hp (e ▸ hc))]
        by_cases hck : c < k
        · rw [if_pos hck]; exact Memory.read_below h3 (by omega)
        · rw [if_neg hck]
      · rw [if_neg hc, if_neg hc]

/-- A cleared range reads 0, and every byte outside it as before. -/
theorem Memory.read_clearRange (a n c : Nat) {m : Memory} (h : m.wf = true) :
    Memory.read c (Memory.clearRange a n m) = if a ≤ c ∧ c < a + n then 0 else Memory.read c m := by
  have := Memory.read_filter_from (fun k => !(decide (a ≤ k) && decide (k < a + n))) c (m := m) h
  unfold Memory.clearRange
  rw [this]
  by_cases h1 : a ≤ c ∧ c < a + n
  · rw [if_neg (by simp [h1.1, h1.2]), if_pos h1]
  · rw [if_pos (by simp; omega), if_neg h1]

end Sys2Proof.Machine
end

