-- ==== Sys2Proof/Laws/Canonical.lean ====
section
/-! SUPPORT. Every operation keeps the byte memories canonical: the ones that touch no memory leave `State.canonical` as it
was, the ones that write one keep it true. -/

set_option Elab.async false

set_option linter.unusedVariables false
set_option linter.unusedSimpArgs false
set_option linter.unusedTactic false
set_option linter.unreachableTactic false

namespace Sys2Proof.Machine

/-- Every part of the state but its byte memories. -/
abbrev unitsNotMemory : List StateUnit := [.clk, .shell, .vat, .str, .drw, .ren, .churn, .skim, .coll, .reqs, .rat, .stw, .fuses, .boot, .mbox, .regs, .log, .wrap, .ports, .free]

theorem canon_of_hide {s t : State} (h : t.hide unitsNotMemory = s.hide unitsNotMemory) : t.canonical = s.canonical := by
  have h1 := congrArg State.vat h
  have h2 := congrArg State.boot h
  have h3 := congrArg State.mbox h
  have a1 : t.vat.mem = s.vat.mem := (have := congrArg Vat.mem h1; this)
  have a2 : t.vat.tags = s.vat.tags := (have := congrArg Vat.tags h1; this)
  have a3 : t.vat.checks = s.vat.checks := (have := congrArg Vat.checks h1; this)
  have a4 : t.vat.parity = s.vat.parity := (have := congrArg Vat.parity h1; this)
  have a5 : t.boot.core = s.boot.core := (have := congrArg Boot.core h2; this)
  have a6 : t.boot.data = s.boot.data := (have := congrArg Boot.data h2; this)
  have a7 : t.mbox.windows = s.mbox.windows := (have := congrArg Mailbox.windows h3; this)
  simp only [State.canonical, Vat.canonical, a1, a2, a3, a4, a5, a6, a7]

theorem canon_foldl {α : Type} {f : State → α → State} (h : ∀ s x, s.canonical = true → (f s x).canonical = true) (xs : List α) {s : State}
    (hs : s.canonical = true) : (xs.foldl f s).canonical = true := by
  induction xs generalizing s with
  | nil => exact hs
  | cons x r ih => exact ih (h _ _ hs)

theorem canon_parts {s : State} :
    s.canonical = true ↔ s.vat.canonical = true ∧ s.mbox.windows.wf = true ∧ Memory.wf s.boot.core = true ∧ Memory.wf s.boot.data = true := by
  simp only [State.canonical, Bool.and_eq_true, and_assoc]

theorem canon_of_vat {s : State} (h : s.canonical = true) : s.vat.canonical = true := (canon_parts.1 h).1

theorem Vat.canonical_parts {v : Vat} :
    v.canonical = true ↔ v.mem.wf = true ∧ v.tags.wf = true ∧ v.checks.wf = true ∧ v.parity.wf = true := by
  simp only [Vat.canonical, Bool.and_eq_true, and_assoc]

/-- A change of the vat alone. -/
theorem canon_vat {s : State} {f : Vat → Vat} (hf : ∀ v, v.canonical = true → (f v).canonical = true) (h : s.canonical = true) :
    (s.modVat f).canonical = true :=
  canon_parts.2 ⟨hf _ (canon_of_vat h), (canon_parts.1 h).2⟩

theorem canon_vat_same {s : State} (f : Vat → Vat)
    (hf : ∀ v, (f v).mem = v.mem ∧ (f v).tags = v.tags ∧ (f v).checks = v.checks ∧ (f v).parity = v.parity) :
    (s.modVat f).canonical = s.canonical := by
  simp only [State.canonical, Vat.canonical, State.modVat_vat, hf]; rfl

/-- A change of the boot unit that leaves its memories alone. -/
theorem canon_boot_same {s : State} (f : Boot → Boot) (hf : ∀ b, (f b).core = b.core ∧ (f b).data = b.data) :
    (s.modBoot f).canonical = s.canonical := by
  simp only [State.canonical, State.modBoot_boot, hf]; rfl

/-- A change of the mailboxes that leaves the mailbox-context region alone. -/
theorem canon_mbox_same {s : State} (f : Mailbox → Mailbox) (hf : ∀ m, (f m).windows = m.windows) :
    (s.modMbox f).canonical = s.canonical := by
  simp only [State.canonical, State.modMbox_mbox, hf]; rfl

theorem canon_vat_keep {s : State} {f : Vat → Vat}
    (hf : ∀ v, (f v).mem = v.mem ∧ (f v).tags = v.tags ∧ (f v).checks = v.checks ∧ (f v).parity = v.parity) (h : s.canonical = true) :
    (s.modVat f).canonical = true := (canon_vat_same f hf).trans h

theorem canon_boot_keep {s : State} {f : Boot → Boot} (hf : ∀ b, (f b).core = b.core ∧ (f b).data = b.data) (h : s.canonical = true) :
    (s.modBoot f).canonical = true := (canon_boot_same f hf).trans h

theorem canon_mbox_keep {s : State} {f : Mailbox → Mailbox} (hf : ∀ m, (f m).windows = m.windows) (h : s.canonical = true) :
    (s.modMbox f).canonical = true := (canon_mbox_same f hf).trans h

/-! ### The writes of the vat -/

theorem Vat.writeRow_canonical {v : Vat} (pra off : Nat) (bs : List Byte) (h : v.canonical = true) : (v.writeRow pra off bs).canonical = true := by
  obtain ⟨h1, h2, h3, h4⟩ := Vat.canonical_parts.1 h
  exact Vat.canonical_parts.2 ⟨Memory.wf_writeRun _ _ h1, Memory.wf_write _ _ h2, Memory.wf_writeRun _ _ h3, Memory.wf_write _ _ h4⟩

theorem Vat.writeRows_canonical (a : Area) (n row : Nat) (bs : List Byte) {v : Vat} (h : v.canonical = true) :
    (Vat.writeRows a n row bs v).canonical = true := by
  induction n generalizing row bs v with
  | zero => exact h
  | succ n ih =>
    rw [Vat.writeRows]
    refine ih _ _ ?_
    split
    · exact Vat.writeRow_canonical _ _ _ h
    · exact h

theorem Vat.zeroTag_canonical {v : Vat} (pra : Nat) (h : v.canonical = true) : (v.zeroTag pra).canonical = true := by
  obtain ⟨h1, h2, h3, h4⟩ := Vat.canonical_parts.1 h
  exact Vat.canonical_parts.2 ⟨h1, Memory.wf_write _ _ h2, h3, Memory.wf_write _ _ h4⟩

theorem Vat.zeroBank_canonical {v : Vat} (b : Nat) (h : v.canonical = true) : (v.zeroBank b).canonical = true := by
  obtain ⟨h1, h2, h3, h4⟩ := Vat.canonical_parts.1 h
  exact Vat.canonical_parts.2 ⟨Memory.wf_clearRange _ _ h1, Memory.wf_clearRange _ _ h2, Memory.wf_clearRange _ _ h3, Memory.wf_clearRange _ _ h4⟩

theorem canon_writeRow {s : State} (p o : Nat) (bs : List Byte) (h : s.canonical = true) : (s.modVat (fun v => v.writeRow p o bs)).canonical = true :=
  canon_vat (fun _ hv => Vat.writeRow_canonical _ _ _ hv) h

theorem canon_writeRows {s : State} (a : Area) (n row : Nat) (bs : List Byte) (h : s.canonical = true) :
    (s.modVat (Vat.writeRows a n row bs)).canonical = true := canon_vat (fun _ hv => Vat.writeRows_canonical _ _ _ _ hv) h

theorem canon_zeroTag {s : State} (p : Nat) (h : s.canonical = true) : (s.modVat (fun v => v.zeroTag p)).canonical = true :=
  canon_vat (fun _ hv => Vat.zeroTag_canonical _ hv) h

theorem canon_zeroBank {s : State} (b : Nat) (h : s.canonical = true) : (s.modVat (fun v => v.zeroBank b)).canonical = true :=
  canon_vat (fun _ hv => Vat.zeroBank_canonical _ hv) h

theorem canon_windows {s : State} (o : Nat) (d : List Byte) (h : s.canonical = true) :
    (s.modMbox (fun m => { m with windows := Memory.writeRun o d m.windows })).canonical = true := by
  obtain ⟨h1, h2, h3⟩ := canon_parts.1 h
  exact canon_parts.2 ⟨h1, Memory.wf_writeRun _ _ h2, h3⟩

/-! ### Operations that touch no memory -/

theorem modClk_canon (f) (s : State) : (s.modClk f).canonical = s.canonical := rfl
theorem modShell_canon (f) (s : State) : (s.modShell f).canonical = s.canonical := rfl
theorem modStr_canon (f) (s : State) : (s.modStr f).canonical = s.canonical := rfl
theorem modDrw_canon (f) (s : State) : (s.modDrw f).canonical = s.canonical := rfl
theorem modRen_canon (f) (s : State) : (s.modRen f).canonical = s.canonical := rfl
theorem modChurn_canon (f) (s : State) : (s.modChurn f).canonical = s.canonical := rfl
theorem modSkim_canon (f) (s : State) : (s.modSkim f).canonical = s.canonical := rfl
theorem modColl_canon (f) (s : State) : (s.modColl f).canonical = s.canonical := rfl
theorem modReqs_canon (f) (s : State) : (s.modReqs f).canonical = s.canonical := rfl
theorem modRat_canon (f) (s : State) : (s.modRat f).canonical = s.canonical := rfl
theorem modStw_canon (f) (s : State) : (s.modStw f).canonical = s.canonical := rfl
theorem modFuses_canon (f) (s : State) : (s.modFuses f).canonical = s.canonical := rfl
theorem modRegs_canon (f) (s : State) : (s.modRegs f).canonical = s.canonical := rfl
theorem modLog_canon (f) (s : State) : (s.modLog f).canonical = s.canonical := rfl
theorem modWrap_canon (f) (s : State) : (s.modWrap f).canonical = s.canonical := rfl
theorem modPorts_canon (f) (s : State) : (s.modPorts f).canonical = s.canonical := rfl
theorem State.hostRestore_canon  (x : HostSnap) (s : State) : (State.hostRestore s x).canonical = s.canonical :=
  canon_of_hide (State.hostRestore_hide (by decide) (by decide) (by decide) (by decide) (by decide) (by decide) (by decide) (by decide) x s)
theorem State.logErr_canon  (code : Nat) (slot : Option Nat) (d0 : Nat) (d1 : Nat) (d2 : Nat) (s : State) : (State.logErr s code slot d0 d1 d2).canonical = s.canonical :=
  canon_of_hide (State.logErr_hide (by decide) (by decide) code slot d0 d1 d2 s)
theorem State.logFabric_canon  (code : Nat) (slot : Option Nat) (d0 : Nat) (d1 : Nat) (d2 : Nat) (s : State) : (State.logFabric s code slot d0 d1 d2).canonical = s.canonical :=
  canon_of_hide (State.logFabric_hide (by decide) (by decide) (by decide) code slot d0 d1 d2 s)
theorem State.logRange_canon  (area : Nat) (row : Nat) (s : State) : (State.logRange s area row).canonical = s.canonical :=
  canon_of_hide (State.logRange_hide (by decide) (by decide) area row s)
theorem State.rowCorrected_canon  (pra : Nat) (s : State) : (State.rowCorrected s pra).canonical = s.canonical :=
  canon_of_hide (State.rowCorrected_hide (by decide) (by decide) (by decide) pra s)
theorem State.dropAccess_canon  (offset : Nat) (wr : Bool) (s : State) : (State.dropAccess s offset wr).canonical = s.canonical :=
  canon_of_hide (State.dropAccess_hide (by decide) (by decide) offset wr s)
theorem State.dropStaging_canon  (offset : Nat) (s : State) : (State.dropStaging s offset).canonical = s.canonical :=
  canon_of_hide (State.dropStaging_hide (by decide) (by decide) offset s)
theorem State.startWork_canon   (s : State) : (State.startWork s).canonical = s.canonical :=
  canon_of_hide (State.startWork_hide (by decide)  s)
theorem State.lateBeat_canon  (f : Shape) (g : Nat) (tile : Option Nat) (s : State) : (State.lateBeat s f g tile).canonical = s.canonical :=
  canon_of_hide (State.lateBeat_hide (by decide) f g tile s)
theorem State.openTile_canon  (f : Shape) (h : Header) (s : State) : (State.openTile s f h).1.canonical = s.canonical :=
  canon_of_hide (State.openTile_hide (by decide) (by decide) (by decide) (by decide) (by decide) (by decide) (by decide) f h s)
theorem State.landTile_canon  (f : Shape) (t : Tile) (s : State) : (State.landTile s f t).canonical = s.canonical :=
  canon_of_hide (State.landTile_hide (by decide) (by decide) f t s)
theorem State.countBeat_canon   (s : State) : (State.countBeat s).canonical = s.canonical :=
  canon_of_hide (State.countBeat_hide (by decide)  s)
theorem State.refuseOldest_canon   (s : State) : (State.refuseOldest s).canonical = s.canonical :=
  canon_of_hide (State.refuseOldest_hide (by decide)  s)
theorem State.passBeat_canon  (h : Header) (beat : Nat) (s : State) : (State.passBeat s h beat).canonical = s.canonical :=
  canon_of_hide (State.passBeat_hide (by decide) h beat s)
theorem State.markBuffer_canon  (n : Nat) (off : Nat) (s : State) : (State.markBuffer s n off).canonical = s.canonical :=
  canon_of_hide (State.markBuffer_hide (by decide) n off s)
theorem State.rejectInbound_canon  (a : BitVec 64) (resp : Nat) (s : State) : (State.rejectInbound s a resp).canonical = s.canonical :=
  canon_of_hide (State.rejectInbound_hide (by decide) (by decide) (by decide) a resp s)
theorem State.failRow_canon  (r : Row) (cause : Nat) (s : State) : (State.failRow s r cause).canonical = s.canonical :=
  canon_of_hide (State.failRow_hide (by decide) (by decide) (by decide) (by decide) (by decide) (by decide) (by decide) r cause s)
theorem State.noWork_canon  (h : Handle) (s : State) : (State.noWork s h).canonical = s.canonical :=
  canon_of_hide (State.noWork_hide (by decide) (by decide) (by decide) h s)
theorem State.endSlabs_canon  (r : Row) (b : SlabState) (s : State) : (State.endSlabs s r b).canonical = s.canonical :=
  canon_of_hide (State.endSlabs_hide (by decide) (by decide) (by decide) (by decide) (by decide) (by decide) (by decide) r b s)
theorem State.slabStep_canon  (r : Row) (b : SlabState) (t : Tile) (s : State) : (State.slabStep s r b t).canonical = s.canonical :=
  canon_of_hide (State.slabStep_hide (by decide) (by decide) (by decide) (by decide) (by decide) (by decide) (by decide) r b t s)
theorem State.wholeRow_canon  (r : Row) (s : State) : (State.wholeRow s r).canonical = s.canonical :=
  canon_of_hide (State.wholeRow_hide (by decide) (by decide) (by decide) (by decide) r s)
theorem State.modUnit_canon  (u : Nat) (f : PowerUnit → PowerUnit) (s : State) : (State.modUnit u f s).canonical = s.canonical :=
  canon_of_hide (State.modUnit_hide (by decide) (by decide) u f s)
theorem State.powerAnswers_canon   (s : State) : (State.powerAnswers s).canonical = s.canonical :=
  canon_of_hide (State.powerAnswers_hide (by decide) (by decide) (by decide)  s)
theorem State.regPower_canon  (ask : List (Nat × Bool)) (offset : Nat) (s : State) : (State.regPower s ask offset).canonical = s.canonical :=
  canon_of_hide (State.regPower_hide (by decide) (by decide) (by decide) (by decide) (by decide) (by decide) (by decide) (by decide) ask offset s)
theorem State.bootFail_canon  (raise : Bool) (cause : Nat) (stage : Nat) (d0 : Nat) (d1 : Nat) (fw : Word) (s : State) : (State.bootFail s raise cause stage d0 d1 fw).canonical = s.canonical :=
  canon_of_hide (State.bootFail_hide (by decide) (by decide) (by decide) raise cause stage d0 d1 fw s)
theorem State.bootRestart_canon   (s : State) : (State.bootRestart s).canonical = s.canonical :=
  canon_of_hide (State.bootRestart_hide (by decide)  s)
theorem State.awaitImage_canon   (s : State) : (State.awaitImage s).canonical = s.canonical :=
  canon_of_hide (State.awaitImage_hide (by decide)  s)
theorem State.takeMessage_canon  (n : Nat) (role : Nat) (c : CollConfig) (f : Shape) (h : MsgHeader) (body : List Nat) (s : State) : (State.takeMessage s n role c f h body).canonical = s.canonical :=
  canon_of_hide (State.takeMessage_hide (by decide) (by decide) (by decide) (by decide) (by decide) (by decide) (by decide) (by decide) (by decide) n role c f h body s)
theorem State.gatherAll_canon   (s : State) : (State.gatherAll s).canonical = s.canonical :=
  canon_of_hide (State.gatherAll_hide (by decide) (by decide) (by decide) (by decide) (by decide) (by decide)  s)
theorem State.dryParts_canon  (f : Shape) (slot : Nat) (s : State) : (State.dryParts s f slot).canonical = s.canonical :=
  canon_of_hide (State.dryParts_hide (by decide) f slot s)
theorem State.retryWaits_canon  (f : Shape) (s : State) : (State.retryWaits s f).canonical = s.canonical :=
  canon_of_hide (State.retryWaits_hide (by decide) (by decide) (by decide) (by decide) (by decide) (by decide) f s)
theorem State.regRead_canon  (wrapper : Bool) (o : Nat) (size : Nat) (s : State) : (State.regRead s wrapper o size).canonical = s.canonical :=
  canon_of_hide (State.regRead_hide (by decide) (by decide) (by decide) (by decide) wrapper o size s)
theorem State.regWrite_canon  (wrapper : Bool) (o : Nat) (value : Word) (s : State) : (State.regWrite s wrapper o value).canonical = s.canonical :=
  canon_of_hide (State.regWrite_hide (by decide) (by decide) (by decide) (by decide) (by decide) (by decide) (by decide) (by decide) (by decide) (by decide) wrapper o value s)
theorem State.skOnce_canon  (v : Nat) (s : State) : (State.skOnce s v).canonical = s.canonical :=
  canon_of_hide (State.skOnce_hide (by decide) (by decide) (by decide) (by decide) (by decide) (by decide) (by decide) (by decide) (by decide) (by decide) (by decide) v s)

/-! ### Operations that write a memory -/

theorem State.rowPoisoned_canon  (pra : Nat) (tagBad : Bool) {s : State} (hcan : s.canonical = true) : (State.rowPoisoned s pra tagBad).canonical = true := by
  unfold State.rowPoisoned
  try dsimp only
  repeat' (first | with_reducible exact hcan | with_reducible assumption | split | (simp only [State.logErr_canon, modClk_canon, modShell_canon, modStr_canon, modDrw_canon, modRen_canon, modChurn_canon, modSkim_canon, modColl_canon, modReqs_canon, modRat_canon, modStw_canon, modFuses_canon, modRegs_canon, modLog_canon, modWrap_canon, modPorts_canon]) | (with_reducible refine canon_vat_keep (fun _ => ⟨rfl, rfl, rfl, rfl⟩) ?_) | (with_reducible refine canon_boot_keep (fun _ => ⟨rfl, rfl⟩) ?_) | (with_reducible refine canon_mbox_keep (fun _ => rfl) ?_) | (with_reducible refine canon_foldl (fun _ _ hcan => ?_) _ ?_) | with_reducible apply canon_writeRow | with_reducible apply canon_writeRows | with_reducible apply canon_zeroTag | with_reducible apply canon_zeroBank | with_reducible apply canon_windows)

theorem State.windowWrite_canon  (offset : Nat) (data : List Byte) {s : State} (hcan : s.canonical = true) : (State.windowWrite s offset data).canonical = true := by
  unfold State.windowWrite
  try dsimp only
  repeat' (first | with_reducible exact hcan | with_reducible assumption | split | (simp only [State.dropAccess_canon, State.dropStaging_canon, modClk_canon, modShell_canon, modStr_canon, modDrw_canon, modRen_canon, modChurn_canon, modSkim_canon, modColl_canon, modReqs_canon, modRat_canon, modStw_canon, modFuses_canon, modRegs_canon, modLog_canon, modWrap_canon, modPorts_canon]) | (with_reducible refine canon_vat_keep (fun _ => ⟨rfl, rfl, rfl, rfl⟩) ?_) | (with_reducible refine canon_boot_keep (fun _ => ⟨rfl, rfl⟩) ?_) | (with_reducible refine canon_mbox_keep (fun _ => rfl) ?_) | (with_reducible refine canon_foldl (fun _ _ hcan => ?_) _ ?_) | with_reducible apply canon_writeRow | with_reducible apply canon_writeRows | with_reducible apply canon_zeroTag | with_reducible apply canon_zeroBank | with_reducible apply canon_windows)

theorem State.storeBeat_canon  (f : Shape) (h : Header) (num : Nat) (beat : Nat) (data : List Byte) {s : State} (hcan : s.canonical = true) : (State.storeBeat s f h num beat data).canonical = true := by
  unfold State.storeBeat
  try dsimp only
  repeat' (first | with_reducible exact hcan | with_reducible assumption | split | (simp only [State.logRange_canon, State.startWork_canon, State.landTile_canon, modClk_canon, modShell_canon, modStr_canon, modDrw_canon, modRen_canon, modChurn_canon, modSkim_canon, modColl_canon, modReqs_canon, modRat_canon, modStw_canon, modFuses_canon, modRegs_canon, modLog_canon, modWrap_canon, modPorts_canon]) | (with_reducible refine canon_vat_keep (fun _ => ⟨rfl, rfl, rfl, rfl⟩) ?_) | (with_reducible refine canon_boot_keep (fun _ => ⟨rfl, rfl⟩) ?_) | (with_reducible refine canon_mbox_keep (fun _ => rfl) ?_) | (with_reducible refine canon_foldl (fun _ _ hcan => ?_) _ ?_) | with_reducible apply canon_writeRow | with_reducible apply canon_writeRows | with_reducible apply canon_zeroTag | with_reducible apply canon_zeroBank | with_reducible apply canon_windows)

theorem State.takeBeat_canon  (f : Shape) (x : PendingHeader) (data : List Byte) {s : State} (hcan : s.canonical = true) : (State.takeBeat s f x data).canonical = true := by
  unfold State.takeBeat
  try dsimp only
  repeat' (first | with_reducible exact hcan | with_reducible assumption | split | (simp only [State.openTile_canon, State.countBeat_canon, State.passBeat_canon, modClk_canon, modShell_canon, modStr_canon, modDrw_canon, modRen_canon, modChurn_canon, modSkim_canon, modColl_canon, modReqs_canon, modRat_canon, modStw_canon, modFuses_canon, modRegs_canon, modLog_canon, modWrap_canon, modPorts_canon]) | (with_reducible refine canon_vat_keep (fun _ => ⟨rfl, rfl, rfl, rfl⟩) ?_) | (with_reducible refine canon_boot_keep (fun _ => ⟨rfl, rfl⟩) ?_) | (with_reducible refine canon_mbox_keep (fun _ => rfl) ?_) | (with_reducible refine canon_foldl (fun _ _ hcan => ?_) _ ?_) | with_reducible apply State.storeBeat_canon | with_reducible apply canon_writeRow | with_reducible apply canon_writeRows | with_reducible apply canon_zeroTag | with_reducible apply canon_zeroBank | with_reducible apply canon_windows)

theorem State.dataBeat_canon  (f : Shape) (data : List Byte) {s : State} (hcan : s.canonical = true) : (State.dataBeat s f data).canonical = true := by
  unfold State.dataBeat
  try dsimp only
  repeat' (first | with_reducible exact hcan | with_reducible assumption | split | (simp only [State.logFabric_canon, State.lateBeat_canon, State.countBeat_canon, State.refuseOldest_canon, modClk_canon, modShell_canon, modStr_canon, modDrw_canon, modRen_canon, modChurn_canon, modSkim_canon, modColl_canon, modReqs_canon, modRat_canon, modStw_canon, modFuses_canon, modRegs_canon, modLog_canon, modWrap_canon, modPorts_canon]) | (with_reducible refine canon_vat_keep (fun _ => ⟨rfl, rfl, rfl, rfl⟩) ?_) | (with_reducible refine canon_boot_keep (fun _ => ⟨rfl, rfl⟩) ?_) | (with_reducible refine canon_mbox_keep (fun _ => rfl) ?_) | (with_reducible refine canon_foldl (fun _ _ hcan => ?_) _ ?_) | with_reducible apply State.takeBeat_canon | with_reducible apply canon_writeRow | with_reducible apply canon_writeRows | with_reducible apply canon_zeroTag | with_reducible apply canon_zeroBank | with_reducible apply canon_windows)

theorem State.inbound_canon (a : BitVec 64) (d : BitVec 512) (b : Bool) {s : State} (h : s.canonical = true) : (s.inbound a d b).canonical = true := by
  unfold State.inbound
  dsimp only
  split
  · rw [State.rejectInbound_canon]; exact h
  split
  · rw [State.markBuffer_canon]; exact canon_writeRow _ _ _ h
  split
  · rw [State.rejectInbound_canon]; exact canon_zeroTag _ h
  · rw [State.rejectInbound_canon]; exact h

theorem State.rowRead_canon  (pra : Nat) (e : Ecc) {s : State} (hcan : s.canonical = true) : (State.rowRead s pra e).canonical = true := by
  unfold State.rowRead
  try dsimp only
  repeat' (first | with_reducible exact hcan | with_reducible assumption | split | (simp only [State.rowCorrected_canon, modClk_canon, modShell_canon, modStr_canon, modDrw_canon, modRen_canon, modChurn_canon, modSkim_canon, modColl_canon, modReqs_canon, modRat_canon, modStw_canon, modFuses_canon, modRegs_canon, modLog_canon, modWrap_canon, modPorts_canon]) | (with_reducible refine canon_vat_keep (fun _ => ⟨rfl, rfl, rfl, rfl⟩) ?_) | (with_reducible refine canon_boot_keep (fun _ => ⟨rfl, rfl⟩) ?_) | (with_reducible refine canon_mbox_keep (fun _ => rfl) ?_) | (with_reducible refine canon_foldl (fun _ _ hcan => ?_) _ ?_) | with_reducible apply State.rowPoisoned_canon | with_reducible apply canon_writeRow | with_reducible apply canon_writeRows | with_reducible apply canon_zeroTag | with_reducible apply canon_zeroBank | with_reducible apply canon_windows)

theorem State.scrubBank_canon  (b : Nat) (e : Ecc) {s : State} (hcan : s.canonical = true) : (State.scrubBank s b e).canonical = true := by
  unfold State.scrubBank
  try dsimp only
  repeat' (first | with_reducible exact hcan | with_reducible assumption | split | (simp only [modClk_canon, modShell_canon, modStr_canon, modDrw_canon, modRen_canon, modChurn_canon, modSkim_canon, modColl_canon, modReqs_canon, modRat_canon, modStw_canon, modFuses_canon, modRegs_canon, modLog_canon, modWrap_canon, modPorts_canon]) | (with_reducible refine canon_vat_keep (fun _ => ⟨rfl, rfl, rfl, rfl⟩) ?_) | (with_reducible refine canon_boot_keep (fun _ => ⟨rfl, rfl⟩) ?_) | (with_reducible refine canon_mbox_keep (fun _ => rfl) ?_) | (with_reducible refine canon_foldl (fun _ _ hcan => ?_) _ ?_) | with_reducible apply State.rowRead_canon | with_reducible apply canon_writeRow | with_reducible apply canon_writeRows | with_reducible apply canon_zeroTag | with_reducible apply canon_zeroBank | with_reducible apply canon_windows)

theorem State.rowFault_canon  (slot : Nat) (x : RowFault) {s : State} (hcan : s.canonical = true) : (State.rowFault s slot x).canonical = true := by
  unfold State.rowFault
  try dsimp only
  repeat' (first | with_reducible exact hcan | with_reducible assumption | split | (simp only [State.logErr_canon, State.rowCorrected_canon, modClk_canon, modShell_canon, modStr_canon, modDrw_canon, modRen_canon, modChurn_canon, modSkim_canon, modColl_canon, modReqs_canon, modRat_canon, modStw_canon, modFuses_canon, modRegs_canon, modLog_canon, modWrap_canon, modPorts_canon]) | (with_reducible refine canon_vat_keep (fun _ => ⟨rfl, rfl, rfl, rfl⟩) ?_) | (with_reducible refine canon_boot_keep (fun _ => ⟨rfl, rfl⟩) ?_) | (with_reducible refine canon_mbox_keep (fun _ => rfl) ?_) | (with_reducible refine canon_foldl (fun _ _ hcan => ?_) _ ?_) | with_reducible apply State.rowPoisoned_canon | with_reducible apply canon_writeRow | with_reducible apply canon_writeRows | with_reducible apply canon_zeroTag | with_reducible apply canon_zeroBank | with_reducible apply canon_windows)

theorem State.rowFaults_canon  (slot : Nat) (l : List RowFault) {s : State} (hcan : s.canonical = true) : (State.rowFaults s slot l).canonical = true := by
  unfold State.rowFaults
  try dsimp only
  repeat' (first | with_reducible exact hcan | with_reducible assumption | split | (simp only [modClk_canon, modShell_canon, modStr_canon, modDrw_canon, modRen_canon, modChurn_canon, modSkim_canon, modColl_canon, modReqs_canon, modRat_canon, modStw_canon, modFuses_canon, modRegs_canon, modLog_canon, modWrap_canon, modPorts_canon]) | (with_reducible refine canon_vat_keep (fun _ => ⟨rfl, rfl, rfl, rfl⟩) ?_) | (with_reducible refine canon_boot_keep (fun _ => ⟨rfl, rfl⟩) ?_) | (with_reducible refine canon_mbox_keep (fun _ => rfl) ?_) | (with_reducible refine canon_foldl (fun _ _ hcan => ?_) _ ?_) | with_reducible apply State.rowFault_canon | with_reducible apply canon_writeRow | with_reducible apply canon_writeRows | with_reducible apply canon_zeroTag | with_reducible apply canon_zeroBank | with_reducible apply canon_windows)

theorem State.rowReads_canon  (r : Row) (found : List RowFault) {s : State} (hcan : s.canonical = true) : (State.rowReads s r found).1.canonical = true := by
  unfold State.rowReads
  try dsimp only
  repeat' (first | with_reducible exact hcan | with_reducible assumption | split | (simp only [State.logRange_canon, modClk_canon, modShell_canon, modStr_canon, modDrw_canon, modRen_canon, modChurn_canon, modSkim_canon, modColl_canon, modReqs_canon, modRat_canon, modStw_canon, modFuses_canon, modRegs_canon, modLog_canon, modWrap_canon, modPorts_canon]) | (with_reducible refine canon_vat_keep (fun _ => ⟨rfl, rfl, rfl, rfl⟩) ?_) | (with_reducible refine canon_boot_keep (fun _ => ⟨rfl, rfl⟩) ?_) | (with_reducible refine canon_mbox_keep (fun _ => rfl) ?_) | (with_reducible refine canon_foldl (fun _ _ hcan => ?_) _ ?_) | with_reducible apply State.rowFaults_canon | with_reducible apply canon_writeRow | with_reducible apply canon_writeRows | with_reducible apply canon_zeroTag | with_reducible apply canon_zeroBank | with_reducible apply canon_windows)

theorem State.selectRow_canon  (r : Row) (found : List RowFault) {s : State} (hcan : s.canonical = true) : (State.selectRow s r found).canonical = true := by
  unfold State.selectRow
  try dsimp only
  repeat' (first | with_reducible exact hcan | with_reducible assumption | split | (simp only [State.failRow_canon, State.noWork_canon, State.endSlabs_canon, State.slabStep_canon, State.wholeRow_canon, modClk_canon, modShell_canon, modStr_canon, modDrw_canon, modRen_canon, modChurn_canon, modSkim_canon, modColl_canon, modReqs_canon, modRat_canon, modStw_canon, modFuses_canon, modRegs_canon, modLog_canon, modWrap_canon, modPorts_canon]) | (with_reducible refine canon_vat_keep (fun _ => ⟨rfl, rfl, rfl, rfl⟩) ?_) | (with_reducible refine canon_boot_keep (fun _ => ⟨rfl, rfl⟩) ?_) | (with_reducible refine canon_mbox_keep (fun _ => rfl) ?_) | (with_reducible refine canon_foldl (fun _ _ hcan => ?_) _ ?_) | with_reducible apply State.rowReads_canon | with_reducible apply canon_writeRow | with_reducible apply canon_writeRows | with_reducible apply canon_zeroTag | with_reducible apply canon_zeroBank | with_reducible apply canon_windows)

theorem State.initDone_canon  (u : Nat) {s : State} (hcan : s.canonical = true) : (State.initDone s u).canonical = true := by
  unfold State.initDone
  try dsimp only
  repeat' (first | with_reducible exact hcan | with_reducible assumption | split | (simp only [State.modUnit_canon, State.powerAnswers_canon, modClk_canon, modShell_canon, modStr_canon, modDrw_canon, modRen_canon, modChurn_canon, modSkim_canon, modColl_canon, modReqs_canon, modRat_canon, modStw_canon, modFuses_canon, modRegs_canon, modLog_canon, modWrap_canon, modPorts_canon]) | (with_reducible refine canon_vat_keep (fun _ => ⟨rfl, rfl, rfl, rfl⟩) ?_) | (with_reducible refine canon_boot_keep (fun _ => ⟨rfl, rfl⟩) ?_) | (with_reducible refine canon_mbox_keep (fun _ => rfl) ?_) | (with_reducible refine canon_foldl (fun _ _ hcan => ?_) _ ?_) | with_reducible apply canon_writeRow | with_reducible apply canon_writeRows | with_reducible apply canon_zeroTag | with_reducible apply canon_zeroBank | with_reducible apply canon_windows)

theorem State.underReset_canon (c : Bool) (s : State) : (s.underReset c).canonical = true := rfl

theorem State.sramInit_canon (ue : Option Word) (badLog : List Nat) {s : State} (h : s.canonical = true) : (s.sramInit ue badLog).canonical = true := by
  unfold State.sramInit
  split
  · simp only [State.bootFail_canon, State.bootRestart_canon]; exact h
  · rw [State.awaitImage_canon]
    refine canon_parts.2 ⟨?_, rfl, rfl, rfl⟩
    have hv := canon_of_vat h
    split <;> exact hv

theorem State.stagingWrite_canon  (offset : Nat) (data : List Byte) {s : State} (hcan : s.canonical = true) : (State.stagingWrite s offset data).canonical = true := by
  unfold State.stagingWrite
  try dsimp only
  repeat' (first | with_reducible exact hcan | with_reducible assumption | split | (simp only [State.dropAccess_canon, State.dropStaging_canon, modClk_canon, modShell_canon, modStr_canon, modDrw_canon, modRen_canon, modChurn_canon, modSkim_canon, modColl_canon, modReqs_canon, modRat_canon, modStw_canon, modFuses_canon, modRegs_canon, modLog_canon, modWrap_canon, modPorts_canon]) | (with_reducible refine canon_vat_keep (fun _ => ⟨rfl, rfl, rfl, rfl⟩) ?_) | (with_reducible refine canon_boot_keep (fun _ => ⟨rfl, rfl⟩) ?_) | (with_reducible refine canon_mbox_keep (fun _ => rfl) ?_) | (with_reducible refine canon_foldl (fun _ _ hcan => ?_) _ ?_) | with_reducible apply canon_writeRow | with_reducible apply canon_writeRows | with_reducible apply canon_zeroTag | with_reducible apply canon_zeroBank | with_reducible apply canon_windows)

theorem wf_copySegments (img : List Byte) (t : Nat) : Memory.wf (copySegments img t) = true := by
  unfold copySegments
  dsimp only
  generalize (List.range (leAt (img.take 512) 21 1)).map (fun i => segmentAt (img.take 512) i) = xs
  have : ∀ m : Memory, m.wf = true → Memory.wf (xs.foldl (fun m g => if g.target = t then Memory.writeRun g.load (slice img g.off g.len) m else m) m) = true := by
    induction xs with
    | nil => exact fun m h => h
    | cons x r ih =>
      intro m h
      refine ih _ ?_
      dsimp only
      split
      · exact Memory.wf_writeRun _ _ h
      · exact h
  exact this [] rfl

theorem State.load_canon {s : State} (h : s.canonical = true) : s.load.canonical = true := by
  obtain ⟨h1, h2, -, -⟩ := canon_parts.1 h
  exact canon_parts.2 ⟨h1, h2, wf_copySegments _ _, wf_copySegments _ _⟩

theorem State.bufferReads_canon  (w : Window) (first : Nat) (rows : Nat) (found : Checks) {s : State} (hcan : s.canonical = true) : (State.bufferReads s w first rows found).canonical = true := by
  unfold State.bufferReads
  try dsimp only
  repeat' (first | with_reducible exact hcan | with_reducible assumption | split | (simp only [modClk_canon, modShell_canon, modStr_canon, modDrw_canon, modRen_canon, modChurn_canon, modSkim_canon, modColl_canon, modReqs_canon, modRat_canon, modStw_canon, modFuses_canon, modRegs_canon, modLog_canon, modWrap_canon, modPorts_canon]) | (with_reducible refine canon_vat_keep (fun _ => ⟨rfl, rfl, rfl, rfl⟩) ?_) | (with_reducible refine canon_boot_keep (fun _ => ⟨rfl, rfl⟩) ?_) | (with_reducible refine canon_mbox_keep (fun _ => rfl) ?_) | (with_reducible refine canon_foldl (fun _ _ hcan => ?_) _ ?_) | with_reducible apply State.rowRead_canon | with_reducible apply canon_writeRow | with_reducible apply canon_writeRows | with_reducible apply canon_zeroTag | with_reducible apply canon_zeroBank | with_reducible apply canon_windows)

theorem State.sampleBuffer_canon  (found : Checks) (n : Nat) (first : Nat) {s : State} (hcan : s.canonical = true) : (State.sampleBuffer s found n first).canonical = true := by
  unfold State.sampleBuffer
  try dsimp only
  repeat' (first | with_reducible exact hcan | with_reducible assumption | split | (simp only [State.logErr_canon, State.takeMessage_canon, modClk_canon, modShell_canon, modStr_canon, modDrw_canon, modRen_canon, modChurn_canon, modSkim_canon, modColl_canon, modReqs_canon, modRat_canon, modStw_canon, modFuses_canon, modRegs_canon, modLog_canon, modWrap_canon, modPorts_canon]) | (with_reducible refine canon_vat_keep (fun _ => ⟨rfl, rfl, rfl, rfl⟩) ?_) | (with_reducible refine canon_boot_keep (fun _ => ⟨rfl, rfl⟩) ?_) | (with_reducible refine canon_mbox_keep (fun _ => rfl) ?_) | (with_reducible refine canon_foldl (fun _ _ hcan => ?_) _ ?_) | with_reducible apply State.bufferReads_canon | with_reducible apply canon_writeRow | with_reducible apply canon_writeRows | with_reducible apply canon_zeroTag | with_reducible apply canon_zeroBank | with_reducible apply canon_windows)

theorem State.sampleAll_canon  (found : Checks) {s : State} (hcan : s.canonical = true) : (State.sampleAll s found).canonical = true := by
  unfold State.sampleAll
  try dsimp only
  repeat' (first | with_reducible exact hcan | with_reducible assumption | split | (simp only [modClk_canon, modShell_canon, modStr_canon, modDrw_canon, modRen_canon, modChurn_canon, modSkim_canon, modColl_canon, modReqs_canon, modRat_canon, modStw_canon, modFuses_canon, modRegs_canon, modLog_canon, modWrap_canon, modPorts_canon]) | (with_reducible refine canon_vat_keep (fun _ => ⟨rfl, rfl, rfl, rfl⟩) ?_) | (with_reducible refine canon_boot_keep (fun _ => ⟨rfl, rfl⟩) ?_) | (with_reducible refine canon_mbox_keep (fun _ => rfl) ?_) | (with_reducible refine canon_foldl (fun _ _ hcan => ?_) _ ?_) | with_reducible apply State.sampleBuffer_canon | with_reducible apply canon_writeRow | with_reducible apply canon_writeRows | with_reducible apply canon_zeroTag | with_reducible apply canon_zeroBank | with_reducible apply canon_windows)

theorem State.collTick_canon  (f : Shape) (found : Checks) {s : State} (hcan : s.canonical = true) : (State.collTick s f found).canonical = true := by
  unfold State.collTick
  try dsimp only
  repeat' (first | with_reducible exact hcan | with_reducible assumption | split | (simp only [State.gatherAll_canon, State.dryParts_canon, State.retryWaits_canon, modClk_canon, modShell_canon, modStr_canon, modDrw_canon, modRen_canon, modChurn_canon, modSkim_canon, modColl_canon, modReqs_canon, modRat_canon, modStw_canon, modFuses_canon, modRegs_canon, modLog_canon, modWrap_canon, modPorts_canon]) | (with_reducible refine canon_vat_keep (fun _ => ⟨rfl, rfl, rfl, rfl⟩) ?_) | (with_reducible refine canon_boot_keep (fun _ => ⟨rfl, rfl⟩) ?_) | (with_reducible refine canon_mbox_keep (fun _ => rfl) ?_) | (with_reducible refine canon_foldl (fun _ _ hcan => ?_) _ ?_) | with_reducible apply State.sampleAll_canon | with_reducible apply canon_writeRow | with_reducible apply canon_writeRows | with_reducible apply canon_zeroTag | with_reducible apply canon_zeroBank | with_reducible apply canon_windows)

theorem State.hostRegWrite_canon  (o : Nat) (size : Nat) (value : BitVec 64) {s : State} (hcan : s.canonical = true) : (State.hostRegWrite s o size value).canonical = true := by
  unfold State.hostRegWrite
  try dsimp only
  repeat' (first | with_reducible exact hcan | with_reducible assumption | split | (simp only [State.dropAccess_canon, State.regPower_canon, State.regWrite_canon, modClk_canon, modShell_canon, modStr_canon, modDrw_canon, modRen_canon, modChurn_canon, modSkim_canon, modColl_canon, modReqs_canon, modRat_canon, modStw_canon, modFuses_canon, modRegs_canon, modLog_canon, modWrap_canon, modPorts_canon]) | (with_reducible refine canon_vat_keep (fun _ => ⟨rfl, rfl, rfl, rfl⟩) ?_) | (with_reducible refine canon_boot_keep (fun _ => ⟨rfl, rfl⟩) ?_) | (with_reducible refine canon_mbox_keep (fun _ => rfl) ?_) | (with_reducible refine canon_foldl (fun _ _ hcan => ?_) _ ?_) | with_reducible apply State.windowWrite_canon | with_reducible apply State.stagingWrite_canon | with_reducible apply canon_writeRow | with_reducible apply canon_writeRows | with_reducible apply canon_zeroTag | with_reducible apply canon_zeroBank | with_reducible apply canon_windows)

theorem State.hostAct_keeps (a : HostAct) {f : State → State} {s : State} (hf : (f s).canonical = true) (h : s.canonical = true) :
    (s.hostAct a f).canonical = true := by
  unfold State.hostAct
  split
  · exact h
  · exact hf

theorem State.hostAgain_canon (a : HostAct) {s : State} (h : s.canonical = true) : (s.hostAgain a).canonical = true := by
  refine State.hostAct_keeps a ?_ h
  split
  · exact State.hostRegWrite_canon _ _ _ h
  · rw [State.regRead_canon]; exact h

theorem State.skAccess_canon  (v : Nat) {s : State} (hcan : s.canonical = true) : (State.skAccess s v).canonical = true := by
  unfold State.skAccess
  try dsimp only
  repeat' (first | with_reducible exact hcan | with_reducible assumption | split | (simp only [State.hostRestore_canon, State.skOnce_canon, modClk_canon, modShell_canon, modStr_canon, modDrw_canon, modRen_canon, modChurn_canon, modSkim_canon, modColl_canon, modReqs_canon, modRat_canon, modStw_canon, modFuses_canon, modRegs_canon, modLog_canon, modWrap_canon, modPorts_canon]) | (with_reducible refine canon_vat_keep (fun _ => ⟨rfl, rfl, rfl, rfl⟩) ?_) | (with_reducible refine canon_boot_keep (fun _ => ⟨rfl, rfl⟩) ?_) | (with_reducible refine canon_mbox_keep (fun _ => rfl) ?_) | (with_reducible refine canon_foldl (fun _ _ hcan => ?_) _ ?_) | with_reducible apply State.hostAgain_canon | with_reducible apply canon_writeRow | with_reducible apply canon_writeRows | with_reducible apply canon_zeroTag | with_reducible apply canon_zeroBank | with_reducible apply canon_windows)

end Sys2Proof.Machine
end

