-- ==== Sys2Proof/Laws/Units.lean ====
section
/-! SUPPORT. How many units and contexts the block has never changes, and a change of one unit changes that unit alone. -/

set_option Elab.async false

namespace Sys2Proof.Machine

/-- Whatever a list of parts hides, the numbers of banks, strainers and contexts stay in sight. -/
theorem State.counted_of_hide {l : List StateUnit} {s t : State} (h : t.hide l = s.hide l) (hs : s.counted) : t.counted := by
  have h1 := congrArg (fun x : State => x.vat.banks.length) h
  have h2 := congrArg (fun x : State => x.str.units.length) h
  have h3 := congrArg (fun x : State => x.mbox.ctxs.length) h
  have e1 : ∀ x : State, (x.hide l).vat.banks.length = x.vat.banks.length := fun x => by
    unfold State.hide Vat.hide
    by_cases hv : StateUnit.vat ∈ l
    · simp only [if_pos hv, List.length_map]
    · simp only [if_neg hv]
  have e2 : ∀ x : State, (x.hide l).str.units.length = x.str.units.length := fun x => by
    unfold State.hide Strainers.hide
    by_cases hv : StateUnit.str ∈ l
    · simp only [if_pos hv, List.length_map]
    · simp only [if_neg hv]
  have e3 : ∀ x : State, (x.hide l).mbox.ctxs.length = x.mbox.ctxs.length := fun x => by
    unfold State.hide Mailbox.hide
    by_cases hv : StateUnit.mbox ∈ l
    · simp only [if_pos hv, List.length_map]
    · simp only [if_neg hv]
  simp only [e1, e2, e3] at h1 h2 h3
  exact ⟨h1.trans hs.1, h2.trans hs.2.1, h3.trans hs.2.2⟩

theorem State.modUnit_unit {s : State} (h : s.counted) {u : Nat} (hu : u < 80) (f : PowerUnit → PowerUnit) :
    (s.modUnit u f).unit u = (s.unit u).marked s.clk.ctl (f (s.unit u)) := by
  unfold State.modUnit State.unit
  by_cases h1 : u < 64
  · simp only [if_pos h1, State.modVat_vat]
    rw [lmod_getD, if_pos ⟨rfl, by rw [h.1]; exact h1⟩]
  · simp only [if_neg h1, State.modStr_str]
    rw [lmod_getD, if_pos ⟨rfl, by rw [h.2.1]; omega⟩]

theorem State.modUnit_other {s : State} {u j : Nat} (hj : j ≠ u) (f : PowerUnit → PowerUnit) : (s.modUnit u f).unit j = s.unit j := by
  unfold State.modUnit State.unit
  by_cases h1 : u < 64
  · simp only [if_pos h1, State.modVat_vat, State.modVat_str]
    by_cases h2 : j < 64
    · rw [if_pos h2, if_pos h2, lmod_getD, if_neg (fun e => hj e.1.symm)]
    · rw [if_neg h2, if_neg h2]
  · simp only [if_neg h1, State.modStr_vat, State.modStr_str]
    by_cases h2 : j < 64
    · rw [if_pos h2, if_pos h2]
    · rw [if_neg h2, if_neg h2, lmod_getD, if_neg (fun e => hj (by omega))]

/-- A unit is read from the banks and the strainers alone. -/
theorem State.unit_of {s t : State} (h1 : t.vat.banks = s.vat.banks) (h2 : t.str.units = s.str.units) (u : Nat) : t.unit u = s.unit u := by
  unfold State.unit; rw [h1, h2]

theorem State.powerAnswers_vat (s : State) : s.powerAnswers.vat = s.vat := by
  have := congrArg State.vat (State.powerAnswers_hide (hid := [.skim, .mbox, .ports]) (by decide) (by decide) (by decide) s); exact this

theorem State.powerAnswers_str (s : State) : s.powerAnswers.str = s.str := by
  have := congrArg State.str (State.powerAnswers_hide (hid := [.skim, .mbox, .ports]) (by decide) (by decide) (by decide) s); exact this

@[simp] theorem State.powerAnswers_unit (s : State) (u : Nat) : s.powerAnswers.unit u = s.unit u :=
  State.unit_of (congrArg Vat.banks s.powerAnswers_vat) (congrArg Strainers.units s.powerAnswers_str) u

@[simp] theorem State.at_unit (t : Time) (s : State) (u : Nat) : (s.at t).unit u = s.unit u := rfl

@[simp] theorem State.logErr_unit (s : State) (code : Nat) (slot : Option Nat) (d0 d1 d2 u : Nat) : (s.logErr code slot d0 d1 d2).unit u = s.unit u := by
  unfold State.logErr State.logAt; dsimp only; split <;> rfl

end Sys2Proof.Machine
end

