-- ==== Sys2Proof/WellFormed.lean ====
section
/-! DEFINITION. Which commands are well formed: every operand that is a plain number fits the field that carries it
(Tables 14-7 to 14-13, 15-1, Table 1-4), and every number that counts units stays within the units there are. -/

namespace Sys2Proof

/-- A number that fits a field of some bits. -/
def fits (bits n : Nat) : Bool := decide (n < 2 ^ bits)

/-- A shape whose fields fit SET_STEP_SHAPE's body. -/
def ShapeFields.wf (f : ShapeFields) : Bool :=
  fits 32 f.stepLen && fits 32 f.manDeadline && fits 32 f.ingestEnd && fits 32 f.shardBase && fits 32 f.shardLen && fits 16 f.slots
    && fits 16 f.groupSize && fits 8 f.xallow && fits 8 f.feedWidth && fits 8 f.draftRows && fits 8 f.format

/-- An area entry whose fields fit SET_VAT_PLAN's entries. -/
def AreaFields.wf (a : AreaFields) : Bool := fits 8 a.area && fits 8 a.use && fits 8 a.firstBank && fits 8 a.nbanks && fits 32 a.rows

/-- A digit of a pass: pass numbers are 1 to 3 (Table 5-2). -/
def Digit.wf : Digit → Bool
  | .key p => decide (1 ≤ p) && decide (p ≤ 3)
  | .key32 p => decide (1 ≤ p) && decide (p ≤ 3)
  | _ => true

/-- A row pass within the 64-bit order values of R79, with the digit's prefix below 32 bits (R107). -/
def PassReq.wf (r : PassReq) : Bool :=
  r.digit.wf && fits 32 r.prefixV && decide (r.lo ≤ r.hi) && decide (r.hi ≤ 2 ^ 64) && decide (r.excl.length ≤ 3)

/-- A find that names a part or store there is (R115, R194, R195, R409). -/
def RowFault.wf : RowFault → Bool
  | .rowCe _ => true
  | .rowUe _ => true
  | .tagParity _ => true
  | .strainerUe _ part => decide (part < 3)
  | .storeUe store _ => decide (store < 3)
  | .maskCe cache _ => decide (cache < 2)
  | .maskUe cache _ => decide (cache < 2)

/-- A row position: nine main rows and eight draft rows at most (R171). -/
def posnWf (posn : Nat) : Bool := decide (posn ≤ 16)

/-- Whether a command is well formed. -/
def Instr.wf : Instr → Bool
  | .stepStart _ => true
  | .freeze _ => true
  | .maskCutoff _ => true
  | .manifestRead _ _ _ => true
  | .tokenPortRead _ _ _ _ => true
  | .headerBeat _ _ => true
  | .dataBeat _ _ => true
  | .ingestDeadline _ => true
  | .stretch _ => true
  | .frequencyChange _ mhz => decide (1 ≤ mhz) && decide (mhz ≤ 1500)
  | .manifestEntryWrite _ _ _ _ => true
  | .manifestBuild _ => true
  | .inboundWrite _ _ _ _ => true
  | .scrubVisit _ _ _ => true
  | .writeBack _ _ => true
  | .writeBackDrop _ _ => true
  | .bankAckRise _ _ => true
  | .bankInitDone _ _ => true
  | .bankDrainDone _ _ => true
  | .bankAckFall _ _ => true
  | .ackTimeout _ unit => decide (unit < 80)
  | .strainerAckRise _ _ => true
  | .strainerInitDone _ _ => true
  | .strainerReleased _ _ => true
  | .strainerAckFall _ _ => true
  | .floorUpdate _ _ posn _ counted => posnWf posn && decide (counted ≤ 1048576)
  | .listSelectionDone _ _ posn found => posnWf posn && found.all RowFault.wf
  | .extendBlock _ _ posn => posnWf posn
  | .extendBlockDone _ _ work => posnWf work.posn && work.found.all RowFault.wf
  | .rowPass _ _ posn r => posnWf posn && r.wf
  | .rowPassDone _ _ work => posnWf work.posn && work.found.all RowFault.wf
  | .draw _ _ found => found.all RowFault.wf
  | .verify _ _ found => found.all RowFault.wf
  | .commit _ _ => true
  | .skimCommit _ _ => true
  | .consumerPoll _ _ => true
  | .consumerReadDone _ _ _ => true
  | .collectiveTick _ _ => true
  | .messageSend _ => true
  | .roundTimeout _ _ posn _ => posnWf posn
  | .prefetch _ => true
  | .maskFillDone _ _ _ _ => true
  | .prefetchTune _ _ => true
  | .bufferTaken _ _ _ _ => true
  | .laneSwitch _ _ => true
  | .vocabFillDone _ _ line _ => fits 25 line
  | .partitionRetune _ => true
  | .recordMoveDone _ _ _ => true
  | .epochCorrection _ => true
  | .doneWordPoll _ => true
  | .doneWordReadDone _ _ _ => true
  | .ladle _ role _ _ => decide (role < 4)
  | .logWrite _ => true
  | .watchdogExpiry _ core => decide (core < 5)
  | .unhandledTrap _ core _ _ => decide (core < 5)
  | .coreFailover _ => true
  | .clockLoss _ domain => decide (domain ≤ 4)
  | .cellarError _ _ cls => decide (cls ≤ 5)
  | .coldReset _ => true
  | .warmReset _ => true
  | .resetRelease t => decide (1 ≤ t.upTo) && decide (t.upTo ≤ 9)
  | .selftestDone _ _ => true
  | .sramInitDone _ _ bad => bad.all (fun i => decide (i < 32768))
  | .authDone _ => true
  | .loadDone _ => true
  | .ready _ => true
  | .fwInitTimeout _ => true
  | .go _ _ => true
  | .clear _ _ => true
  | .repairData _ _ => true
  | .stagingWindowWrite _ offset data => fits 20 offset && decide (data.length ≤ 1048576)
  | .commandWindowWrite _ offset data => fits 20 offset && decide (data.length ≤ 1048576)
  | .doorbell _ _ _ => true
  | .vatPwr _ _ _ => true
  | .strPwr _ _ => true
  | .errStatus _ _ => true
  | .readClear _ read => fits 22 read.offset && decide (1 ≤ read.size) && decide (read.size ≤ 8)
  | .tsLo _ => true
  | .registerWrite _ offset size _ => fits 22 offset && decide (1 ≤ size) && decide (size ≤ 8)
  | .fuseSvn _ _ => true
  | .fuseKeyrev _ _ => true
  | .fuseWriteDone _ => true
  | .wirUpdate _ _ => true
  | .wrapperReset _ => true
  | .skReg _ _ => true
  | .skMbist _ _ => true
  | .mbistDone _ _ _ => true
  | .mbistCapture _ => true
  | .ringConsumerReadDone _ _ _ => true
  | .identify _ _ => true
  | .attach _ _ _ _ _ _ => true
  | .detach _ _ _ => true
  | .readLog _ _ _ _ _ => true
  | .readBootReport _ _ => true
  | .admitRequest _ _ _ _ _ _ _ _ _ _ _ => true
  | .cancelRequest _ _ _ => true
  | .readRequest _ _ _ _ => true
  | .setGrammar _ _ _ _ _ => true
  | .postDrafts _ _ _ _ count tokens => fits 8 count && decide (tokens.length = 8)
  | .encodeOpen _ _ customer _ => fits 16 customer
  | .appendInput _ _ _ _ _ _ _ => true
  | .encodeClose _ _ _ => true
  | .setStepShape _ _ f => f.wf
  | .setHomeSlots _ _ first count => fits 16 first && fits 16 count
  | .setCustomer _ _ customer pool _ weight iw rate burst =>
    fits 16 customer && fits 8 pool && fits 16 weight && fits 16 iw && fits 32 rate && fits 32 burst
  | .setPool _ _ pool weight turn => fits 8 pool && fits 16 weight && fits 16 turn
  | .readCustomer _ _ customer => fits 16 customer
  | .setVatPlan _ _ areas => fits 8 areas.length && areas.all AreaFields.wf
  | .setPower _ _ _ _ => true
  | .openWindow _ _ die area role firstRow length peer =>
    fits 16 die && fits 8 area && fits 8 role && fits 32 firstRow && fits 32 length && fits 16 peer
  | .closeWindow _ _ window => fits 8 window
  | .setCollective _ _ blen _ => fits 32 blen
  | .loadLogitProgram _ _ prog _ => fits 16 prog
  | .loadBiasList _ _ list nent _ => fits 16 list && fits 32 nent
  | .loadVocab _ _ vidx len _ _ => fits 8 vidx && fits 32 len
  | .releaseVocab _ _ vidx => fits 8 vidx
  | .setVocabPartition _ _ _ masks map => decide (masks.length = 16) && decide (map.length = 256) && map.all (fun p => decide (p < 16))
  | .loadGrammar _ _ _ len _ _ => fits 32 len
  | .releaseGrammar _ _ _ => true
  | .loadStopSet _ _ index _ len _ => fits 16 index && fits 32 len
  | .releaseStopSet _ _ index => fits 16 index
  | .setAdapterPool _ _ _ rslots log2g eventCtx slotBytes _ _ => fits 16 rslots && fits 8 log2g && fits 8 eventCtx && fits 32 slotBytes
  | .powerLoss _ => true
  | .ringConsumerPoll _ _ => true
  | .privateSramError _ core => decide (core < 5)
  | .clockRunsAgain _ domain => decide (domain ≤ 4)
  | .entryReport _ _ _ => true

end Sys2Proof
end

