-- ==== Sys2Proof/Tests/Slice0.lean ====
section
/-! SUPPORT. Tests: what the well-formedness check refuses, the manual's own worked examples, and for every statement that has
hypotheses a witness that they can be met, named after it. -/

set_option Elab.async false

namespace Sys2Proof.Tests
open Sys2Proof Sys2Proof.Machine

/-! ### States and operands -/

/-- No time has passed. -/
def t0 : Time := ⟨0, 0, 0, 0⟩

/-- A command of context 0. -/
def b0 : Sender := ⟨0, 7⟩

/-- READY, every domain out of reset, context 0 ATTACHED with a ring of 16 entries. -/
def on : State :=
  { clk := { inReset := 0, alive := 0x3F, rstDone := true, coldLow := false, cold := false }
    boot := { stage := 8, running := true, roles := (List.range 5).map some, passed := 0x1F }
    mbox := { ctxs := { attached := true, ring := 0x10000, cidxAddr := 0x8000 } :: List.replicate 255 {} } }

/-- The same in skim mode, with a counter of 3. -/
def skim : State := { on with boot := { on.boot with stage := 9, running := false, fcount := 3 } }

/-- A shape of four slots in one group each, and a buffer under it. -/
def shp : Shape :=
  { stepLen := 100000, manDeadline := 98000, ingestEnd := 60000, xallow := 64, slots := 4, groupSize := 1, feedWidth := 2, draftRows := 0
    shardBase := 0, shardLen := 2048, format := 4 }

def buf (n : Nat) : Buffer := { step := n, shape := shp }

/-- Step 5 in flight, step 6 being built, nothing frozen. -/
def run : State :=
  { on with shell := { current := some (buf 5), serving := some (buf 5), building := some (buf 6), step := 5, started := true } }

/-- The same with the freeze made. -/
def frozen : State := { run with shell := { run.shell with serving := some (buf 6), building := some (buf 7), frozen := true } }

theorem on_free : on.ringFree 0 := ⟨rfl, rfl, by decide +kernel, rfl⟩

theorem on_serves (op : Nat) : on.serves b0 op := ⟨rfl, rfl, rfl, rfl⟩

theorem skim_serves : skim.skimAnswers b0 := ⟨rfl, rfl, rfl⟩

theorem skim_free : skim.ringFree 0 := ⟨rfl, rfl, by decide +kernel, rfl⟩

/-! ### Witnesses: the machine as a whole -/

theorem witness_StepRunsFront : State.reset.pending = [] := rfl

theorem witness_StepKeepsCanonical : State.reset.canonical = true ∧ step State.reset = .next State.reset := ⟨by decide +kernel, rfl⟩

theorem witness_StepKeepsUnitCounts : State.reset.counted ∧ step State.reset = .next State.reset :=
  ⟨⟨List.length_replicate, List.length_replicate, List.length_replicate⟩, rfl⟩

theorem witness_StepsOnlyBurnFuses : ∃ u, step { on with pending := [.fuseWriteDone t0] } = .next u := ⟨_, rfl⟩

theorem witness_SkimModeLeft :
    skim.heldInSkim ∧ (∃ u, step { skim with pending := [.stretch t0] } = .next u)
      ∧ (∃ u, exec (.clear t0 0xA5C30002) skim = .next u ∧ u.boot.fcount = 0)
      ∧ (∃ s : State, s.boot.stage = 1 ∧ s.boot.halt = false ∧ 3 ≤ s.boot.fcount ∧ passing 0x10 ≠ [])
      ∧ ∃ s : State, s.boot.stage = 1 ∧ s.boot.halt = false ∧ s.boot.fcount = 0 ∧ 4 ≤ (passing 0x0F).length :=
  ⟨⟨⟨by decide, Or.inr (Or.inr rfl), rfl⟩, fun x h => nomatch h⟩, ⟨_, rfl⟩, ⟨_, rfl, by decide +kernel⟩, ⟨{ boot := { stage := 1, fcount := 3 } }, by decide⟩,
    ⟨{ boot := { stage := 1 } }, by decide⟩⟩

/-! ### Witnesses: the mailbox commands -/

theorem witness_ShapeCommandsAnswered : on.ringFree b0.ctx.toNat ∧ on.serves b0 opSetStepShape ∧ on.serves b0 opSetHomeSlots :=
  ⟨on_free, on_serves _, on_serves _⟩

/-- READY with customer 5 configured, which no request uses. -/
def cust : State := { on with rat := { on.rat with customers := [(5, { pool := 0, weight := 1, rate := 0, burst := 0, iw := 0, hard := false, level := 0 })] } }

theorem witness_CustomerCommandsAnswered :
    cust.ringFree b0.ctx.toNat ∧ cust.serves b0 opSetCustomer ∧ (5 : Nat) ≤ 16383 ∧ (tget 5 cust.rat.customers).isSome ∧ cust.serves b0 opSetPool
      ∧ cust.serves b0 opReadCustomer :=
  ⟨⟨rfl, rfl, by decide +kernel, rfl⟩, ⟨rfl, rfl, rfl, rfl⟩, by decide, rfl, ⟨rfl, rfl, rfl, rfl⟩, ⟨rfl, rfl, rfl, rfl⟩⟩

theorem witness_VatAndPoolCommandsAnswered :
    on.ringFree b0.ctx.toNat ∧ on.serves b0 opSetVatPlan ∧ on.serves b0 opOpenWindow ∧ (63 : Nat) < on.vat.windows.length
      ∧ on.serves b0 opCloseWindow ∧ on.serves b0 opSetCollective ∧ on.serves b0 opSetAdapterPool :=
  ⟨on_free, on_serves _, on_serves _, by decide, on_serves _, on_serves _, on_serves _⟩

/-- One bias entry: token 3, ADD, 1.0. -/
def biasBytes : List Byte := leBytes 8 (3 + 0x3F800000 * 2 ^ 32)

/-- A stop set of one string, "ab", cut before it. -/
def stopBytes : List Byte := leBytes 4 1 ++ leBytes 4 2 ++ leBytes 4 2 ++ [0x61, 0x62]

theorem witness_DrawAndStopStoresAnswered :
    on.ringFree b0.ctx.toNat ∧ on.serves b0 opLoadLogitProgram ∧ on.serves b0 opLoadBiasList
      ∧ ((biasListOf 1 biasBytes).isSome = true ∧ on.listBound 4095 = false ∧ on.drw.otherEntries 4095 + 1 ≤ Config.biasEntries)
      ∧ on.serves b0 opLoadStopSet ∧ (tget 4095 on.skim.sets = none ∧ ∃ x, stopSetOf 14 stopBytes = some x ∧ on.skim.roomFor x = true)
      ∧ on.serves b0 opReleaseStopSet :=
  ⟨on_free, on_serves _, on_serves _, by decide +kernel, on_serves _, ⟨rfl, ⟨[([0x61, 0x62], false)], 3, 2⟩, by decide +kernel, by decide +kernel⟩, on_serves _⟩

theorem witness_ReportsAndSkimRefusals :
    on.ringFree b0.ctx.toNat ∧ on.serves b0 opIdentify ∧ on.serves b0 opReadBootReport ∧ on.serves b0 opReadLog
      ∧ skim.ringFree b0.ctx.toNat ∧ skim.skimAnswers b0 ∧ mailOf (.setPool t0 b0 0 1 0) = some (b0, opSetPool) ∧ opSkim opSetPool = false :=
  ⟨on_free, on_serves _, on_serves _, on_serves _, skim_free, skim_serves, rfl, by decide +kernel⟩

/-- ATTACH of DETACHED context 1, and in ATTACHED context 0. -/
theorem witness_AttachAnswered :
    on.fw = true ∧ on.boot.stage = 8 ∧ on.roleUp (opRole opAttach) = true
      ∧ (∀ b ∈ [b0, ⟨1, 7⟩], b.ctx.toNat < on.mbox.ctxs.length ∧ on.mbox.detaches.all (fun d => d.ctx.toNat != b.ctx.toNat) = true)
      ∧ (7 : Byte).toNat < 8 ∧ (on.ctx 0).attached = true ∧ on.ringFree 0 ∧ (on.ctx 1).attached = false :=
  ⟨rfl, rfl, rfl, by decide +kernel, by decide, rfl, on_free, rfl⟩

theorem witness_DetachAnswered : on.ringFree b0.ctx.toNat ∧ on.serves b0 opDetach ∧ skim.ringFree b0.ctx.toNat ∧ skim.skimAnswers b0 :=
  ⟨on_free, on_serves _, skim_free, skim_serves⟩

theorem witness_RequestCommandsAnswered :
    on.ringFree b0.ctx.toNat ∧ on.serves b0 opCancelRequest ∧ on.serves b0 opReadRequest ∧ on.serves b0 opSetGrammar
      ∧ draftWordsClear 1 (5 :: List.replicate 7 0) = true ∧ on.serves b0 opPostDrafts :=
  ⟨on_free, on_serves _, on_serves _, on_serves _, by decide +kernel, on_serves _⟩

theorem witness_AdmitRequestAnswered : on.ringFree b0.ctx.toNat ∧ on.serves b0 opAdmitRequest := ⟨on_free, on_serves _⟩

/-- READY with an encode job of generation 1 in context 0. -/
def jobs : State := { on with churn := { on.churn with streams := [(0, { job := some (1, 5), opts := {} })] } }

theorem witness_StreamCommandsAnswered :
    jobs.ringFree b0.ctx.toNat ∧ jobs.serves b0 opEncodeOpen ∧ jobs.serves b0 opAppendInput
      ∧ ((0x0D : Byte).toNat < 16 ∧ bit (0x0D : Byte).toNat 0 = true ∧ bit (0x0D : Byte).toNat 1 = false)
      ∧ (jobs.jobOf 0x10000 = some 0 ∧ tget 0 jobs.churn.streams = some { job := some (1, 5), opts := {} })
      ∧ ((1 ≤ (0 : Word).toNat ∨ bit (0x0D : Byte).toNat 2 = true) ∧ (16777216 : Word).toNat ≤ 16777216)
      ∧ jobs.serves b0 opEncodeClose :=
  ⟨⟨rfl, rfl, by decide +kernel, rfl⟩, ⟨rfl, rfl, rfl, rfl⟩, ⟨rfl, rfl, rfl, rfl⟩, by decide, by decide +kernel, by decide, ⟨rfl, rfl, rfl, rfl⟩⟩

/-! ### Witnesses: power and the vat -/

/-- Bank 63 in a power state, its request and acknowledge at values given; strainer 15 alike. -/
def powered (st : Power) (req ack release : Bool) : State :=
  { on with
    vat := { on.vat with banks := List.replicate 63 {} ++ [{ st := st, want := true, req := req, ack := ack }] }
    str := { on.str with units := List.replicate 15 {} ++ [{ st := st, want := true, req := req, ack := ack, release := release }] } }

theorem witness_UnitPowerCycles :
    (∀ st req ack r, (powered st req ack r).counted ∧ (powered st req ack r).canonical = true)
      ∧ (∀ n ∈ [63, 79], (powered .goingOn true true false).unit n = { st := .goingOn, want := true, req := true, ack := true }
        ∧ (powered .goingOff true true false).unit n = { st := .goingOff, want := true, req := true, ack := true }
        ∧ (powered .goingOff false true false).unit n = { st := .goingOff, want := true, req := false, ack := true }
        ∧ (powered .on true true false).unit n = { st := .on, want := true, req := true, ack := true } ∧ n < 80)
      ∧ ((powered .on true true true).unit 79).release = true := by
  refine ⟨fun st req ack r => ⟨⟨rfl, rfl, (by decide +kernel : on.mbox.ctxs.length = 256)⟩, rfl⟩, by decide +kernel, by decide +kernel⟩

theorem witness_PowerRequestsApplied :
    on.counted ∧ on.inRst 4 = false ∧ on.boot.stage = 8 ∧ on.boot.halt = false ∧ on.ringFree b0.ctx.toNat ∧ on.serves b0 opSetPower ∧ on.clk.power = none :=
  ⟨⟨List.length_replicate, List.length_replicate, by decide +kernel⟩, by decide, rfl, rfl, on_free, on_serves _, rfl⟩

/-- The vat of the manual's worked example: rows 5 and 1,000 of bank 0 mapped out. -/
def mapped : Vat := { mapOut := [5, 1000] }

theorem witness_GoodIndexNumbersGoodRows :
    mapped.mapOut.Pairwise (· < ·) ∧ 0 ∉ mapped.dead ∧ 2045 < mapped.goodRows 0 ∧ (2047 : Nat) / 2048 = 0 ∧ 2047 ∉ mapped.mapOut := by decide +kernel

theorem witness_AreaRowsDistinct :
    mapped.mapOut.Pairwise (· < ·) ∧ 0 < 8 ∧ 16367 < mapped.capacity 0 8 ∧ 0 < mapped.capacity 0 8 := by decide +kernel

/-- Window 63 open on 16 rows of a WINDOW area of bank 0, which is ON. -/
def wins : State :=
  { on with vat := { on.vat with
      banks := { st := .on, want := true, req := true, ack := true } :: List.replicate 63 {}
      plan := [⟨4, 4, 0, 1, 2048⟩]
      windows := List.replicate 63 {} ++ [{ st := .opened, stamp := 0x401, opens := 1, die := 1, area := 4, firstRow := 0, length := 16, role := 1, banks := [0] }] } }

theorem witness_InboundWriteDecided :
    wins.canonical = true ∧ wins.inRst 1 = false
      ∧ wins.vat.inboundResp (BitVec.ofNat 64 (0x401 * 2 ^ 38 + 63 * 2 ^ 32 + 15 * 128 + 64)) false = 0
      ∧ wins.vat.inboundResp (BitVec.ofNat 64 (0x402 * 2 ^ 38 + 63 * 2 ^ 32)) false = 1
      ∧ wins.vat.inboundResp (BitVec.ofNat 64 (0x401 * 2 ^ 38 + 63 * 2 ^ 32 + 16 * 128)) false = 1
      ∧ wins.vat.inboundResp (BitVec.ofNat 64 (0x401 * 2 ^ 38 + 63 * 2 ^ 32)) true = 3
      ∧ inboundWindow (BitVec.ofNat 64 (0x402 * 2 ^ 38 + 63 * 2 ^ 32)) < wins.vat.windows.length := by decide +kernel

theorem witness_ScrubAndWriteBack :
    wins.canonical = true ∧ wins.vat.bankOn (0 : BitVec 6).toNat = true ∧ 0 < wins.vat.goodRows 0 ∧ (0 : Nat) < wins.vat.scrub.length
      ∧ (let s := { wins with vat := { wins.vat with writeBacks := [⟨2047, 100⟩] } }
        s.vat.waitingBack (2047 : BitVec 17).toNat = some 100 ∧ max s.clk.eng 164 ≤ 100 + 64 ∧ s.vat.bankOn ((2047 : BitVec 17).toNat / 2048) = true
          ∧ 100 + 64 ≤ max s.clk.eng 164) := by decide +kernel

/-! ### Witnesses: registers, boot, test access -/

theorem witness_RegisterReadsAndErrorCapture :
    on.inRst 4 = false ∧ on.inRst 2 = false ∧ (∀ o ∈ [0x028, 0x030, 0x08C, 0x10008 + 16 * 255], o % 4 = 0) ∧ 255 < on.mbox.ctxs.length ∧ 0x0C1 % 4 ≠ 0
      ∧ (({} : Regs).errCycle ≠ 5 ∨ ({} : Regs).errCand = none) ∧ on.regs.errCand = none
      ∧ (let s := on.logErr errCellarError none 0 0 0; s.regs.errCand.isSome = true ∧ s.regs.errCycle = max s.clk.ctl t0.ctl ∧ s.regs.errCycle ≠ 9) := by
  decide +kernel

theorem witness_FusesAndWrapper :
    (skim.inRst 2 = false ∧ skim.fuseOpen = true ∧ skim.fuses.writing = none) ∧ on.fuseOpen = false
      ∧ (∀ w : Nat × Nat, ({ skim with fuses := { skim.fuses with writing := some w } } : State).fuses.writing = some w)
      ∧ (let s := { on with wrap := { wir := 3 } }; s.wrapperSel = 3 ∧ s.inRst 2 = false ∧ bit (0 : BitVec 64).toNat 0 = false ∧ (s.at t0).hostFirst.isNone = true)
      ∧ (let s := { State.reset with wrap := { wir := 3 } }; s.wrapperSel = 3 ∧ s.inRst 2 = true ∧ (s.at t0).hostFirst.isNone = true)
      ∧ (let s := { State.reset with wrap := { wir := 4 } }
        s.wrapperSel = 4 ∧ bit (1 : Word).toNat 0 = true ∧ (s.clk.coldLow || s.clk.warmLow) = true ∧ s.wrap.running = false)
      ∧ ({ State.reset with wrap := { wir := 4, running := true } } : State).wrap.running = true :=
  ⟨by decide +kernel, by decide +kernel, fun _ => rfl, by decide +kernel, by decide +kernel, by decide +kernel, rfl⟩

theorem witness_DoorbellTakesCommands :
    on.counted ∧ on.inRst 4 = false ∧ on.inRst 2 = false ∧ on.duty 0 = true
      ∧ skim.counted ∧ skim.inRst 4 = false ∧ skim.inRst 2 = false ∧ skim.skimServes = true
      ∧ (∀ s ∈ [on, skim], (4 + 65536 - (s.ctx 0).taken) % 65536 + (s.ctx 0).unanswered ≤ 8 ∧ 8 < (9 + 65536 - (s.ctx 0).taken) % 65536 + (s.ctx 0).unanswered)
      ∧ (let s : State := { on with boot := { on.boot with failedRole := some (0, 0, 1) } }; s.fw = true ∧ s.boot.stage = 8 ∧ s.roleUp 0 = false) :=
  ⟨⟨List.length_replicate, List.length_replicate, by decide +kernel⟩, by decide, by decide, rfl,
    ⟨List.length_replicate, List.length_replicate, by decide +kernel⟩, by decide, by decide, rfl, by decide +kernel, rfl, rfl, rfl⟩

theorem witness_WindowAndIntakeWrites :
    on.canonical = true ∧ on.inRst 4 = false ∧ slotWriteOk (4096 * 255 + 256 * 7 + 252) 4 = true ∧ on.boot.stage ≠ 9
      ∧ 1048572 % 4 = 0 ∧ 4 % 4 = 0 ∧ 1048572 + 4 ≤ 1048576 := by decide +kernel

theorem witness_BootControlWrites :
    on.inRst 4 = false ∧ on.inRst 2 = false
      ∧ (∀ v ∈ [0xA5C30003, 0xA5C30001, 0xA5C30002], bits v 16 16 = 0xA5C3 ∧ bits v 2 14 = 0)
      ∧ bit (0xA5C30001 : Word).toNat 0 = true ∧ bit (0xA5C30002 : Word).toNat 1 = true ∧ bit (0xA5C30002 : Word).toNat 0 = false
      ∧ ({ on with boot := { stage := 4 } } : State).boot.stage = 4 ∧ ({ on with boot := { stage := 4 } } : State).boot.halt = false
      ∧ on.boot.stage ≠ 4 ∧ ({ on with boot := { stage := 4, halt := true } } : State).boot.halt = true
      ∧ bits (0x00000001 : Word).toNat 16 16 ≠ 0xA5C3 ∧ bits (0xA5C38001 : Word).toNat 2 14 ≠ 0 := by decide +kernel

theorem witness_RegisterWritesAct :
    on.inRst 4 = false ∧ on.inRst 2 = false ∧ 0x0C4 ∈ [0x000, 0x0C4]
      ∧ ∀ p ∈ [(0x0C1, 4), (0x000, 8), (0x040, 2), (0x0C8, 4), (0xFFC, 4)], p.1 < 0x1000
        ∧ (p.1 % 4 ≠ 0 ∨ (p.2 ≠ 4 ∧ (p.2 ≠ 8 ∨ p.1 ≠ 0x040)) ∨ (0x0C8 ≤ p.1 ∧ p.2 = 4)) := by decide +kernel

theorem witness_ResetsKeepAndLose :
    (on.clk.cold && !on.clk.rstDone) = false ∧ (State.reset.clk.cold && !State.reset.clk.rstDone) = true
      ∧ (State.reset.clk.coldLow || State.reset.clk.warmLow) = true := by decide

theorem witness_EarlyBootStages :
    (∀ n ∈ [1, 3, 5], ({ boot := { stage := n } } : State).boot.halt = false ∧ ({ boot := { stage := n } } : State).boot.stage = n)
      ∧ 4 ≤ (passing 0x1E).length ∧ passing 0 = [] ∧ ({ boot := { stage := 1, bip := true } } : State).boot.bip = true := by decide

theorem witness_LateBootStages :
    (let s : State := { boot := { stage := 6 } }; s.boot.stage = 6 ∧ s.boot.halt = false)
      ∧ (let s : State := { boot := { stage := 7, running := true } }; s.boot.stage = 7 ∧ s.fw = true ∧ s.boot.halt = false) := by decide

theorem witness_CoreFailuresHandled :
    on.fw = true ∧ on.boot.stage = 8 ∧ bit on.clk.alive.toNat 2 = true ∧ on.boot.roles.findIdx? (fun r => r == some 3) = some 3
      ∧ on.boot.failedRole = none ∧ (on.boot.roles.getD 4 none).isSome = true
      ∧ (let s : State := { on with boot := { on.boot with roles := [some 0, some 1, some 2, some 4, none] } }
        s.fw = true ∧ s.boot.roles.findIdx? (fun r => r == some 4) = some 3 ∧ (s.boot.roles.getD 4 none).isSome = false)
      ∧ (let s : State := { on with boot := { on.boot with stage := 7 } }; s.fw = true ∧ s.boot.stage = 7)
      ∧ (let s : State := { on with boot := { on.boot with roles := [some 0, some 1, some 2, none, some 4], failedRole := some (3, 3, 1) } }
        s.fw = true ∧ s.boot.failedRole = some (3, 3, 1) ∧ s.boot.roles.getD 4 none = some 4) := by decide

theorem witness_ClockAndCellarEvents :
    (∀ d ∈ [1, 2, 4], 1 ≤ d ∧ d ≤ 4 ∧ on.inRst d = false ∧ bit on.clk.alive.toNat d = true)
      ∧ (let s : State := { on with clk := { on.clk with alive := 0x3B } }; bit s.clk.alive.toNat 2 = false ∧ bit s.clk.alive.toNat 4 = true)
      ∧ on.inRst 3 = false := by decide

/-- The log's writer has one request, or has lost three with room for more. -/
theorem witness_LogWriterWrites :
    ∀ l ∈ [({ pending := [{ time := 1, code := errReset }] } : Log), { lost := 3, wrote := some 0 }],
      let s := { on with log := l }
      s.inRst 2 = false ∧ bit s.clk.alive.toNat 2 = true ∧ s.roleUp 0 = true ∧ (s.log.wrote = none ∨ s.log.wrote = some 0 ∧ 0 + 8 ≤ max s.clk.ctl 8)
        ∧ (s.log.pending ≠ [] ∨ 0 < s.log.lost) ∧ s.log.pending.length ≤ Config.logPending := by decide +kernel

/-! ### Witnesses: the shell -/

theorem witness_StepsBegin :
    on.shell.serving = none
      ∧ (let s : State := { on with shell := { serving := some (buf 1), building := some (buf 2) } }; s.shell.serving = some (buf 1) ∧ s.shell.current = none)
      ∧ (frozen.shell.serving = some (buf 6) ∧ frozen.shell.current = some (buf 5) ∧ frozen.shell.frozen = true ∧ frozen.shell.groups = [])
      ∧ (shp.stepLen ≤ max frozen.clk.fab 99936 + shp.xallow ∧ shp.stepLen + shp.xallow < max frozen.clk.fab 100065
        ∧ max frozen.clk.fab 99935 + shp.xallow < shp.stepLen)
      ∧ (run.shell.serving = some (buf 5) ∧ run.shell.current = some (buf 5) ∧ run.shell.frozen = false ∧ run.shell.building = some (buf 6)) := by decide

theorem witness_FreezeOpensDefaults :
    run.shell.building = some (buf 6) ∧ run.shapeNow = some shp ∧ run.shell.started = true ∧ run.shell.frozen = false
      ∧ shp.manDeadline ≤ max run.clk.fab 98000 ∧ max run.clk.fab 97999 < shp.manDeadline ∧ run.shell.held = [] ∧ (run.rounds.isSome && run.fw) = false
      ∧ frozen.shell.frozen = true ∧ run.shell.serving.isSome = true ∧ run.shell.current.isSome = true ∧ on.shell.building = none
      ∧ (buf 6).early = false ∧ ∀ c ∈ (buf 6).cells, c.1 ≠ 3 := by decide

/-- A manifest entry of step 6, LIVE. -/
def word6 : BitVec 512 := BitVec.ofNat 512 (1 + 1 * 2 ^ 8 + 0x10000 * 2 ^ 64 + 6 * 2 ^ 160)

/-- The same for step 7. -/
def word7 : BitVec 512 := BitVec.ofNat 512 (1 + 1 * 2 ^ 8 + 0x10000 * 2 ^ 64 + 7 * 2 ^ 160)

/-- Request 1 in slot 0, LIVE in step 5 with one token fed; this SK9 homes all four slots. -/
def req1 : Request := { handle := 0x10000, st := .slotted, slot := some 0, pos := 3, last := some 9, maxOut := 100, maxPos := 100 }

def cell0 : Nat × Entry × TokRecord := (0, { kind := .live, feed := 1, req := 0x10000, pos := 3, tok0 := 9, step := 5 }, { req := 0x10000, step := 5 })

def live : State :=
  { run with
    shell := { run.shell with current := some { buf 5 with cells := [cell0] }, serving := some { buf 5 with cells := [cell0] } }
    reqs := { table := [(0, req1)], home := (0, 4) } }

theorem witness_EntryWritesTaken :
    run.fw = true ∧ (entryOf word6.toNat).map (fun e => e.step) = some 6 ∧ run.shapeNow = some shp ∧ run.shell.building = some (buf 6)
      ∧ (3 : BitVec 12).toNat < (buf 6).shape.slots ∧ run.homed 3 = false ∧ live.outcomeKnown 3 = true ∧ run.shell.held = [] ∧ run.shell.frozen = false
      ∧ (entryOf word7.toNat).map (fun e => e.step) = some 7 ∧ shp.manDeadline + 8 ≤ max frozen.clk.fab 98008
      ∧ (let s : State := { frozen with shell := { frozen.shell with held := [(3, word7, 0)] } }
        s.shell.held = [(3, word7, 0)] ∧ s.shell.building = some (buf 7))
      ∧ frozen.shell.frozen = true ∧ max frozen.clk.fab 98007 < shp.manDeadline + 8
      ∧ live.homed 0 = true ∧ live.outcomeKnown 0 = false := by decide +kernel

theorem witness_ProgramReads :
    State.reset.readBuffer = none ∧ skim.readBuffer = none ∧ run.readBuffer = some (buf 5) ∧ (4 : BitVec 12).toNat = shp.slots ∧ (3 : BitVec 12).toNat < shp.slots
      ∧ (run.at t0).inGuard = false ∧ (run.at ⟨97936, 0, 0, 0⟩).inGuard = true ∧ (run.at ⟨98063, 0, 0, 0⟩).inGuard = true ∧ eccFatal .uncorrectable = true
      ∧ run.shapeNow = some shp ∧ (frozen.readBuffer = some (buf 6) ∧ (buf 6).step ≠ frozen.shell.step ∧ (frozen.at ⟨98000, 0, 0, 0⟩).inGuard = true)
      ∧ (live.readBuffer = live.shell.current ∧ (live.entry 0).kind = .live ∧ live.reqs.settled.contains 0 = false ∧ live.dryOf 0 = none) := by decide +kernel

/-- A header of group 0, position 0, all 2,048 entries of one byte, in two beats. -/
def hdr0 : BitVec 512 :=
  BitVec.ofNat 512 (withCrc64 (1 + 4 * 2 ^ 8 + 5 * 2 ^ 32 + 1 * 2 ^ 64 + 2048 * 2 ^ 128 + 2048 * 2 ^ 160))

theorem witness_HeaderBeatsQueued :
    State.reset.inRst 0 = true ∧ on.inRst 0 = false ∧ on.ingests = none ∧ live.ingests = some shp
      ∧ (let h : PendingHeader := { hdr := headerOf hdr0.toNat }
        256 ≤ ({ live with shell := { live.shell with headers := List.replicate 256 h } } : State).shell.headers.length)
      ∧ live.shell.headers.length < 256 ∧ shp.ingestEnd + shp.xallow < max live.clk.fab 60065 ∧ max live.clk.fab 60064 ≤ shp.ingestEnd + shp.xallow
      ∧ (({ live with shell := { live.shell with groups := [{ num := 0, dropped := true }] } } : State).group 0).dropped = true
      ∧ (live.group (headerOf hdr0.toNat).group).dropped = false ∧ live.headerCheck shp hdr0.toNat = 0 ∧ live.headerCheck shp 0 ≠ 0
      ∧ (0 ∈ groupSlots shp 0 ∧ (live.entry 0).kind = .live ∧ live.reqs.settled.contains 0 = false ∧ live.dryOf 0 = none) := by decide +kernel

/-- The second beat of that tile is due, its rows in the RAW area of banks 0 to 7. -/
def beat1 : State :=
  { live with
    vat := { live.vat with plan := [⟨1, 1, 0, 8, 2048⟩] }
    shell := { live.shell with
      headers := [{ hdr := headerOf hdr0.toNat, beats := 1, tile := some 0 }]
      tiles := [{ num := 0, step := 5, group := 0, draft := false, posn := 0, chunkFirst := 0, chunkLen := 2048, area := 1, firstRow := 0, rows := 16, kept := [0] }] } }

theorem witness_DataBeatsStored :
    State.reset.inRst 0 = true ∧ on.inRst 0 = false ∧ on.ingests = none ∧ live.ingests = some shp ∧ live.shell.headers = []
      ∧ (∃ x, beat1.shell.headers = [x] ∧ x.refused = false ∧ x.beats ≠ 0 ∧ x.tile = some 0 ∧ x.beats + 1 = x.hdr.beats ∧ (beat1.group x.hdr.group).dropped = false)
      ∧ max beat1.clk.fab 60064 ≤ shp.ingestEnd + shp.xallow ∧ shp.ingestEnd + shp.xallow < max beat1.clk.fab 60065
      ∧ (∃ T, beat1.shell.tiles.find? (fun y => y.num == 0) = some T ∧ beat1.tileArea T = some ⟨1, 1, 0, 8, 2048⟩
        ∧ beat1.vat.rangeOk ⟨1, 1, 0, 8, 2048⟩ T.firstRow T.rows = true)
      ∧ Memory.wf beat1.vat.mem = true ∧ ({ beat1 with str := { beat1.str with usable := 1, units := [{ st := .on }] } } : State).dealable ≠ [] :=
  ⟨by decide, by decide, rfl, rfl, rfl, ⟨_, rfl, rfl, by decide, rfl, by decide +kernel, rfl⟩, by decide, by decide, ⟨_, rfl, rfl, by decide +kernel⟩, rfl, by decide +kernel⟩

theorem witness_DeadlineDecides :
    live.ingests = some shp ∧ ({ live with shell := { live.shell with deadline := true } } : State).shell.deadline = true
      ∧ max live.clk.fab 60063 < shp.ingestEnd + shp.xallow ∧ live.shell.deadline = false ∧ shp.ingestEnd + shp.xallow ≤ max live.clk.fab 60064
      ∧ (0 < shp.slots / shp.groupSize ∧ 0 < shp.feedWidth ∧ (live.group 0).dropped = false ∧ live.keptSlots shp 0 false 0 ≠ []
        ∧ (live.position 0 false 0).landed < shp.shardLen ∧ (live.entry 0).kind = .live ∧ live.reqs.settled.contains 0 = false)
      ∧ (∀ g < shp.slots / shp.groupSize, ∀ draft, ∀ posn < (if draft then shp.draftRows else shp.feedWidth), run.keptSlots shp g draft posn = []) := by
  decide +kernel

theorem witness_BuildAndCutoff :
    run.fw = true ∧ run.boot.stage = 8 ∧ run.shell.frozen = false ∧ run.shell.building = some (buf 6) ∧ run.reqs.nextHome = none ∧ run.reqs.home.2 = 0
      ∧ (let s : State := { run with reqs := { home := (0, 4) } }
        s.reqs.nextHome = none ∧ s.reqs.table = [] ∧ s.rounds = none ∧ s.shell.held = [] ∧ (buf 6).step = s.shell.step + 1 ∧ s.reqs.home.1 ≤ 3
          ∧ 3 < s.reqs.home.1 + s.reqs.home.2 ∧ 3 < (buf 6).shape.slots)
      ∧ run.shapeNow = some shp ∧ run.shell.cutoff = false ∧ shp.manDeadline ≤ max run.clk.fab 96976 + 1024
      ∧ max run.clk.fab 96975 + 1024 < shp.manDeadline := by decide +kernel

/-! ### Witnesses: rows, draws and commits -/

/-- `shp` with a shard of four entries. -/
def tsh : Shape := { shp with shardLen := 4 }

/-- A row of slot 0 at position 0 in strainer 0. -/
def row0 (st : RowStage) : Row :=
  { step := 5, slot := 0, posn := 0, group := 0, draft := false, tposn := 0, req := 0x10000, shape := tsh, team := [0], k := 1, stage := st
    members := [{ strainer := 0 }] }

/-- The row's one tile, landed. -/
def tile0 : Tile :=
  { num := 0, step := 5, group := 0, draft := false, posn := 0, chunkFirst := 0, chunkLen := 4, area := 1, firstRow := 0, rows := 1, written := 1
    kept := [0], landed := true }

/-- A vocabulary of the 256 bytes with a trie of its root alone. -/
def vocab : Vocab :=
  { mode := 2, vocabId := 0, maxTok := 1, nclass := 1, defClass := 0, pairBits := 0, secs := [512, 2560, 3072, 4096, 4096, 4096, 4096, 4096]
    runMax := List.replicate 16 0, boundary := List.replicate 16 0, toks := (List.range 256).map (fun i => ⟨i, [BitVec.ofNat 8 i], false, false, true, false⟩)
    byteTok := (List.range 256).map (BitVec.ofNat 24), specials := [], ranges := [], nodes := [⟨tokNone, 0, 0⟩], edges := [], pairs := [] }

/-- Step 5 with that row and tile, rows of rank k asked for; banks 0 to 15 are ON, a RAW area lies in 0 to 7, and where `work` a
WORK area in 8 to 15. -/
def land (work : Bool) (k : Nat) (r : Row) : State :=
  { live with
    vat := { live.vat with
      plan := ⟨1, 1, 0, 8, 2048⟩ :: (if work then [⟨5, 5, 8, 8, 2048⟩] else [])
      banks := List.replicate 16 { st := .on, want := true, req := true, ack := true } ++ List.replicate 48 {} }
    churn := { live.churn with vocabs := [(0, vocab)] }
    str := { live.str with rows := [r] }
    reqs := { table := [(0, { req1 with sampling := { topk := k } })], home := (0, 4) }
    shell := { live.shell with tiles := [tile0], positions := [{ group := 0, draft := false, posn := 0, covered := 4, landed := 4 }], current := some { buf 5 with shape := tsh, cells := [cell0] } } }

/-- The row, its first pass begun. -/
def row1 (st : RowStage) : Row := { row0 st with begun := true }

theorem witness_FloorsAndSurvivors :
    let s := land true 1 (row1 .landing)
    s.row 1 0 = none ∧ s.row (0 : BitVec 12).toNat 0 = some (row1 .landing) ∧ (row1 .landing).team.idxOf? (0 : BitVec 4).toNat = some 0
      ∧ (row1 .landing).members.find? (fun y => y.strainer == (0 : BitVec 4).toNat) = some { strainer := 0 }
      ∧ (row1 .landing).begun = true ∧ retainedK (row1 .landing).k = false ∧ (row1 .landing).slab = none ∧ (s.memberEntries (row1 .landing) 0).length = 4
      ∧ (land true 1 (row0 .landing)).row (0 : BitVec 12).toNat 0 = some (row0 .landing) ∧ (row0 .landing).begun = false := by
  decide +kernel

theorem witness_RowsSelected :
    let s := land true 1 (row1 .landing)
    s.row (0 : BitVec 12).toNat 0 = some (row1 .landing) ∧ (row1 .landing).slot = (0 : BitVec 12).toNat ∧ (row1 .landing).posn = 0
      ∧ (row1 .landing).slab = none ∧ s.rowDue (row1 .landing) = true ∧ (land true 1 (row0 .landing)).rowDue (row0 .landing) = false
      ∧ (s.reqOfSlot 0).isSome = true ∧ (s.roundsAt 5).isNone = true
      ∧ [RowFault.rowUe 0].any RowFault.fatal = true ∧ [RowFault.rowCe 0].any RowFault.fatal = false
      ∧ (∀ T ∈ s.rowTiles (row1 .landing), s.tileUp T = true ∧ s.tileInArea T = true) ∧ s.partnerLost (row1 .landing) = false
      ∧ s.dryOf 0 = none ∧ retainedK (s.rowK 0 []) = false
      ∧ (∀ w, retainedK ((land w 0 (row1 .landing)).rowK 0 []) = true ∧ (land w 0 (row1 .landing)).hasWork = w) := by
  decide +kernel

/-- A collective configuration of two dies, this one die 1, its child (where it has one) die 2 on window 0. -/
def cfg (parent : Nat) (child : Bool) : CollConfig :=
  { die := 1, rowset := 2, parent := parent, d := 2, ds := 2, height := if child then 1 else 0, fmax := 1, rechecks := 4, np := 0, ownDown := 1
    ownHome := 2, ownRoot := 3, hopNs := 100, nb := 1, parentAddr := (0x401, 0), rootAddr := (0x402, 2), selBudget := 1000, firstStep := 1
    children := if child then [(2, 0)] else [], spread := [], homes := [] }

/-- A row pass. -/
def passQ : PassReq := ⟨.key 1, 0, 0, 16, false, none, 0, []⟩

/-- The retained row with work asked for. -/
def rowAsks (w : RowWork) : Row := { row1 .retained with asks := [{ work := w, order := 0, running := true }] }

/-- Rounds run, and this die is their root, or not. -/
def rounds (root : Bool) (s : State) : State :=
  { s with coll := { s.coll with config := some (cfg (if root then 0xFFFF else 0) false) } }

theorem witness_RetainedRowWork :
    (let s := land true 0 (row1 .retained)
     s.row (0 : BitVec 12).toNat 0 = some (row1 .retained) ∧ (row1 .retained).stage = .retained ∧ (s.roundsAt 5).isNone = true ∧ s.hasWork = true
       ∧ (row1 .retained).slab = none ∧ (∀ q ∈ s.str.rows, q.asks = [] ∧ (q.slot = (row1 .retained).slot → q.posn = (row1 .retained).posn → q = row1 .retained)) ∧ (∀ T ∈ s.rowTiles (row1 .retained), s.tileUp T = true ∧ s.tileInArea T = true)
       ∧ s.dryOf 0 = none ∧ (row1 .retained).asks.any (fun a => a.work == .pass passQ) = false
       ∧ (row1 .retained).passes.any (fun p => p.1 == passQ) = false)
      ∧ (∀ b, ((rounds b (land true 0 (row1 .retained))).roundsAt 5).map (fun c => decide (c.parent = 0xFFFF)) = some b)
      ∧ (∀ w, (land true 0 (rowAsks w)).row 0 0 = some (rowAsks w))
      ∧ (rowAsks (.block 3)).asks.findSome? (fun a => match a.work with | .block n => if a.running then some (a.order, n) else none | .pass _ => none)
          = some (0, 3)
      ∧ (rowAsks (.pass passQ)).asks.findSome? (fun a => match a.work with | .pass q => if a.running then some (a.order, q) else none | .block _ => none)
          = some (0, passQ)
      ∧ (rowAsks (.pass passQ)).asks.any (fun a => a.work == .pass passQ) = true
      ∧ (land true 0 { row1 .retained with passes := [(passQ, [])] }).row 0 0 = some { row1 .retained with passes := [(passQ, [])] }
      ∧ (land false 0 (row1 .retained)).hasWork = false ∧ ((land false 0 (row1 .retained)).roundsAt 5).isNone = true
      ∧ (land false 0 (row1 .retained)).row 0 0 = some (row1 .retained) :=
  ⟨by decide +kernel, by decide +kernel, fun _ => rfl, rfl, rfl, by decide +kernel, by decide +kernel, by decide +kernel, by decide +kernel, by decide +kernel⟩

/-- A merged selection of slot 0's request, of one entry of token 7. -/
def sel0 (step posn k dry valid : Nat) : Sel :=
  { step := step, slot := 0, posn := posn, k := k
    merged := some { list := [⟨0xBF800000, 7⟩], res := { valid := valid, lmax := 0xBF800000, count := 1 }, dryCause := dry, req := 0x10000 } }

def drawn (l : List Sel) : State := { land true 1 (row0 .retained) with coll := { live.coll with sels := l } }

/-- A grammar of one state, whose key for class 0 is good, damaged, or absent, with one successor: itself. -/
def gram (good : Bool) : Grammar :=
  { handle := 0x10000, vocabId := 0, vocabLen := 256, start := 0, nsym := 0, nclass := 0, maxSucc := 64, nmaps := 1, nchunks := 0, condLen := 0, succLen := 4
    secs := [], ends := [], states := [⟨0, 0, 0, 0, 0⟩], trans := [], klass := List.replicate 256 0
    keys := [⟨0, true, false, false, true, 0, 1, 0, 0, 0, 0, good⟩], conds := [], succs := [(0, 0)], maps := [List.replicate 256 0xFFFF], chunks := [], pinned := 2 }

/-- A merged selection of a row set whose walks chose token 7, or none; the slot's request is bound to a grammar that does not know the
token where `bad`. -/
def walked (some_ bad : Bool) (tries : Nat) : State :=
  let x := { sel0 5 0 0 0 0 with tries := tries, merged := (sel0 5 0 0 0 0).merged.map (fun p => { p with res := { p.res with count := if some_ then 1 else 0 } }) }
  let s := rounds true (drawn [x])
  if bad then { s with ren := { s.ren with images := [(0, gram true)] }, reqs := { s.reqs with table := s.reqs.table.map (fun p => (p.1, { p.2 with grammar := some 0x10000, gstate := some { state := 0 } })) } } else s

theorem witness_DrawsDecide :
    live.reqOfSlot (3 : BitVec 12).toNat = none
      ∧ (∀ l, (drawn l).reqOfSlot (0 : BitVec 12).toNat = some { req1 with sampling := { topk := 1 } }) ∧ (drawn []).mergedSel 0 0x10000 (fun _ => true) = none
      ∧ (let s := drawn [sel0 5 0 1 0 1]
        s.drawDue 0 { req1 with sampling := { topk := 1 } } = true ∧ (∃ p, s.mergedSel 0 0x10000 (fun _ => true) = some (sel0 5 0 1 0 1, p) ∧ p.dryCause = 0)
          ∧ s.dryOf 0 = none ∧ s.lateDrafts (sel0 5 0 1 0 1) = false ∧ retainedK 1 = false ∧ s.sel 5 0 0 = some (sel0 5 0 1 0 1)
          ∧ (s.entry 0).kind = .live ∧ s.reqs.settled.contains 0 = false)
      ∧ (∃ x p, (drawn [sel0 5 0 1 dryRowEcc 1]).mergedSel 0 0x10000 (fun _ => true) = some (x, p) ∧ p.dryCause ≠ 0)
      ∧ (drawn [sel0 4 0 1 0 1, sel0 4 2 1 0 1]).lateDrafts (sel0 4 2 1 0 1) = true
      ∧ (let s := drawn [sel0 5 0 0 0 0]
        (∃ p, s.mergedSel 0 0x10000 (fun _ => true) = some (sel0 5 0 0 0 0, p) ∧ p.dryCause = 0 ∧ (s.walkRow (row0 .retained) p.res).toBool = true)
          ∧ s.retained 0 0 = some (row0 .retained) ∧ retainedK 0 = true ∧ (s.roundsAt 5).isNone = true)
      ∧ (∀ b ∈ [RowFault.fatal (.rowUe 0), !RowFault.fatal (.rowCe 0)], b = true) :=
  ⟨rfl, fun _ => rfl, rfl, ⟨by decide +kernel, ⟨_, rfl, rfl⟩, by decide +kernel⟩, ⟨_, _, rfl, by decide⟩, by decide +kernel, ⟨⟨_, rfl, rfl, by decide +kernel⟩, by decide +kernel⟩,
    by decide⟩

/-- Draws of a row set: an entry that the walk of the grammar accepts or rejects, with rechecks left or none, or no entry. -/
theorem witness_ShardedDraw :
    (∀ a b : Bool, ∀ n ∈ [0, 4], let s := walked a b n
      s.drawDue 0 ((s.reqOfSlot 0).getD req1) = true ∧ (s.mergedSel 0 0x10000 (fun _ => true)).map (fun y => (y.1.k, y.1.tries, y.2.dryCause, y.2.drawn.map (fun e => e.id.toNat)))
          = some (0, n, 0, if a then [7] else [])
        ∧ s.dryOf 0 = none ∧ (s.reqOfSlot 0).isSome = true ∧ s.coll.sels.all (fun x => !s.lateDrafts x) = true ∧ s.roundsAt 5 = some (cfg 0xFFFF false) ∧ s.shapeNow = some tsh
        ∧ s.recheckMax 5 = 4 ∧ (s.resolve 0 [] 7).isNone = b) := by
  decide +kernel

/-- Slot 0 speculative in step 5: token 9 and draft 8 fed, both positions' results at the home. -/
def specced (work : Bool) : State :=
  { land work 1 (row0 .landing) with
    shell := { live.shell with
      current := some { buf 5 with shape := tsh, cells :=
        [(0, { kind := .live, spec := true, feed := 2, req := 0x10000, pos := 3, tok0 := 9, step := 5 }, { toks := 8 :: List.replicate 7 tokNone, req := 0x10000, step := 5 })] } }
    coll := { live.coll with sels := [sel0 5 0 1 0 1, sel0 5 1 1 0 1] } }

/-- Slot 0's request in these states. -/
def reqK : Request := { req1 with sampling := { topk := 1 } }

theorem witness_VerificationsDecide :
    (drawn []).reqOfSlot 0 = some reqK ∧ (drawn []).shapeNow = some tsh ∧ ((drawn []).entry 0).spec = false
      ∧ ∀ w, (specced w).reqOfSlot (0 : BitVec 12).toNat = some reqK ∧ (specced w).shapeNow = some tsh ∧ ((specced w).entry 0).kind = .live
        ∧ ((specced w).entry 0).spec = true ∧ ((specced w).entry 0).req = 0x10000 ∧ (specced w).decidedSlot 0 = false ∧ (specced w).dryOf 0 = none
        ∧ 0 < ((specced w).entry 0).feed ∧ (∃ v, (specced w).verifyIn tsh 0 reqK = some v ∧ ∀ p ∈ v.main ++ v.draft, p.dryCause = 0)
        ∧ (specced w).reqs.settled.contains 0 = false ∧ (specced w).hasWork = w :=
  ⟨rfl, rfl, rfl, fun w => ⟨rfl, rfl, rfl, rfl, rfl, rfl, rfl, (by decide : 0 < 2), ⟨_, rfl, by simp [sel0]⟩, rfl, by cases w <;> rfl⟩⟩

/-- The merged result of slot 0 at its home, and what was decided for it; the slot is dry where a cause is given. -/
def met (d : List Decided) (dry : List (Nat × Nat)) (e : Entry) : State :=
  { drawn [sel0 5 0 1 0 1] with
    shell := { live.shell with dry := dry, current := some { buf 5 with shape := tsh, cells := [(0, e, { req := 0x10000, step := 5 })] } }
    reqs := { table := [(0, reqK)], home := (0, 4), decided := d } }

/-- Slot 0 LIVE with token 9 fed, or with two prompt tokens of a prompt that goes on. -/
def ent0 : Entry := { kind := .live, feed := 1, req := 0x10000, pos := 3, tok0 := 9, step := 5 }

def pre0 : Entry := { ent0 with prefill := true, feed := 2 }

theorem witness_CommitsSettle :
    on.reqOfSlot 0 = none ∧ (met [] [] ent0).fw = true ∧ (met [] [] ent0).boot.stage = 8
      ∧ (∀ d l e, (met d l e).reqOfSlot (0 : BitVec 12).toNat = some reqK ∧ (met d l e).leaderOf reqK = reqK ∧ reqK.slot = some 0
        ∧ (met d l e).reqs.settled.contains 0 = false ∧ reqK.other = none ∧ (met d l e).findReq 0x10000 = some reqK)
      ∧ ({ drawn [] with reqs := { (drawn []).reqs with settled := [0] } } : State).reqs.settled.contains 0 = true
      ∧ (drawn []).mergedSel 0 0x10000 (fun _ => true) = none ∧ (drawn []).dryOf 0 = none
      ∧ ((met [] [(0, dryRowEcc)] ent0).dryOf 0).isSome = true ∧ ((met [] [(0, dryRowEcc)] ent0).entry 0).kind = .live ∧ ((met [] [(0, dryRowEcc)] ent0).entry 0).req = 0x10000
      ∧ (∀ d ∈ [({ slot := 0, toks := [7] } : Decided), { slot := 0, toks := [7], drained := true, reason := 5 }],
        ((met [d] [] ent0).dryOf 0).isSome = false ∧ (∃ x p, (met [d] [] ent0).mergedSel 0 0x10000 (fun _ => true) = some (x, p) ∧ p.dryCause = 0)
          ∧ (met [d] [] ent0).reqs.decided.find? (fun y => y.slot == 0) = some d)
      ∧ (met [] [] ent0).commitEnd (reqK.commit 0 0 { slot := 0, toks := [7] } false) { slot := 0, toks := [7] } = 0
      ∧ (met [] [] ent0).commitEnd (reqK.commit 0 0 { slot := 0, toks := [7], reason := 5 } false) { slot := 0, toks := [7], reason := 5 } ≠ 0
      ∧ ((met [] [] pre0).rowless 0 = true ∧ (met [] [] pre0).reqs.decided = [] ∧ (∃ p, (met [] [] pre0).mergedSel 0 0x10000 (fun _ => true) = some (sel0 5 0 1 0 1, p) ∧ p.dryCause = 0)) := by
  refine ⟨rfl, rfl, rfl, fun _ _ _ => ⟨rfl, rfl, rfl, rfl, rfl, rfl⟩, rfl, rfl, rfl, rfl, rfl, rfl, ?_, by decide +kernel, by decide +kernel, by decide +kernel, rfl, ⟨_, rfl, rfl⟩⟩
  intro d hd
  exact ⟨rfl, ⟨_, _, rfl, rfl⟩, by rcases List.mem_pair.1 hd with rfl | rfl <;> rfl⟩

/-- Request 1 with a commit of one token at the skimmer. -/
def pailed (p : Pail) (drop : Bool) : State :=
  { on with
    reqs := { table := [(0, { req1 with pail := p, out := { drop := drop, tokens := true } })] }
    skim := { work := [{ req := 0x10000, toks := [(7, false, false)] }] } }

theorem witness_CommitsSkimmed :
    on.skim.takeWork 0x10000 = none ∧ State.reset.inRst 1 = true
      ∧ (∀ p, (pailed p true).inRst 1 = false ∧ (pailed p true).fw = true
        ∧ (pailed p true).skim.takeWork 0x10000 = some ({ req := 0x10000, toks := [(7, false, false)] }, {}))
      ∧ ({ pailed {} true with reqs := {} } : State).findReq 0x10000 = none
      ∧ (∀ b : Bool, ∃ r, (pailed { ended := b } true).findReq 0x10000 = some r ∧ r.pail.ended = b)
      ∧ (∃ r, (pailed {} true).findReq 0x10000 = some r ∧ r.verdict = true ∧ r.pail.spill = [] ∧ r.pail.losing = false ∧ r.st ≠ .ending
        ∧ (let m := skimText none none r.out r.pail { req := 0x10000, toks := [(7, false, false)] }
          m.stopped = false ∧ m.entries.length ≤ r.pailRoom ∧ m.entries.length = 1)) :=
  ⟨rfl, by decide, fun p => ⟨(by decide : on.inRst 1 = false), rfl, rfl⟩, rfl, fun b => ⟨_, rfl, rfl⟩, ⟨_, rfl, by decide +kernel⟩⟩

/-- A context with one response held back and an outstanding read or none. -/
def ringed (reading : Bool) : State :=
  { on with mbox := { on.mbox with ctxs := { on.ctx 0 with waiting := [⟨2, 1, 0, 0, 0, [], false⟩], reading := reading } :: List.replicate 255 {} } }

theorem witness_ConsumerWordsRead :
    (∀ b : Bool, (∃ r, (pailed { spill := [{ kind := 1 }], reading := b } true).findReq 0x10000 = some r ∧ r.pail.reading = b ∧ r.pail.spill ≠ [] ∧ r.pail.losing = false)
        ∧ (pailed { spill := [{ kind := 1 }], reading := b } true).fw = true)
      ∧ (∃ r, (pailed { reading := true, p := 3, spill := [{ kind := 1 }] } true).findReq 0x10000 = some r
        ∧ (r.pail.p + 2 ^ 32 - (0 : BitVec 64).toNat % 2 ^ 32) % 2 ^ 32 ≤ 2 ^ r.out.log2n ∧ 2 ^ r.out.log2n < (r.pail.p + 2 ^ 32 - (4 : BitVec 64).toNat % 2 ^ 32) % 2 ^ 32
        ∧ r.pail.spill.length ≤ 2 ^ r.out.log2n - (r.pail.p + 2 ^ 32 - (0 : BitVec 64).toNat % 2 ^ 32) % 2 ^ 32 ∧ r.st ≠ .ending)
      ∧ (∃ r, (pailed { reading := true, p := 64, spill := [{ kind := 1 }] } false).findReq 0x10000 = some r ∧ r.out.drop = false
        ∧ 2 ^ r.out.log2n - (r.pail.p + 2 ^ 32 - (0 : BitVec 64).toNat % 2 ^ 32) % 2 ^ 32 = 0)
      ∧ (∃ r, (pailed { reading := true, lossEntries := 1 } true).findReq 0x10000 = some r ∧ r.pail.losing = true)
      ∧ (∀ b : Bool, (0 : BitVec 8).toNat < (ringed b).mbox.ctxs.length ∧ ((ringed b).ctx 0).attached = true ∧ ((ringed b).ctx 0).waiting ≠ [] ∧ ((ringed b).ctx 0).reading = b
        ∧ ((ringed b).ctx 0).lost = 0 ∧ (ringed b).mbox.detaches = [] ∧ ((ringed b).ctx 0).waiting.length ≤ 2 ^ 4 - (((ringed b).ctx 0).p + 2 ^ 32 - 0) % 2 ^ 32
        ∧ 2 ^ ((ringed b).ctx 0).log2r < (((ringed b).ctx 0).p + 2 ^ 32 - (1 : BitVec 64).toNat % 2 ^ 32) % 2 ^ 32)
      ∧ ((on.ctx 0).attached = true ∧ (on.ctx 0).waiting = [] ∧ (on.ctx 0).lost = 0) :=
  ⟨fun b => ⟨⟨_, rfl, rfl, by simp, rfl⟩, rfl⟩, ⟨_, rfl, by decide +kernel⟩, ⟨_, rfl, by decide +kernel⟩, ⟨_, rfl, by decide +kernel⟩, by decide +kernel, rfl, rfl, rfl⟩

/-- CC1's role being taken over. -/
def taken1 : State := { on with boot := { on.boot with failedRole := some (1, 0) } }

/-- Slot 0's request leads the one of slot 1; the leader's list is merged and its token decided. -/
def paired : State :=
  let r : Request := { reqK with sampling := { topk := 1, hasPartner := true, partner := 0x10001 } }
  let o : Request := { reqK with handle := 0x10001, slot := some 1, sampling := { topk := 1, follow := true, partner := 0x10000 } }
  let m := met [{ slot := 0, toks := [7] }] [] ent0
  { m with reqs := { m.reqs with table := [(0, r), (1, o)] } }

theorem witness_PartnerCommits :
    on.duty 1 = true ∧ taken1.duty 1 = false ∧ taken1.fw = true ∧ paired.duty 1 = true
      ∧ (∃ r o d x p, paired.reqOfSlot (0 : BitVec 12).toNat = some r ∧ paired.leaderOf r = r ∧ r.slot = some 0 ∧ paired.reqs.settled.contains 0 = false
        ∧ paired.findReq r.handle = some r ∧ r.other = some o.handle ∧ o.handle ≠ r.handle ∧ paired.findReq o.handle = some o ∧ o.slot = some 1
        ∧ paired.dryOf 0 = none ∧ paired.dryOf 1 = none ∧ paired.mergedSel 0 r.handle (fun _ => true) = some (x, p) ∧ p.dryCause = 0
        ∧ paired.reqs.decided.find? (fun d => d.slot == 0) = some d) := by
  refine ⟨rfl, rfl, rfl, rfl, _, { reqK with handle := 0x10001, slot := some 1, sampling := { topk := 1, follow := true, partner := 0x10000 } }, _, _, _,
    rfl, rfl, rfl, rfl, rfl, rfl, by decide, rfl, rfl, rfl, rfl, rfl, rfl, rfl⟩

theorem witness_SkimAndConsumerDuties :
    taken1.duty 1 = false ∧ on.duty 1 = true ∧ on.inRst 1 = false ∧ on.skim.takeWork 0x10000 = none
      ∧ (∀ p b, (pailed p b).duty 1 = true) ∧ (pailed { reading := true } true).fw = true ∧ State.reset.fw = false
      ∧ (∀ b, ((ringed b).duty 0 || (ringed b).skimServes) = true)
      ∧ (let s := { ringed true with boot := { on.boot with failedRole := some (0, 0) } }; (s.duty 0 || s.skimServes) = false ∧ (s.ctx 0).reading = true) :=
  ⟨rfl, rfl, by decide, rfl, fun _ _ => rfl, rfl, rfl, fun b => by cases b <;> decide, by decide, by decide +kernel⟩

/-- A PARTIAL of die 2 for slot 0, with no list. -/
def part2 (step : Nat) : MsgHeader := { kind := kPartial, src := 2, step := step, slot := 0, req := 0x10000 }

/-- Step 5 under a configuration, its slot 0 with the selections given; window 0 is the UP window of die 2, its first row holds a
message, and its tag tells `n` writes. -/
def rounds5 (c : CollConfig) (sels : List Sel) (mark : Bool) (n : Byte) (h : MsgHeader) : State :=
  { land true 1 (row0 .landing) with
    vat := { (land true 1 (row0 .landing)).vat with
      plan := [⟨4, 4, 0, 1, 2048⟩, ⟨5, 5, 8, 8, 2048⟩]
      mem := Memory.writeRun 0 (leBytes 64 h.toNat) []
      tags := [(0, n)]
      windows := { st := .opened, opens := 1, die := 1, area := 4, firstRow := 0, length := 1000, role := 1, peer := 2, banks := [0], marked := if mark then [0] else [] }
        :: List.replicate 63 {} }
    shell := { (land true 1 (row0 .landing)).shell with
      current := some { buf 5 with shape := tsh, cells := cell0 :: [1, 2, 3].map (fun i => (i, { step := 5 }, { step := 5 })) } }
    coll := { config := some c, sels := sels } }

/-- This die's own part of slot 0's selection. -/
def own0 : Part := { list := [⟨0xBF800000, 7⟩], res := { valid := 1, lmax := 0xBF800000, count := 1 }, req := 0x10000 }

/-- A selection with that part alone, sent or not, its timers running from an ENG count. -/
def selOwn (sent : Bool) (tG : Nat) : Sel := { step := 5, slot := 0, posn := 0, k := 1, own := some own0, sent := sent, tG := tG }

theorem witness_CollectiveTicks :
    State.reset.inRst 1 = true ∧ on.shapeNow = none
      ∧ (∀ n ∈ [1, 2, 3], let s := rounds5 (cfg 0xFFFF true) [] true (BitVec.ofNat 8 n) (part2 5)
        s.inRst 1 = false ∧ s.shapeNow = some tsh ∧ (s.vat.windows.zipIdx.flatMap (fun p => p.1.marked.map (fun b => (p.2, b)))) = [(0, 0)]
          ∧ (∀ i < tsh.slots, (s.entry i).kind ≠ .dry ∧ s.dryOf i = none) ∧ s.coll.sels = [] ∧ s.coll.configOf 0 = some (cfg 0xFFFF true)
          ∧ bufferOf (cfg 0xFFFF true) tsh (s.vat.window 0).role 0 = some (0, 17)
          ∧ s.vat.readBuffer (s.vat.window 0) 0 17 [] = (if n = 1 then .waiting else if n = 3 then .overrun else .message (part2 5) [])
          ∧ (n = 2 → s.vat.readBuffer (s.vat.window 0) 0 17 [(0, .uncorrectable)] = .poisoned))
      ∧ (let s := rounds5 (cfg 0xFFFF true) [] true 2 (part2 6)
        s.vat.readBuffer (s.vat.window 0) 0 17 [] = .message (part2 6) [] ∧ s.shell.step < (part2 6).step)
      ∧ (let s := rounds5 (cfg 0xFFFF true) [] true 2 (part2 5)
        (part2 5).step ≤ s.shell.step ∧ s.roundsAt 5 = some (cfg 0xFFFF true) ∧ headerFault (cfg 0xFFFF true) (s.vat.window 0) (part2 5) = 0
          ∧ kindFits (s.vat.window 0).role (part2 5).kind = true ∧ s.heldReq 5 0 0 = some 0x10000 ∧ reqAgrees 0x10000 (part2 5) = true)
      ∧ (let s := rounds5 (cfg 0xFFFF true) [{ step := 5, slot := 0, posn := 0, k := 1 }] true 2 (part2 5)
        (s.sel 5 0 0).map (fun x => (x.late, x.sent, x.blk.getD 0)) = some (false, false, (part2 5).res.block) ∧ s.coll.sels.all (fun x => x.own.isNone && !x.waits) = true)
      ∧ (∀ p ∈ [0, 0xFFFF], ∀ sent : Bool, ∀ c : Bool, let s := rounds5 (cfg p c) [selOwn sent 0] false 2 (part2 5)
        (s.vat.windows.zipIdx.flatMap (fun p => p.1.marked.map (fun b => (p.2, b)))) = [] ∧ s.coll.sels = [selOwn sent 0] ∧ (selOwn sent 0).waits = false
          ∧ (selOwn sent 0).own = some own0 ∧ s.roundsAt 5 = some (cfg p c) ∧ s.dryOf 0 = none ∧ s.hasWork = true ∧ (s.reqOfSlot 0).isSome = true
          ∧ (selOwn sent 0).sent = sent ∧ (selOwn sent 0).blk = none ∧ (cfg p c).parent = p ∧ retainedK 1 = false ∧ own0.res.block = 0
          ∧ ((selOwn sent 0).awaited (cfg p c) = if c then [2] else [])) := by
  decide +kernel

/-- A message in the outbox. -/
def out1 (cls : Nat) : OutMsg := { cls := cls, step := 5, slot := 0, posn := 0, stamp := 0x401, window := 0, base := 0, cells := [(0, 0)] }

/-- The row of slot 0 has landed on a participant that homes no slot, with no mask. -/
def lateMasks : State :=
  let s := rounds5 (cfg 0 false) [{ selOwn false 1 with own := none }] false 2 (part2 5)
  { s with reqs := {}, vat := { s.vat with plan := [⟨1, 1, 0, 8, 2048⟩, ⟨5, 5, 8, 8, 2048⟩] }, coll := { s.coll with gsum := [(0, 2 ^ 59)] } }

/-- A state at an ENG time after its control tick, nothing found. -/
def ticked (s : State) (eng : Nat) : State := (s.at ⟨0, eng, 0, 0⟩).collTick tsh []

theorem witness_MessagesSent :
    on.inRst 1 = false ∧ State.reset.inRst 1 = true ∧ on.coll.outbox = [] ∧ ({ on with coll := { on.coll with outbox := [out1 3, out1 2] } } : State).coll.outbox ≠ [] := by
  decide

theorem witness_RoundsTimeOut :
    on.shapeNow = none
      ∧ (let s := rounds5 (cfg 0 true) [selOwn false 1] false 2 (part2 5)
        s.inRst 1 = false ∧ s.shapeNow = some tsh ∧ (let b := ticked s 0; b.coll.sels.find? (fun x => x.slot == 0 && x.posn == 0 && b.expired tsh .gather x) = none)
          ∧ (let b := ticked s (10 ^ 9)
            (∀ timer ∈ [RoundTimer.gather, .merged],
              b.coll.sels.find? (fun x => x.slot == (0 : BitVec 12).toNat && x.posn == 0 && b.expired tsh timer x) = some (selOwn false 1))
            ∧ b.sel 5 0 0 = some (selOwn false 1) ∧ b.roundsAt 5 = some (cfg 0 true) ∧ b.masksLate (selOwn false 1) = false ∧ b.dryOf 0 = none ∧ (cfg 0 true).parent ≠ 0xFFFF
            ∧ b.hasWork = true ∧ (selOwn false 1).awaited (cfg 0 true) = [2] ∧ b.coll.missLogged.contains (2, b.shell.step) = false
            ∧ b.coll.missLogged.contains ((b.vat.window 2).peer, b.shell.step) = false ∧ (b.entry 0).kind = .live ∧ b.reqs.settled.contains 0 = false
            ∧ (tget 2 b.coll.missing).getD (0, b.shell.step) = (0, 5)))
      ∧ (let b := ticked { rounds5 (cfg 0 true) [selOwn false 1] false 2 (part2 5) with coll := { (rounds5 (cfg 0 true) [selOwn false 1] false 2 (part2 5)).coll with missing := [(2, 7, 4)] } } (10 ^ 9)
        b.coll.sels.find? (fun x => x.slot == 0 && x.posn == 0 && b.expired tsh .gather x) = some (selOwn false 1)
          ∧ (tget 2 b.coll.missing).getD (0, b.shell.step) = (7, 4) ∧ b.shell.step = 5)
      ∧ (let x := { selOwn true 1 with walk := some { wkind := 1, digit := 0 }, hist := some [], round := 1 }
        let b := ticked (rounds5 (cfg 0 true) [x] false 2 (part2 5)) (10 ^ 9)
        b.coll.sels.find? (fun x => x.slot == 0 && x.posn == 0 && b.expired tsh .pass x) = some x ∧ b.sel 5 0 0 = some x ∧ x.passAwaited (cfg 0 true) = [2] ∧ x.round ≠ 0)
      ∧ (let x := { selOwn false 1 with own := none }
        let b := ticked lateMasks (10 ^ 9)
        b.masksLate x = true ∧ b.sel 5 0 0 = some x ∧ (cfg 0 false).children = [] ∧ x.parts = [] ∧ b.roundsAt 5 = some (cfg 0 false)
          ∧ b.hasWork = true ∧ lateMasks.shapeNow = some tsh ∧ b.dryOf 0 = none
          ∧ b.coll.sels.find? (fun x => x.slot == 0 && x.posn == 0 && b.expired tsh .gather x) = some x) := by
  decide +kernel

/-! ### Witnesses: masks, streams, records and ladles -/

/-- READY with an adapter pool, one descriptor of SEQ 0 written, and its version. -/
def gathering (reading : Bool) : State :=
  { on with stw := { on.stw with
      pool := some { library := 0, rslots := 4, log2g := 4, eventCtx := 0, slotBytes := 4096, gring := 0x20000, doneAddr := 0x30000 }
      versions := [{ handle := 0x10001, owner := 0, shared := false, bytes := 64, addr := 0, rslot := some 0 }]
      gathers := [⟨0, 0, 0x10001⟩], seq := 1, reading := reading } }

/-- CC3's role being taken over. -/
def taken3 : Boot := { on.boot with failedRole := some (3, 0) }

theorem witness_DoneWordRead :
    on.stw.pool = none ∧ on.stw.reading = false ∧ ({ gathering true with boot := taken3 } : State).duty 3 = false ∧ (∀ b, (gathering b).duty 3 = true ∧ (gathering b).stw.pool.isSome = true ∧ (gathering b).stw.reading = b ∧ (gathering b).fw = true ∧ (gathering b).stw.gathers = [⟨0, 0, 0x10001⟩])
      ∧ (⟨0, 0, 0x10001⟩ : Gather).finished ((1 : BitVec 64).toNat % 2 ^ 32) = true ∧ (0x100000001 : BitVec 64).toNat / 2 ^ 32 ≠ (gathering true).stw.fails
      ∧ [(0 : Word)].any (fun w => w.toNat == (⟨0, 0, 0x10001⟩ : Gather).seq) = true
      ∧ ((gathering true).stw.versions.find? (fun x => x.handle == (0x10001 : Handle) && x.rslot == some 0)).map (fun x => x.fails) = some 0 := by
  decide +kernel

/-- Step 5 with that grammar loaded, one read of its key outstanding, and the key used by slot 0. -/
def masks (good : Bool) (ver cls : Nat) (dead : Bool := false) : State :=
  { live with ren := { live.ren with
      images := [(0, gram good)], tune := [(0, { steps := 1024, commits := 100, hits := 97 })], reads := [⟨0, ver, .state 0 0, cls, dead⟩]
      pinnedFor := [⟨0, 5, [(0, 0, 0)], 1, 0, 2048⟩] } }

theorem witness_MasksFetchedAndTuned :
    on.ren.reads.find? (fun r => r.gidx == (0 : BitVec 12).toNat && r.kind == .map 0) = none
      ∧ (∀ g : Bool, ∀ v < 3, ∀ c < 3, (masks g v c).ren.reads.find? (fun r => r.gidx == (0 : BitVec 12).toNat && r.kind == .state 0 0) = some ⟨0, v, .state 0 0, c, false⟩)
      ∧ (masks true 1 1 true).ren.reads.find? (fun r => r.gidx == 0 && r.kind == .state 0 0) = some ⟨0, 1, .state 0 0, 1, true⟩
      ∧ tget 0 (masks true 2 1).ren.images = some (gram true) ∧ gverOf (gram true).handle = 1
      ∧ (readFault (gram false) (.state 0 0)).map (fun d => faultFails d.1) = some true ∧ readFault (gram true) (.state 0 0) = none
      ∧ on.ingests = none ∧ (masks true 1 2).ingests = some shp ∧ 0 < shp.slots ∧ ((masks true 1 2).entry 0).kind = .live ∧ (0, 0, 0) ∈ (masks true 1 2).keysOf 0
      ∧ (0, 0) ∈ (keySuccs (gram true) 0 0).take (((tget 0 (masks true 1 2).ren.tune).getD {}).depth)
      ∧ FillKind.map 0 ∈ keyItems (gram true) shp.shardBase shp.shardLen 0 0
      ∧ State.reset.duty 3 = false ∧ (masks true 1 2).duty 3 = true ∧
        (masks true 1 2).ren.has 0 1 (.map 0) = false ∧ (masks true 1 2).ren.reads.all (fun r => !(r.kind == .map 0)) = true ∧ gidxOf (gram true).handle = 0 ∧ (tget 0 (masks true 1 2).ren.tune).map (fun u => u.steps) = some 1024
      ∧ ((masks true 1 2).ren.states.all (fun c => c.prefetched.isNone) = true) := by
  decide +kernel

theorem witness_ReadLands : let left := { (masks true 1 1).ren with reads := [] }
    left.full { gidx := 0, gver := 1, kind := .map 0, prefetched := none } = false := by decide +kernel

/-- A stream of an encode job with one buffer of `len` bytes waiting, on lane 0. -/
def strm (o : EncOptions) (served : List Nat) (ended : Bool) (es : List EncEntry) (len : Nat) : Stream :=
  { job := some (1, 5), opts := o, queue := [{ ids := none, ended := ended, host := true, addr := 0x4000, len := len, by_ := b0 }], entries := es, served := served, lane := some 0 }

/-- READY with that stream as stream 0 on lane 0, a second one waiting for the lane, and a fill of line 3 that stream 0's twin awaits. -/
def lanes (x : Stream) : State :=
  { on with
    clk := { on.clk with eng := 5000 }
    churn := { on.churn with
      vocabs := [(0, vocab)], streams := [(0, x), (1, { x with waitFill := some 3 }), (2, x)], running := [(0, 0)]
      fills := [⟨0, 0, 3, 0, some 1, [1], none, 0xFFFF, true⟩], misses := 8 :: List.replicate 15 0, masks := 1 :: 0xFFFE :: List.replicate 14 0, map := [0, 1] } }

theorem witness_VocabFillsAndLanes :
    tget (3 : BitVec 4).toNat on.churn.running = none
      ∧ (let s := lanes (strm {} [] false [] 1)
        tget (0 : BitVec 4).toNat s.churn.running = some 0 ∧ tget 0 s.churn.streams = some (strm {} [] false [] 1)
          ∧ s.churn.nextReady 0 (some 0) = some 2 ∧ (strm {} [] false [] 1).laneStart + 4096 ≤ (s.at t0).clk.eng
          ∧ (2, strm {} [] false [] 1) ∈ s.churn.streams ∧ (strm {} [] false [] 1).lane = some 0
          ∧ s.churn.fills.find? (fun f => f.vidx == (0 : BitVec 6).toNat && f.line == 3 && f.issued) = some ⟨0, 0, 3, 0, some 1, [1], none, 0xFFFF, true⟩
          ∧ s.churn.lines.any (fun x => x.set == 0 && x.way == 1 && x.pinned) = false
          ∧ tget 0 s.churn.vocabs = some vocab ∧ vocab.gen = 0 ∧ (tget 1 s.churn.streams).isSome = true)
      ∧ on.churn.fills.find? (fun f => f.vidx == 0 && f.line == 3 && f.issued) = none
      ∧ ({ lanes (strm {} [] false [] 1) with clk := on.clk } : State).clk.eng < (strm {} [] false [] 1).laneStart + 4096
      ∧ State.reset.duty 3 = false ∧ on.duty 3 = true ∧ on.churn.lock = false := by
  decide +kernel

/-- Partition 0 with one way and eight misses takes a way from partition 1 with fifteen ways and none. -/
theorem witness_PartitionRetune :
    let c := (lanes (strm {} [] false [] 1)).churn
    let ways := fun p => waysOf (c.masks.getD p 0)
    (∀ p < 16, p ∈ c.map → p = 0 ∨ p = 1) ∧ 2 ≤ ways 1 ∧ ways 0 = 1 ∧ ¬ (c.misses.getD 0 0 * ways 1 < c.misses.getD 1 0 * ways 0)
      ∧ 2 * (c.misses.getD 1 0 * ways 0) ≤ c.misses.getD 0 0 * ways 1 ∧ bit (c.masks.getD 1 0).toNat 15 = true
      ∧ (∀ v < 16, 15 < v → bit (c.masks.getD 1 0).toNat v = false) := by decide +kernel

/-- What a buffer of one byte meets: an entry, no room for it, or a rejected byte. -/
theorem witness_BuffersTaken :
    (∀ l < 16, (l, (5 : BitVec 10).toNat) ∉ on.churn.running)
      ∧ (∀ ended : Bool, let x := strm { dcap := 8 } (List.range 64) ended [] 1
        let s := lanes x
        (0, (0 : BitVec 10).toNat) ∈ s.churn.running ∧ tget 0 s.churn.streams = some x ∧ x.waitFill = none ∧ x.queue.length = 1 ∧ tget x.opts.vidx s.churn.vocabs = some vocab
          ∧ x.job.isSome = true ∧ x.got + [(0x61 : Byte)].length = 1
          ∧ (let w := s.churn.work x vocab [0x61] ended
            s.churn.missing x vocab w = none ∧ w.e.rejected = false ∧ (w.e.entries.take (x.opts.dcap - x.entries.length)).length = w.e.entries.length))
      ∧ (let x := strm { dcap := 8 } [] true [] 1
        ((lanes x).churn.missing x vocab ((lanes x).churn.work x vocab [0x61] true)).isSome = true)
      ∧ (let x := strm {} (List.range 64) true [] 1
        let w := (lanes x).churn.work x vocab [0x61] true
        (lanes x).churn.missing x vocab w = none ∧ (w.e.entries.take (x.opts.dcap - x.entries.length)).length < w.e.entries.length)
      ∧ (let x := strm { dcap := 8, invalid := 2 } (List.range 64) true [] 1
        let w := (lanes x).churn.work x vocab [0xFF] true
        (lanes x).churn.missing x vocab w = none ∧ w.e.rejected = true ∧ (w.e.entries.take (x.opts.dcap - x.entries.length)).length = w.e.entries.length)
      ∧ (let x := strm { dcap := 8 } (List.range 64) true [] 2
        let w := (lanes x).churn.work x vocab [0x61] false
        x.got + [(0x61 : Byte)].length < 2 ∧ (lanes x).churn.missing x vocab w = none ∧ x.entries.length + w.e.entries.length < x.reported + 4096) := by
  decide +kernel

/-- A line of the image and one of a piece's memo, that the buffer looks up. -/
theorem witness_LineFaults : let x := strm { dcap := 8 } (List.range 64) true [] 1
    let s := lanes x
    let s := { s with churn := { s.churn with lines := [{ tag := .image 0 0 3, set := 0, way := 1 }, { tag := .memo 0 0 [0x61], set := 1, way := 1 }] } }
    s.churn.lines.find? (fun l => l.tag == .image x.opts.vidx vocab.gen 3) = some { tag := .image 0 0 3, set := 0, way := 1 }
      ∧ s.churn.lines.find? (fun l => l.tag == .memo x.opts.vidx vocab.gen [0x61]) = some { tag := .memo 0 0 [0x61], set := 1, way := 1 }
      ∧ s.lostLine x vocab .lineCe = none ∧ s.lostLine x vocab .none = none ∧ x.job.isSome = true := by
  decide +kernel

/-- An entry report: 4,095 entries not reported, and one more. -/
theorem witness_EntryReport : let x := strm { dcap := 8192 } (List.range 64) true (List.replicate 4095 { id := 0 }) 2
    let w := (lanes x).churn.work x vocab [0x61] false
    (lanes x).churn.missing x vocab w = none ∧ w.e.entries.length = 1 ∧ x.reported + 4096 ≤ x.entries.length + w.e.entries.length
      ∧ (w.e.entries.take (x.opts.dcap - x.entries.length)).length = w.e.entries.length ∧ w.e.rejected = false := by
  decide +kernel

/-- A record that moves, and customers of an epoch: one served, one not. -/
def epoch : State :=
  let c : Customer := { pool := 0, weight := 1, rate := 0, burst := 0, iw := 0, hard := false, level := 0 }
  { on with
    reqs := { table := [(0, { req1 with moving := true })] }
    rat := { on.rat with customers := [(1, { c with service := 10 }), (2, c), (3, { c with inQ := false, k := 512 })] } }

set_option maxRecDepth 20000 in
/-- A record on its way in while 4,096 are hot. -/
theorem witness_RecordWaits :
    let s : State := { on with reqs := { table := (5000, { req1 with moving := true, hot := false }) :: (List.replicate 4096 0).map (fun i => (i, req1)) } }
    tget 5000 s.reqs.table = some { req1 with moving := true, hot := false } ∧ s.hotFull = true := by
  decide +kernel

theorem witness_RecordsAndEpochs :
    (∀ r ∈ (tget 0 live.reqs.table).toList, r.moving = false)
      ∧ tget (0 : BitVec 16).toNat epoch.reqs.table = some { req1 with moving := true } ∧ req1.handle.toNat % 65536 = (0 : BitVec 16).toNat ∧ req1.st ≠ .ending
      ∧ State.reset.duty 2 = false ∧ epoch.duty 2 = true
      ∧ sumNat ((epoch.rat.customers.filter (fun c => c.2.inQ)).map (fun c => c.2.service)) ≠ 0
      ∧ sumNat ((on.rat.customers.filter (fun c => c.2.inQ)).map (fun c => c.2.service)) = 0
      ∧ (∃ p ∈ epoch.rat.customers, p.2.inQ = true ∧ epoch.rat.target p.2 ≠ 0) ∧ tget 9 epoch.rat.customers = none := by
  decide +kernel

/-- Context 0 with one command taken. -/
def taking (k : Taken) (stage : Nat) : State :=
  { on with boot := { on.boot with stage := stage, running := stage == 8 }, mbox := { on.mbox with ctxs := { on.ctx 0 with cmds := [k] } :: List.replicate 255 {} } }

/-- IDENTIFY, the same with a reserved header word set, and LOAD_VOCAB of index 5. -/
def cmdId (res : Nat) : Taken := { bytes := leBytes 2 1 ++ leBytes 2 0 ++ leBytes 4 7 ++ leBytes 8 res }

def cmdVocab (loading : Bool) : Taken := { bytes := leBytes 2 0x308 ++ leBytes 2 16 ++ leBytes 4 7 ++ leBytes 8 0 ++ leBytes 16 5, loading := loading }

theorem witness_LadlesRun :
    (on.skimMode = false ∧ State.reset.fw = false ∧ (∀ b, ∀ c < 256, on.ladleHead c 0 b = none))
      ∧ (∀ p ∈ [(cmdId 0, 0), (cmdId 1, 0), (cmdVocab true, 3), (cmdVocab false, 3)], let s := taking p.1 8
        s.skimMode = false ∧ p.2 < 4 ∧ s.duty p.2 = true ∧ 0 < s.mbox.ctxs.length ∧ p.2 < s.mbox.rr.length ∧ (s.ctx 0).attached = true
          ∧ (s.ctx 0).cmds = [] ++ p.1 :: [] ∧ p.1.accepted = false ∧ (s.ctx 0).waiting = [] ∧ (p.1.loading = true → p.1.opcode = opLoadVocab) ∧ opKnown p.1.opcode = true ∧ p.2 = p.1.opcode / 256 ∧ p.1.opcode ≠ opSetPower ∧ p.1.opcode ≠ opDetach
          ∧ p.1.len = bodyLen p.1.opcode p.1.body ∧ ((zeroFields p.1.opcode p.1.body).any (fun z => bits (leNat p.1.body) z.1 z.2 != 0)) = false ∧ s.mayLoad (cmdVocab false) = true)
      ∧ (leAt (cmdId 0).bytes 8 8 = 0 ∧ leAt (cmdId 1).bytes 8 8 ≠ 0 ∧ (cmdVocab true).opcode = opLoadVocab ∧ (taking (cmdId 1) 8).mbox.detaches = [])
      ∧ (taking (cmdId 0) 9).skimMode = true ∧ (taking (cmdId 0) 9).boot.halt = false := by
  decide +kernel

/-! ### Witnesses: forms of the mailbox commands -/

/-- ATTACH at READY and in skim mode, in contexts 0 and 1. -/
theorem witness_AttachForms :
    on.duty (opRole opAttach) = true ∧ skim.skimServes = true
      ∧ (∀ b ∈ [b0, ⟨1, 7⟩], b.ctx.toNat < skim.mbox.ctxs.length ∧ skim.mbox.detaches.all (fun d => d.ctx.toNat != b.ctx.toNat) = true)
      ∧ (skim.ctx 1).attached = false ∧ (1 : BitVec 8) ≠ 0 ∧ (skim.ctx 1).busy = false := by decide +kernel

/-- A customer that a request uses. -/
theorem witness_CustomerInUse :
    let s := { cust with reqs := { table := [(0, { req1 with customer := 5 })] } }
    (tget 5 s.rat.customers).isSome = true ∧ s.custBusy 5 = true ∧ cust.custBusy 5 = false ∧ bit (2 : Byte).toNat 1 = true := by decide +kernel

/-- Register power writes of the CTL cycle of a plan. -/
def writing : State :=
  let p : PowerSnap := { banks := on.vat.banks, units := on.str.units, regs := on.regs, log := on.log }
  { on with clk := { on.clk with power := some { ctl := 0, acts := [([(0, true)], 0x040)], before := p, after := p } } }

theorem witness_PlanWithWrites :
    (∃ x, writing.clk.power = some x ∧ x.ctl = max writing.clk.ctl t0.ctl ∧ x.acts ≠ []) ∧ writing.ringFree b0.ctx.toNat ∧ writing.serves b0 opSetVatPlan :=
  ⟨⟨_, rfl, rfl, by simp⟩, ⟨rfl, rfl, by decide +kernel, rfl⟩, ⟨rfl, rfl, rfl, rfl⟩⟩

/-- A stream with some buffers queued, ended or not. -/
def fed (n : Nat) (ended : Bool) : State :=
  let x := strm {} [] false [] 1
  lanes { x with queue := (List.replicate n x.queue).flatten, ended := ended }

set_option maxRecDepth 20000 in
/-- Every target of APPEND_INPUT: a job's stream, open, ended or with a full queue; a request's first buffer, with a context free or none; and neither. -/
theorem witness_AppendForms :
    (fed 1 false).target 0x10000 true = .stream 0
      ∧ (∀ n ∈ [1, 15, 16], ∀ e : Bool, (tget 0 (fed n e).churn.streams).map (fun x => (x.ended, x.queue.length)) = some (e, n))
      ∧ on.target 0x10000 true = .refused stEncStream ∧ on.target 0x10000 false = .refused stReqHandle
      ∧ (let s := (live.at t0).useRecord 0x10000; s.target 0x10000 false = .first { req1 with lastUse := s.reqs.order } ∧ lowestFree s.churn.streams 0 < Config.streamContexts)
      ∧ (let s := { live with churn := { live.churn with streams := (List.range 1024).map (fun i => (i, { job := some (1, 5), opts := {} })) } }
        Config.streamContexts ≤ lowestFree s.churn.streams 0)
      ∧ 16 ≤ (0x10 : Byte).toNat ∧ lengthOk true false 8 = true ∧ lengthOk false false 0 = false
      ∧ idsOf (some vocab) (leBytes 4 7 ++ leBytes 4 300) = none ∧ idsOf (some vocab) (leBytes 4 7 ++ leBytes 4 9) = some [7, 9] :=
  ⟨rfl, by decide +kernel, rfl, rfl, ⟨rfl, by decide +kernel⟩, by decide +kernel, by decide +kernel⟩

/-! ### Witnesses: images -/

/-- A vocabulary image of 4,096 bytes: byte mode, the 256 bytes, each its own fallback token. -/
def vocabBody : List Byte :=
  (List.range 256).flatMap (fun i => leBytes 8 (i + 2 ^ 32 + 2 ^ 42)) ++ (List.range 256).map (BitVec.ofNat 8) ++ List.replicate 256 0
    ++ (List.range 256).flatMap (leBytes 4)

def vocabHead : List Byte :=
  leBytes 4 0x42434F56 ++ leBytes 4 1 ++ leBytes 4 4096 ++ leBytes 4 0 ++ leBytes 8 0x1234 ++ leBytes 4 256 ++ [1, 1, 0, 0] ++ leBytes 16 0 ++ leBytes 16 256
    ++ leBytes 8 (512 + 2048 * 2 ^ 32) ++ leBytes 8 (2560 + 256 * 2 ^ 32) ++ leBytes 8 (3072 + 1024 * 2 ^ 32)
    ++ (List.replicate 5 (leBytes 8 4096)).flatten ++ List.replicate 376 0

def vocabImage : List Byte :=
  let p := vocabHead ++ leBytes 4 (crc32c vocabBody)
  p ++ leBytes 4 (crc32c p) ++ vocabBody

/-- A grammar image of 1,536 bytes: one state, no symbols. -/
def gramBody : List Byte := leBytes 512 (2 ^ 28) ++ List.replicate 512 0

def gramHead : List Byte :=
  leBytes 4 0x545A5242 ++ leBytes 4 1 ++ leBytes 4 1536 ++ leBytes 4 0 ++ leBytes 8 0x1234 ++ leBytes 4 256 ++ leBytes 4 1 ++ leBytes 32 0
    ++ leBytes 8 (512 + 8 * 2 ^ 32) ++ leBytes 8 1024 ++ leBytes 8 (1024 + 256 * 2 ^ 32) ++ (List.replicate 5 (leBytes 8 1536)).flatten ++ List.replicate 376 0

def gramImage : List Byte :=
  let p := gramHead ++ leBytes 4 (crc32c gramBody)
  p ++ leBytes 4 (crc32c p) ++ gramBody

set_option maxRecDepth 100000 in
theorem witness_VocabCommandsAnswered :
    on.ringFree b0.ctx.toNat ∧ on.serves b0 opLoadVocab ∧ (63 : Nat) ≤ 63 ∧ on.churn.loading.contains 63 = false ∧ tget 63 on.churn.vocabs = none
      ∧ (checkVocab 0 4096 (some vocabImage) on.churn.pinnedTotal).isOk = true
      ∧ on.serves b0 opReleaseVocab ∧ on.serves b0 opSetVocabPartition :=
  ⟨on_free, on_serves _, by decide, rfl, rfl, by decide +kernel, on_serves _, on_serves _⟩

/-- READY with the vocabulary that the grammar image names. -/
def named : State := { on with churn := { on.churn with vocabs := [(0, { vocab with vocabId := 0x1234 })] } }

set_option maxRecDepth 100000 in
theorem witness_GrammarCommandsAnswered :
    on.ringFree b0.ctx.toNat ∧ on.serves b0 opLoadGrammar ∧ (4095 : Nat) ≤ 4095 ∧ named.ren.loading.contains 4095 = false ∧ tget 4095 named.ren.images = none
      ∧ (checkGrammar 0x10FFF 0 1536 (some gramImage) named.vocabLoaded named.ren.pinnedPages).isOk = true ∧ on.serves b0 opReleaseGrammar :=
  ⟨on_free, on_serves _, by decide, rfl, rfl, by decide +kernel, on_serves _⟩

/-! ### Well-formedness -/

/-- A command that fails each of the checks, shape and areas and faults among them. -/
theorem test_wf_refuses :
    [Instr.frequencyChange t0 0, .frequencyChange t0 1501, .ackTimeout t0 80, .floorUpdate t0 0 17 0 0, .floorUpdate t0 0 0 0 1048577, .listSelectionDone t0 0 17 [],
      .listSelectionDone t0 0 0 [.strainerUe 0 3], .draw t0 0 [.storeUe 3 0], .verify t0 0 [.maskUe 2 0], .listSelectionDone t0 0 0 [.maskCe 2 0], .extendBlock t0 0 17, .extendBlockDone t0 0 ⟨17, []⟩, .extendBlockDone t0 0 ⟨0, [.storeUe 3 0]⟩,
      .rowPass t0 0 0 { passQ with digit := .key 0 }, .rowPass t0 0 0 { passQ with digit := .key32 4 }, .rowPass t0 0 0 { passQ with prefixV := 2 ^ 32 },
      .rowPass t0 0 0 { passQ with lo := 17 }, .rowPass t0 0 0 { passQ with hi := 2 ^ 64 + 1 }, .rowPass t0 0 0 { passQ with excl := [1, 2, 3, 4] }, .rowPassDone t0 0 ⟨17, []⟩, .rowPassDone t0 0 ⟨0, [.storeUe 3 0]⟩,
      .roundTimeout t0 0 17 ⟨.pass, []⟩, .vocabFillDone t0 0 (2 ^ 25) true, .ladle t0 4 none true, .watchdogExpiry t0 5, .unhandledTrap t0 5 0 0, .clockLoss t0 5, .resetRelease ⟨t0, 0⟩, .resetRelease ⟨t0, 10⟩,
      .cellarError t0 0 6, .sramInitDone t0 none [32768], .stagingWindowWrite t0 (2 ^ 20) [], .commandWindowWrite t0 (2 ^ 20) [], .readClear t0 ⟨(2 ^ 22), 4⟩, .readClear t0 ⟨0, 0⟩, .readClear t0 ⟨0, 9⟩,
      .registerWrite t0 (2 ^ 22) 4 0, .registerWrite t0 0 0 0, .registerWrite t0 0 9 0, .postDrafts t0 b0 0 0 256 (List.replicate 8 0), .postDrafts t0 b0 0 0 1 [0],
      .encodeOpen t0 b0 65536 0, .setStepShape t0 b0 ⟨2 ^ 32, 0, 0, 0, 0, 0, 0, 0, 0, 0, 0⟩, .setStepShape t0 b0 ⟨0, 0, 0, 0, 0, 0, 0, 0, 0, 0, 256⟩, .setHomeSlots t0 b0 65536 0,
      .setCustomer t0 b0 0 256 0 0 0 0 0, .setPool t0 b0 0 65536 0, .readCustomer t0 b0 65536, .setVatPlan t0 b0 [⟨256, 0, 0, 0, 0⟩], .setVatPlan t0 b0 (List.replicate 256 ⟨0, 0, 0, 0, 0⟩),
      .openWindow t0 b0 65536 0 0 0 0 0, .closeWindow t0 b0 256, .setCollective t0 b0 (2 ^ 32) none, .loadLogitProgram t0 b0 65536 0, .loadBiasList t0 b0 0 (2 ^ 32) none,
      .loadVocab t0 b0 256 0 0 none, .releaseVocab t0 b0 256, .setVocabPartition t0 b0 false [] (List.replicate 256 0), .setVocabPartition t0 b0 false (List.replicate 16 0) [],
      .setVocabPartition t0 b0 false (List.replicate 16 0) (List.replicate 256 16), .loadGrammar t0 b0 0 (2 ^ 32) 0 none, .loadStopSet t0 b0 65536 false 0 none,
      .releaseStopSet t0 b0 65536, .setAdapterPool t0 b0 0 0 256 0 0 0 0, .privateSramError t0 5, .clockRunsAgain t0 5].all (fun i => !i.wf) = true := by decide +kernel

/-- Their well-formed neighbours pass. -/
theorem test_wf_admits :
    [Instr.frequencyChange t0 1500, .ackTimeout t0 79, .floorUpdate t0 0 16 0 1048576, .draw t0 0 [.storeUe 2 0, .maskCe 1 0, .strainerUe 0 2], .rowPass t0 0 0 passQ, .clockLoss t0 0, .readClear t0 ⟨0, 8⟩, .resetRelease ⟨t0, 9⟩, .registerWrite t0 0xC4 4 0,
      .postDrafts t0 b0 0 0 8 (List.replicate 8 0), .setVocabPartition t0 b0 true (List.replicate 16 0) (List.replicate 256 15)].all Instr.wf = true := by decide +kernel

/-- No word of the table spells a command, so none is put in front of the queue. -/
theorem test_no_table_words : decodeTableWord 8 0 = none ∧ State.reset.withFetchWord 8 0 = State.reset := ⟨rfl, rfl⟩

/-! ### The manual's worked examples -/

/-- Table 3-7: bank 8 short of the physical rows 37 (0x4025) and 1,200 (0x44B0). -/
theorem test_two_rows_mapped_out :
    let v : Vat := { mapOut := [0x4025, 0x44B0] }
    v.capacity 0 12 = 24552 ∧ v.capacity 0 13 = 26598 ∧ v.areaPra 0 13 20000 = 6 * 2048 + 1538 ∧ v.areaPra 0 13 20002 = 8 * 2048 + 1540
      ∧ v.areaPra 0 13 26597 = 12 * 2048 + 2045 ∧ v.pra 8 1198 = 8 * 2048 + 1199 ∧ v.pra 8 1199 = 8 * 2048 + 1201 := by decide +kernel

/-- Tables 4-3 and 4-4: keys of binary32, binary16, block-scaled E4M3 and bf16. -/
theorem test_keys : key32 0xC0A00000 = 0x3F600000 ∧ key32 (widen 1 0x0001) = 0xB3800000 ∧ key32 (scaledValue 5 0x44 0x3F000000) = 0xBFC00000
    ∧ nativeKey 0 0x8000 = 0x8000 ∧ nativeKey 0 0xFF80 = 0x0080 ∧ keyTo32 0 0xBFA0 = 0xBFA00000 := by decide +kernel

/-- The row of Table 4-4 under a NaN policy. -/
def exampleRow (pass : Bool) : List RowEntry :=
  ([0xBF80, 0x8000, 0xC000, if pass then 0xFFC0 else 0, 0xBF80, 0x8000, 0x0080, 0xBFA0].zipIdx).map
    (fun p => ⟨p.2, p.1, BitVec.ofNat 32 (p.1 * 65536), BitVec.ofNat 24 (0x100 + p.2), p.2 == 3⟩)

/-- Table 4-5: weights against M = 2.0 at invT = 16.0. -/
theorem test_weights : [0xC0000000, 0xBFA00000, 0xBF800000, 0x80000000, 0x00800000, 0, 0xFFC00000].map (fun k => weight (BitVec.ofNat 32 k) (some 0xC0000000) 0x41800000)
    = [0xFFFFFFFF, 26389, 483, 0, 0, 0, 0xFFFFFFFF] := by decide +kernel

/-- Table 5-7: quarantine and pass with k = 3. -/
theorem test_selection :
    (selectList 16 3 (exampleRow false) (rowFigures (exampleRow false)) false 0).1.map (fun e => e.id.toNat) = [0x102, 0x107, 0x100]
      ∧ (let r := (selectList 16 3 (exampleRow false) (rowFigures (exampleRow false)) false 0).2
        (r.valid, r.above, r.ties, r.nancnt, r.count) = (7, 2, 2, 1, 3) ∧ (r.tau, r.lmax, r.selstat) = (0xBF800000, 0xC0000000, 0xA))
      ∧ (selectList 16 3 (exampleRow true) (rowFigures (exampleRow true)) false 0).1.map (fun e => e.id.toNat) = [0x103, 0x102, 0x107]
      ∧ (let r := (selectList 16 3 (exampleRow true) (rowFigures (exampleRow true)) false 0).2
        (r.valid, r.above, r.ties, r.nancnt, r.count) = (8, 2, 1, 1, 3) ∧ (r.tau, r.lmax, r.selstat) = (0xBFA00000, 0xC0000000, 2)) := by decide +kernel

/-- The third column of Table 5-7: k = 10 takes the seven valid entries and is SHORT. -/
theorem test_selection_short :
    (selectList 16 10 (exampleRow false) (rowFigures (exampleRow false)) false 0).1.map (fun e => e.id.toNat)
        = [0x102, 0x107, 0x100, 0x104, 0x101, 0x105, 0x106] ++ List.replicate 3 0xFFFFFF
      ∧ (let r := (selectList 16 10 (exampleRow false) (rowFigures (exampleRow false)) false 0).2
        (r.valid, r.above, r.ties, r.count) = (7, 6, 1, 7) ∧ (r.tau, r.selstat) = (0x00800000, 3)) := by decide +kernel

/-- Tables 6-9 to 6-11: nucleus and draw of the five-entry list at invT = 2.0, MINP 0x2000, TOPP 32,768, u = 0.75. -/
def exampleList : List ListEntry := [⟨0xC0800000, 0x204⟩, ⟨0xC0600000, 0x200⟩, ⟨0xC0600000, 0x202⟩, ⟨0xC0600000, 0x203⟩, ⟨0xC0200000, 0x207⟩]

theorem test_draw :
    let n := nucleusOf exampleList (some 0xC0800000) 0x40000000 0x2000 32768
    n.ents = [(⟨0xC0800000, 0x204⟩, 4294967295), (⟨0xC0600000, 0x200⟩, 1580030169)] ∧ n.mpcut = true ∧ n.pcut = true
      ∧ (let d := drawLoop false false (fun _ => 0xC000000000000000) (fun _ => some none) 3 0 (n.ents.map (fun p => ⟨p.1, p.2, true⟩)) {}
        d.chosen = some (⟨0xC0600000, 0x200⟩, 1580030169, none) ∧ (d.wnuc, d.target, d.nnuc) = (5874997464, 4406248098, 2)) := by decide +kernel

/-- Table 13-8: one epoch's correction of two customers alone in one pool. -/
theorem test_epoch :
    let c : Customer := { pool := 0, weight := 100, rate := 0, burst := 0, iw := 0, hard := false, level := 0 }
    let q : Rations := { customers := [(1, { c with service := 10240000 }), (2, { c with service := 2560000 })] }
    (q.correct 0).customers.map (fun p => (p.2.s, p.2.d, p.2.nextK)) = [(32768, 52428, some 208), (32768, 13107, some 448)] := by decide +kernel

/-- The rank-merge vocabulary of the manual's second tokenisation example; its pair table is full, with one pair that never occurs. -/
def rankVocab : Vocab :=
  { vocab with
    mode := 1, maxTok := 4, nclass := 3, pairBits := 2, boundary := [0, 4] ++ List.replicate 14 0, nodes := []
    toks := vocab.toks ++ [⟨256, [0x61, 0x62], false, false, false, false⟩, ⟨258, [0x61, 0x62, 0x61, 0x62], false, false, false, false⟩, ⟨262, [0x20, 0x61], false, false, false, false⟩]
    ranges := [(0x20, 0x20, 2), (0x61, 0x7A, 1)]
    pairs := [⟨0x61, 0x62, 0x100, 0, true⟩, ⟨0x100, 0x100, 0x101, 1, true⟩, ⟨0x20, 0x61, 0x102, 2, true⟩, ⟨0x102, 0x102, 0x102, 9, true⟩] }

/-- "abab " gives 0x101 and holds the space; then "ab" with END gives 0x20 and 0x100, since rank 0 comes before rank 2. -/
theorem test_merging_by_rank :
    (let e := encodeText rankVocab {} false [0x61, 0x62, 0x61, 0x62, 0x20] 0; e.entries = [{ id := 0x101 }] ∧ e.consumed = 4)
      ∧ ((encodeText rankVocab {} true [0x20, 0x61, 0x62] 0).entries.map (fun e => e.id) = [0x20, 0x100]) := by decide +kernel

/-- The longest-prefix vocabulary of Table 11-14: che, cheese, space, space with U+1F9C0, U+1F9C0, s. -/
def cheese : Vocab :=
  let t := fun (l : List Byte) => (⟨0, l, false, false, false, false⟩ : VocabTok)
  let n := fun (tok : Nat) (c f : Nat) => (⟨BitVec.ofNat 24 tok, c, f⟩ : TrieNode)
  { vocab with
    maxTok := 6
    toks := vocab.toks ++ [t [0x63, 0x68, 0x65], t [0x63, 0x68, 0x65, 0x65, 0x73, 0x65], t [0x20], t [0x20, 0xF0, 0x9F, 0xA7, 0x80], t [0xF0, 0x9F, 0xA7, 0x80], t [0x73]]
    nodes := [n 0xFFFFFF 4 0, n 0x102 1 4, n 0xFFFFFF 1 5, n 0x105 0 0, n 0xFFFFFF 1 6, n 0xFFFFFF 1 7, n 0xFFFFFF 1 8, n 0xFFFFFF 1 9, n 0xFFFFFF 1 10, n 0x100 1 11,
      n 0xFFFFFF 1 12, n 0xFFFFFF 1 13, n 0xFFFFFF 1 14, n 0x104 0 0, n 0x103 0 0, n 0xFFFFFF 1 15, n 0x101 0 0]
    edges := [(0x20, 1), (0x63, 2), (0x73, 3), (0xF0, 4), (0xF0, 5), (0x68, 6), (0x9F, 7), (0x9F, 8), (0x65, 9), (0xA7, 10), (0xA7, 11), (0x65, 12), (0x80, 13), (0x80, 14), (0x73, 15), (0x65, 16)] }

/-- Table 11-15: buffer 1 writes "cheese" and holds three bytes; then the four endings. -/
theorem test_split_character :
    (let e := encodeText cheese {} false [0x63, 0x68, 0x65, 0x65, 0x73, 0x65, 0x20, 0xF0, 0x9F] 0; e.entries = [{ id := 0x101 }] ∧ e.consumed = 6)
      ∧ (encodeText cheese {} true [0x20, 0xF0, 0x9F, 0xA7, 0x80, 0x73] 0).entries = [{ id := 0x103 }, { id := 0x105 }]
      ∧ (encodeText cheese {} true [0x20, 0xF0, 0x9F, 0x41] 0).entries = [{ id := 0x102 }, { id := 0xF0, inv := true }, { id := 0x9F, inv := true }, { id := 0x41, unk := true }]
      ∧ (encodeText cheese { invalid := 1 } true [0x20, 0xF0, 0x9F, 0x41] 0).entries.flatMap EncEntry.bytes
        = [0x00000102, 0x050000EF, 0x050000BF, 0x050000BD, 0x04000041].flatMap (leBytes 4)
      ∧ (let e := encodeText cheese { invalid := 2 } true [0x20, 0xF0, 0x9F, 0x41] 0; e.entries = [{ id := 0x102 }] ∧ e.rejected = true) := by decide +kernel

/-- The vocabulary and stop set of the manual's example of a stop across three tokens. -/
def oui : Vocab :=
  let t := fun (l : List Byte) => (⟨0, l, false, false, false, false⟩ : VocabTok)
  { vocab with toks := vocab.toks ++ [t [0x4F, 0x75, 0x69], t [0x0A], t [0x51], t [0x3A, 0x78], t [0x4E, 0x6F]] }

def stops : StopSet := ⟨[([0x0A, 0x51, 0x3A], false), ([0x4E, 0x6F, 0x21], false)], 7, 6⟩

/-- Commits one after another: the pail that they leave and the entries that they write. -/
def commits (l : List (List TokenId)) : Pail × List PailEntry :=
  l.foldl (fun a c =>
    let m := skimText (some oui) (some stops) { text := true } a.1 { req := 0, toks := c.map (fun t => (t, false, false)) }
    (m.pail, a.2 ++ m.entries)) ({}, [])

/-- Table 12-9: headers of the five entries, one token a commit, and END's payload. -/
theorem test_stop_across_tokens :
    let r := commits [[0x100], [0xC3], [0xA9], [0x101], [0x104], [0x101], [0x102], [0x103]]
    r.2.map (fun e => leAt (pailBytes e true) 0 8) = [0x311, 0x300000211, 0x500000111, 0x600000211, 0x13]
      ∧ r.2.getLast?.map (fun e => (leAt e.payload 4 4, leAt e.payload 8 4, leAt e.payload 12 4, leAt e.payload 16 4)) = some (8, 8, 4, 0) := by decide +kernel

/-- Commits 6 to 8 as one speculative commit: the same entries. -/
theorem test_stop_in_one_commit :
    (commits [[0x100], [0xC3], [0xA9], [0x101], [0x104], [0x101, 0x102, 0x103]]).2
      = (commits [[0x100], [0xC3], [0xA9], [0x101], [0x104], [0x101], [0x102], [0x103]]).2 := by decide +kernel

/-- Table 16-3: at reset fs_man_data and fs_tok_data hold IDLE content with STEP 0. -/
theorem test_reset_pins :
    State.reset.shell.manData = BitVec.ofNat 512 ({} : Entry).toNat
      ∧ State.reset.shell.tokData = BitVec.ofNat 512 (({} : TokRecord).toNat + 2 ^ 256 * ({} : TokRecord).toNat) := by decide +kernel

end Sys2Proof.Tests
end

section
/-! PROOFS. What a firmware write does to the build buffer (R18, R25, R26). -/

namespace Sys2Proof.Machine

/-! ### Fields in sight -/

/-- A frame that does not hide the shell keeps it. -/
theorem State.shell_eq_of_hide {l : List StateUnit} {s u : State} (hl : StateUnit.shell ∉ l) (h : u.hide l = s.hide l) : u.shell = s.shell := by
  have hs := congrArg State.shell h
  simpa only [State.hide, if_neg hl] using hs

/-! ### One write, and the writes that waited -/

/-- All that one write changes in the shell: its slot's cell where STEP names the step being built, the report where STEP
names a step frozen already. -/
theorem State.putEntry_shell {s : State} {b : Buffer} (hb : s.shell.building = some b) (slot : Nat) (e : Entry) (r : TokRecord) :
    (s.putEntry slot e r).shell = { s.shell with
      building := some { b with cells := if e.step = b.step ∧ slot < b.shape.slots then tput slot (e, r) b.cells else b.cells }
      missed := if slot < b.shape.slots ∧ 0 < e.step ∧ e.step < b.step then s.shell.missed ++ [(e.step, slot)] else s.shell.missed } := by
  have hself : s.shell = { s.shell with building := some b } := by rw [← hb]
  simp only [State.putEntry, hb]
  by_cases hN : b.shape.slots ≤ slot
  · simpa [hN, Nat.not_lt.mpr hN] using hself
  · rw [if_neg hN]
    by_cases hstep : e.step = b.step
    · simp [hstep, Nat.not_le.mp hN]
    · rw [if_neg hstep]
      by_cases hlate : 0 < e.step ∧ e.step < b.step
      · simp [hstep, hlate, hb, Nat.not_le.mp hN]
      · simpa [hstep, hlate] using hself

/-- With no write waiting there is nothing to apply. -/
theorem State.flushHeld_of_held_nil {s : State} (h : s.shell.held = []) : s.flushHeld = s := by
  have hself : s.modShell (fun x => { x with held := [] }) = s := by rw [← h]; rfl
  simp only [State.flushHeld, h, List.foldl_nil, hself]

/-- One waiting write goes in as any other. -/
theorem State.flushHeld_of_held_singleton {s : State} {slot : Nat} {ew : BitVec 512} {recw : BitVec 256} {e : Entry}
    (h : s.shell.held = [(slot, ew, recw)]) (he : entryOf ew.toNat = some e) :
    s.flushHeld = (s.modShell (fun h => { h with held := [] })).putEntry slot e (tokRecordOf recw.toNat) := by
  unfold State.flushHeld
  simp only [h, List.foldl_cons, List.foldl_nil, he]

/-- The waiting writes change cells of the build buffer and reports, and none waits any more. -/
theorem State.flushHeld_shell {s : State} {b : Buffer} (hb : s.shell.building = some b) :
    ∃ cs ms, s.flushHeld.shell = { s.shell with held := [], building := some { b with cells := cs }, missed := ms } := by
  refine List.foldlRecOn (motive := fun (u : State) =>
    ∃ cs ms, u.shell = { s.shell with held := [], building := some { b with cells := cs }, missed := ms }) _ _ ?_ ?_
  · exact ⟨b.cells, s.shell.missed, by rw [State.modShell_shell, ← hb]⟩
  · rintro u ⟨cs, ms, hu⟩ w -
    dsimp only
    split
    · rw [State.putEntry_shell (b := { b with cells := cs }) (by rw [hu]), hu]
      exact ⟨_, _, rfl⟩
    · exact ⟨cs, ms, hu⟩

/-! ### The command -/

/-- From the freeze to Dm + 8 the build buffer takes no write (R26). -/
theorem State.at_buildOpen_iff {s : State} {f : Shape} (hf : s.shapeNow = some f) (t : Time) :
    (s.at t).buildOpen = true ↔ s.shell.frozen = false ∨ f.manDeadline + 8 ≤ max s.clk.fab t.fab := by
  have hf' : (s.at t).shapeNow = some f := hf
  simp [State.buildOpen, hf']

theorem State.writeEntry_of_open {s : State} (h : s.buildOpen = true) (slot : Nat) (e : Entry) (r : TokRecord) :
    s.writeEntry slot e r = s.flushHeld.putEntry slot e r := if_pos h

theorem State.writeEntry_of_closed {s : State} (h : ¬ s.buildOpen = true) (slot : Nat) (e : Entry) (r : TokRecord) :
    s.writeEntry slot e r
      = s.modShell (fun h => { h with held := h.held ++ [(slot, BitVec.ofNat 512 e.toNat, BitVec.ofNat 256 r.toNat)] }) := if_neg h

/-- Firmware at READY writes an entry of a slot that may take one (R18). -/
theorem exec_manifestEntryWrite_of_free {s : State} {slot : BitVec 12} {entry : BitVec 512} {e : Entry} (hduty : s.duty 2 = true)
    (he : entryOf entry.toNat = some e) (hfree : s.homed slot.toNat = false ∨ s.outcomeKnown slot.toNat = true) (t : Time)
    (record : BitVec 256) :
    exec (.manifestEntryWrite t slot entry record) s = .next ((s.at t).writeEntry slot.toNat e (tokRecordOf record.toNat)) := by
  have hduty' : (s.at t).duty 2 = true := hduty
  have hfree' : ¬ ((s.at t).homed slot.toNat = true ∧ (!(s.at t).outcomeKnown slot.toNat) = true) := by
    rintro ⟨hhomed, hknown⟩
    rcases hfree with h | h
    · exact Bool.eq_false_iff.mp h hhomed
    · exact Bool.eq_false_iff.mp ((Bool.not_eq_true' _).mp hknown) h
  change Host.Outcome.next _ = _
  simp only [hduty', Bool.not_true, Bool.false_eq_true, if_false, if_neg hfree', he]

/-- A slot of this SK9's own whose outcome is open takes no entry (R18). -/
theorem exec_manifestEntryWrite_of_unknown {s : State} {slot : BitVec 12} (hhomed : s.homed slot.toNat = true)
    (hopen : s.outcomeKnown slot.toNat = false) (t : Time) (entry : BitVec 512) (record : BitVec 256) :
    exec (.manifestEntryWrite t slot entry record) s = .next (s.at t) := by
  have hbusy : (s.at t).homed slot.toNat = true ∧ (!(s.at t).outcomeKnown slot.toNat) = true :=
    ⟨hhomed, (Bool.not_eq_true' _).mpr hopen⟩
  change Host.Outcome.next _ = _
  rw [if_pos hbusy, ite_self]

theorem exec_manifestEntryWrite_frame {s u : State} {t : Time} {slot : BitVec 12} {entry : BitVec 512} {record : BitVec 256}
    (h : exec (.manifestEntryWrite t slot entry record) s = .next u) : s.onlyChanges [.clk, .shell] u :=
  execManifestEntryWrite_hide (by decide) (by decide) t slot entry record h

/-- Settles O40: the command writes its entry whole (`exec_manifestEntryWrite_of_free`), and `State.putEntry_shell` says all
that a write changes; the clauses are its cases, with no write waiting, with one, and while the buffer is closed. -/
theorem entryWritesTaken : Obligations.EntryWritesTaken := by
  unfold Obligations.EntryWritesTaken
  intro s t slot entry record e b f hduty he hf hb
  refine ⟨fun hfree => ?_, fun hhomed hopen => exec_manifestEntryWrite_of_unknown hhomed hopen t entry record⟩
  have hexec := exec_manifestEntryWrite_of_free hduty he hfree t record
  have hframe := exec_manifestEntryWrite_frame hexec
  have hbt : (s.at t).shell.building = some b := hb
  refine ⟨fun hnil hopen => ?_, fun sl ew recw x hheld hx hopen hlt hstep => ?_, fun hfrozen hearly => ?_⟩
  case refine_1 =>
    have hshell := State.putEntry_shell hbt slot.toNat e (tokRecordOf record.toNat)
    rw [State.writeEntry_of_open ((State.at_buildOpen_iff hf t).mpr hopen), State.flushHeld_of_held_nil (s := s.at t) hnil] at hexec hframe
    refine ⟨fun hlt hstep => ⟨_, hexec, ?_, ?_, ?_, hframe⟩, fun hlt hstep => ⟨_, hexec, ?_, hframe⟩, fun hN => ⟨_, hexec, ?_, hframe⟩⟩
      <;> rw [hshell]
    · simp [hstep, hlt]
    · rfl
    · simp [hstep]
    · simp [hstep, hlt, ← hb]
    · simp [Nat.not_lt.mpr hN, ← hb]
  case refine_2 =>
    rw [State.writeEntry_of_open ((State.at_buildOpen_iff hf t).mpr hopen), State.flushHeld_of_held_singleton (s := s.at t) hheld hx] at hexec hframe
    have hfirst := State.putEntry_shell (s := (s.at t).modShell (fun h => { h with held := [] })) hbt sl x (tokRecordOf recw.toNat)
    have hshell := State.putEntry_shell (congrArg Shell.building hfirst) slot.toNat e (tokRecordOf record.toNat)
    refine ⟨_, hexec, ?_, ?_, hframe, ?_⟩ <;> rw [hshell]
    · rw [hfirst]; rfl
    · rw [hfirst]; rfl
    · simp [hstep, hlt]
  case refine_3 =>
    have hclosed : ¬ (s.at t).buildOpen = true := by
      rw [State.at_buildOpen_iff hf t, hfrozen]
      exact not_or.mpr ⟨by decide, Nat.not_le.mpr hearly⟩
    rw [State.writeEntry_of_closed hclosed] at hexec hframe
    exact ⟨_, hexec, rfl, rfl, rfl, hframe⟩

end Sys2Proof.Machine
end

section
/-! PROOFS. The freeze and the build buffer that it opens (R25, R27, R33), at cycle Dm and at a pulse that comes before it. -/

namespace Sys2Proof.Machine

/-! ### Cells by slot -/

theorem find?_tput_same {α : Type} (k : Nat) (v : α) (l : List (Nat × α)) : (tput k v l).find? (fun p => p.1 == k) = some (k, v) := by
  induction l with
  | nil => simp [tput]
  | cons p r ih =>
    obtain ⟨j, w⟩ := p
    unfold tput
    split
    · simp
    · split
      · simp
      · next hjk => simpa [hjk] using ih

theorem find?_tput_of_ne {α : Type} {i k : Nat} (h : k ≠ i) (v : α) (l : List (Nat × α)) :
    (tput k v l).find? (fun p => p.1 == i) = l.find? (fun p => p.1 == i) := by
  induction l with
  | nil => simp [tput, h]
  | cons p r ih =>
    obtain ⟨j, w⟩ := p
    unfold tput
    split
    · simp [h]
    · split
      · next hjk => subst hjk; simp [h]
      · simp only [List.find?_cons, ih]

theorem find?_eq_none_of_unwritten {α : Type} {i : Nat} {l : List (Nat × α)} (h : ∀ c ∈ l, c.1 ≠ i) : l.find? (fun c => c.1 == i) = none := by
  simpa using h

/-! ### What a buffer holds -/

/-- A slot that nobody wrote is issued with the defaults (R27). -/
theorem Buffer.entryAt_of_unwritten {b : Buffer} {i : Nat} (hearly : b.early = false) (h : ∀ c ∈ b.cells, c.1 ≠ i) :
    b.entryAt i = (if i < b.shape.slots then { kind := .dry, dryCause := dryTokenLate, step := b.step } else { step := b.step },
      { step := b.step }) := by
  simp only [Buffer.entryAt, hearly, Bool.false_eq_true, if_false, find?_eq_none_of_unwritten h]
  split <;> rfl

/-- A written slot is issued as it was written. -/
theorem Buffer.entryAt_of_find? {b : Buffer} {i : Nat} {x : Entry × TokRecord} (hearly : b.early = false)
    (h : b.cells.find? (fun c => c.1 == i) = some (i, x)) : b.entryAt i = x := by
  simp only [Buffer.entryAt, hearly, Bool.false_eq_true, if_false, h]

/-- A buffer without cells holds the defaults. -/
theorem Buffer.opened_fresh (n : Nat) (f : Shape) : Buffer.opened { step := n, shape := f } := by
  have hdefault := fun i => Buffer.entryAt_of_unwritten (b := { step := n, shape := f }) (i := i) rfl (by simp)
  exact ⟨fun i hi => by rw [hdefault, if_pos hi], fun i hi => by rw [hdefault, if_neg (Nat.not_lt.mpr hi)]⟩

/-- The first shape opens the build buffer of step 1 (R418). -/
theorem Shell.takeShape_building {h : Shell} (hnone : h.building = none) (f : Shape) (first : Nat) :
    (h.takeShape f first).building = some { step := 1, shape := f } := by
  unfold Shell.takeShape
  rw [hnone]

/-! ### NO_DECISION (R33) -/

/-- What a participant issues for a slot without a decision. -/
def undecidedCell (step : Nat) : Entry × TokRecord := ({ kind := .dry, dryCause := dryNoDecision, step := step }, { step := step })

/-- What `State.noDecision` does for one slot. -/
def State.fillUndecided (s : State) (step : Nat) (cs : List (Nat × Entry × TokRecord)) (i : Nat) : List (Nat × Entry × TokRecord) :=
  if s.homed i || cs.any (fun c => c.1 == i) then cs else tput i (undecidedCell step) cs

theorem State.noDecision_of_rounds {s : State} (h : (s.rounds.isSome && s.duty 2) = true) (b : Buffer) :
    s.noDecision b = { b with cells := (List.range b.shape.slots).foldl (s.fillUndecided b.step) b.cells } := if_pos h

theorem State.noDecision_of_alone {s : State} (h : (s.rounds.isSome && s.duty 2) = false) (b : Buffer) : s.noDecision b = b :=
  if_neg (Bool.eq_false_iff.mp h)

theorem State.noDecision_step_shape (s : State) (b : Buffer) : (s.noDecision b).step = b.step ∧ (s.noDecision b).shape = b.shape := by
  unfold State.noDecision
  split <;> exact ⟨rfl, rfl⟩

theorem State.fillUndecided_of_ne (s : State) (step : Nat) (cs : List (Nat × Entry × TokRecord)) {i j : Nat} (h : j ≠ i) :
    (s.fillUndecided step cs j).find? (fun c => c.1 == i) = cs.find? (fun c => c.1 == i) := by
  unfold State.fillUndecided
  split
  · rfl
  · exact find?_tput_of_ne h _ cs

theorem State.fillUndecided_of_written (s : State) (step : Nat) {cs : List (Nat × Entry × TokRecord)} {i : Nat}
    {c : Nat × Entry × TokRecord} (h : cs.find? (fun c => c.1 == i) = some c) (j : Nat) :
    (s.fillUndecided step cs j).find? (fun c => c.1 == i) = some c := by
  by_cases hj : j = i
  · have hany : cs.any (fun c => c.1 == i) = true := by
      rw [← List.isSome_find?, h]
      rfl
    rw [hj, State.fillUndecided, hany, Bool.or_true, if_pos rfl, h]
  · rw [s.fillUndecided_of_ne step cs hj, h]

theorem State.fillUndecided_of_unwritten {s : State} {i : Nat} (hhome : s.homed i = false) (step : Nat)
    {cs : List (Nat × Entry × TokRecord)} (h : cs.find? (fun c => c.1 == i) = none) :
    (s.fillUndecided step cs i).find? (fun c => c.1 == i) = some (i, undecidedCell step) := by
  have hany : cs.any (fun c => c.1 == i) = false := by
    rw [← List.isSome_find?, h]
    rfl
  rw [State.fillUndecided, hhome, hany, Bool.or_false, if_neg Bool.false_ne_true, find?_tput_same]

/-- Over a list of slots a slot without a cell is filled once, and what it holds then stands. -/
theorem State.foldl_fillUndecided_find? {s : State} {i : Nat} (hhome : s.homed i = false) (step : Nat) {slots : List Nat} (hi : i ∈ slots)
    {cs : List (Nat × Entry × TokRecord)} (h : cs.find? (fun c => c.1 == i) = none) :
    (slots.foldl (s.fillUndecided step) cs).find? (fun c => c.1 == i) = some (i, undecidedCell step) := by
  induction slots generalizing cs with
  | nil => simp at hi
  | cons j r ih =>
    rw [List.foldl_cons]
    by_cases hj : j = i
    · subst hj
      exact List.foldlRecOn (motive := fun l => List.find? (fun c => c.1 == j) l = some (j, undecidedCell step)) r _
        (s.fillUndecided_of_unwritten hhome step h) (fun _ hl k _ => s.fillUndecided_of_written step hl k)
    · have hr : i ∈ r := (List.mem_cons.mp hi).resolve_left (fun e => hj e.symm)
      exact ih hr (by rw [s.fillUndecided_of_ne step cs hj, h])

/-- A participant's slot without a decision is frozen DRY with NO_DECISION. -/
theorem State.noDecision_entryAt {s : State} (hrounds : (s.rounds.isSome && s.duty 2) = true) {b : Buffer} (hearly : b.early = false)
    {i : Nat} (hi : i < b.shape.slots) (hhome : s.homed i = false) (h : ∀ c ∈ b.cells, c.1 ≠ i) :
    (s.noDecision b).entryAt i = undecidedCell b.step := by
  rw [State.noDecision_of_rounds hrounds]
  exact Buffer.entryAt_of_find? hearly
    (State.foldl_fillUndecided_find? hhome b.step (List.mem_range.mpr hi) (find?_eq_none_of_unwritten h))

/-! ### The freeze -/

/-- The shape of the step after the one that a buffer serves: the accepted one where it is due (R24). -/
def Shell.shapeAfter (h : Shell) (b : Buffer) : Shape :=
  match h.pendingShape with
  | some (p, first) => if first ≤ b.step + 1 then p else b.shape
  | none => b.shape

/-- The shell with no write waiting and a build buffer as it opens for a step. -/
def Shell.freshBuild (h : Shell) (n : Nat) : Prop := h.held = [] ∧ ∃ d, h.building = some d ∧ d.step = n ∧ d.opened

theorem State.frozenLive_shell (s : State) (b : Buffer) : (s.frozenLive b).shell = s.shell := rfl

/-- The freeze, `c` being the build buffer once the waiting writes are in. -/
theorem State.freezeNow_shell {s : State} {b : Buffer} (hb : s.shell.building = some b) :
    ∃ c : Buffer, (s.shell.held = [] → c = b) ∧ c.step = b.step ∧ c.shape = b.shape
      ∧ s.freezeNow.shell.serving = some (s.flushHeld.noDecision c)
      ∧ s.freezeNow.shell.building = some { step := b.step + 1, shape := s.shell.shapeAfter b }
      ∧ s.freezeNow.shell.frozen = true ∧ s.freezeNow.shell.cutoff = false ∧ s.freezeNow.shell.held = [] := by
  obtain ⟨cs, ms, hflush⟩ := State.flushHeld_shell hb
  have hb' : s.flushHeld.shell.building = some { b with cells := cs } := by rw [hflush]
  refine ⟨{ b with cells := cs }, fun hnil => ?_, rfl, rfl, ?_⟩
  · rw [State.flushHeld_of_held_nil hnil, hb] at hb'
    exact (Option.some.inj hb').symm
  · obtain ⟨hstep, hshape⟩ := s.flushHeld.noDecision_step_shape { b with cells := cs }
    simp only [State.freezeNow, State.frozenLive_shell, State.modShell_shell, hstep, hshape, hflush, true_and, and_true]
    unfold Shell.shapeAfter
    cases s.shell.pendingShape with
    | none => rfl
    | some p => dsimp only; split <;> rfl

theorem State.freezeNow_freshBuild {s : State} {b : Buffer} (hb : s.shell.building = some b) : s.freezeNow.shell.freshBuild (b.step + 1) := by
  obtain ⟨c, -, -, -, -, hopen, -, -, hheld⟩ := State.freezeNow_shell hb
  exact ⟨hheld, _, hopen, rfl, Buffer.opened_fresh _ _⟩

/-- FREEZE before the first pulse, after the freeze, or before Dm. -/
theorem exec_freeze_of_not_due {s : State} {t : Time} {f : Shape} (hf : s.shapeNow = some f)
    (h : s.shell.started = false ∨ s.shell.frozen = true ∨ max s.clk.fab t.fab < f.manDeadline) : exec (.freeze t) s = .next (s.at t) := by
  have hf' : (s.at t).shapeNow = some f := hf
  change Host.Outcome.next _ = _
  rw [hf']
  refine congrArg Host.Outcome.next (if_neg ?_)
  rcases h with h | h | h
  · simp [h]
  · simp [h]
  · simp [Nat.not_le.mpr h]

/-- FREEZE in cycle Dm or later of a step that is not frozen. -/
theorem exec_freeze_of_due {s : State} {t : Time} {f : Shape} (hf : s.shapeNow = some f) (hstarted : s.shell.started = true)
    (hfrozen : s.shell.frozen = false) (hdue : f.manDeadline ≤ max s.clk.fab t.fab) : exec (.freeze t) s = .next (s.at t).freezeNow := by
  have hf' : (s.at t).shapeNow = some f := hf
  change Host.Outcome.next _ = _
  rw [hf']
  exact congrArg Host.Outcome.next (if_pos (by simp [hstarted, hfrozen, hdue]))

/-! ### The start of a step leaves the build buffer alone -/

theorem State.logErr_shell (s : State) (code : Nat) (slot : Option Nat) (d0 d1 d2 : Nat) : (s.logErr code slot d0 d1 d2).shell = s.shell :=
  State.shell_eq_of_hide (l := [.regs, .log]) (by decide) (State.logErr_hide (by decide) (by decide) code slot d0 d1 d2 s)

theorem State.startWork_shell (s : State) : s.startWork.shell = s.shell :=
  State.shell_eq_of_hide (l := [.str]) (by decide) (State.startWork_hide (by decide) s)

theorem State.sweepPins_shell (s : State) (slot upTo : Nat) : (s.sweepPins slot upTo).shell = s.shell :=
  State.shell_eq_of_hide (l := [.ren]) (by decide) (State.sweepPins_hide (by decide) slot upTo s)

theorem State.issueAll_shell (s : State) : s.issueAll.shell = s.shell :=
  State.shell_eq_of_hide (l := [.reqs, .rat]) (by decide) (State.issueAll_hide (by decide) (by decide) s)

theorem State.reweigh_shell (s : State) : s.reweigh.shell = s.shell :=
  State.shell_eq_of_hide (l := [.reqs]) (by decide) (State.reweigh_hide (by decide) s)

/-- A fabric event counts a pulse on fs_err, and changes nothing else of the shell. -/
theorem State.logFabric_shell (s : State) (code : Nat) (slot : Option Nat) (d0 d1 d2 : Nat) :
    (s.logFabric code slot d0 d1 d2).shell = { s.shell with errPulses := s.shell.errPulses + 1 } := by
  rw [State.logFabric, State.modShell_shell, State.logErr_shell]

theorem State.crossingLog_shell (s : State) : ∃ k, s.crossingLog.shell = { s.shell with errPulses := k } := by
  refine List.foldlRecOn (motive := fun (u : State) => ∃ k, u.shell = { s.shell with errPulses := k }) _ _ ⟨s.shell.errPulses, rfl⟩ ?_
  rintro u ⟨k, hu⟩ g -
  split
  · exact ⟨_, by rw [State.logFabric_shell, hu]⟩
  · exact ⟨k, hu⟩

theorem State.freeTiles_building (s : State) : s.freeTiles.shell.building = s.shell.building := rfl

theorem foldl_building {α : Type} {f : State → α → State} (h : ∀ s x, (f s x).shell.building = s.shell.building) (l : List α) (s : State) :
    (l.foldl f s).shell.building = s.shell.building :=
  List.foldlRecOn (motive := fun (u : State) => u.shell.building = s.shell.building) l f rfl (fun u hu x _ => (h u x).trans hu)

theorem State.dropRows_building (s : State) (gone : Row → Bool) : (s.dropRows gone).shell.building = s.shell.building := by
  unfold State.dropRows
  dsimp only
  rw [State.startWork_shell, State.freeTiles_building]
  exact foldl_building (fun u r => by rw [State.sweepPins_shell]) _ _

theorem State.markOne_building {here : State → State} (hhere : ∀ u, (here u).shell.building = u.shell.building) (s : State) (slot cause : Nat) :
    (s.markOne here slot cause).shell.building = s.shell.building := by
  have hmark : ∀ u : State, (if u.reqs.settled.contains slot then u else here u).shell.building = u.shell.building := by
    intro u
    split
    · rfl
    · exact hhere u
  unfold State.markOne
  split
  · rfl
  · cases s.reqOfSlot slot with
    | none => exact hmark s
    | some r => exact hmark (s.modReq r.handle (fun r => r.countDry cause))

theorem State.markPair_building {here : Nat → State → State} (hhere : ∀ i u, (here i u).shell.building = u.shell.building) (s : State)
    (slot cause : Nat) : (s.markPair here slot cause).shell.building = s.shell.building := by
  unfold State.markPair
  dsimp only
  split
  · rw [State.markOne_building (hhere _), State.markOne_building (hhere _)]
  · rw [State.markOne_building (hhere _)]

theorem State.markDry_building (s : State) (slot cause : Nat) : (s.markDry slot cause).shell.building = s.shell.building := by
  rw [State.markDry, State.markPair_building]
  exact fun _ _ => rfl

theorem State.keepLost_building (s : State) : s.keepLost.shell.building = s.shell.building := by
  unfold State.keepLost
  split
  · split
    · rfl
    · exact foldl_building (fun u i => u.markDry_building i dryRoundTimeout) _ s
  · rfl

/-- A step that begins with no write waiting leaves the build buffer as it is. -/
theorem State.beginStep_building {s : State} (h : s.shell.held = []) (n : Nat) : (s.beginStep n).shell.building = s.shell.building := by
  unfold State.beginStep
  extract_lets s₀ next s₁ fab s₂ s₃ s₄ live s₅
  have hrows : s₁.shell.building = s.shell.building :=
    (s₀.dropRows_building _).trans (by rw [show s₀ = s from State.flushHeld_of_held_nil h])
  have hwork : s₅.shell.building = s₁.shell.building := by
    simp only [s₅, State.startWork_shell]
    rfl
  have hmarks := foldl_building (fun u (d : Nat × Nat) => u.markDry_building d.1 d.2) next s₅.issueAll
  rw [State.reweigh_shell, State.keepLost_building, hmarks, State.issueAll_shell, hwork, hrows]

/-- A pulse that comes before the freeze freezes at once. -/
theorem State.laterStart_building {s : State} {b : Buffer} (hb : s.shell.building = some b) (hfrozen : s.shell.frozen = false) (c : Buffer) :
    ∃ d, (s.laterStart c).shell.building = some d ∧ d.step = b.step + 1 ∧ d.opened := by
  have hbegin : ∀ (u : State) (n : Nat), u.shell.freshBuild (b.step + 1) →
      ∃ d, (u.beginStep n).shell.building = some d ∧ d.step = b.step + 1 ∧ d.opened := by
    rintro u n ⟨hheld, hopen⟩
    rwa [State.beginStep_building hheld]
  obtain ⟨k, hcross⟩ := s.crossingLog_shell
  unfold State.laterStart
  extract_lets fab len a n s₁ s₂ s₃ s₄
  have hs₂ : s₂.shell.building = some b ∧ s₂.shell.frozen = false := by
    rw [State.modShell_shell, hcross]
    exact ⟨hb, hfrozen⟩
  have hfresh : s₃.shell.freshBuild (b.step + 1) := by
    rw [show s₃ = s₂.freezeNow from if_neg (Bool.eq_false_iff.mp hs₂.2)]
    exact State.freezeNow_freshBuild hs₂.1
  split
  · exact hbegin _ _ (by rw [State.logFabric_shell]; exact hfresh)
  · split
    · exact hbegin _ _ (by rw [State.logErr_shell]; exact hfresh)
    · exact hbegin _ _ hfresh

theorem exec_stepStart_of_later {s : State} {sv b : Buffer} (hserving : s.shell.serving = some sv) (hcurrent : s.shell.current = some b)
    (t : Time) : exec (.stepStart t) s = .next ((s.at t).laterStart b) := by
  change Host.Outcome.next _ = _
  rw [State.at_shell, hserving, hcurrent]

/-- Settles O39: `State.freezeNow_shell` says what a freeze leaves in the shell, at its own event and at an early pulse alike;
a buffer that opens has no cells, and so holds the defaults (`Buffer.opened_fresh`). -/
theorem freezeOpensDefaults : Obligations.FreezeOpensDefaults := by
  unfold Obligations.FreezeOpensDefaults
  intro s t b hb
  refine ⟨fun f hf hstarted hfrozen hdue => ?_, fun f hf h => exec_freeze_of_not_due hf h, fun hserving hcurrent hfrozen => ?_,
    fun h f first hnone => ⟨_, Shell.takeShape_building hnone f first, Buffer.opened_fresh _ _⟩,
    fun i hearly hcells => Buffer.entryAt_of_unwritten hearly hcells⟩
  · have hexec := exec_freeze_of_due hf hstarted hfrozen hdue
    obtain ⟨c, hc, hstep, hshape, hserve, hopen, hfroz, hcut, hheld⟩ := State.freezeNow_shell (s := s.at t) hb
    refine ⟨_, hexec, hfroz, hcut, hheld, fun hnil halone => ?_, fun hnil hrounds hduty hearly i hi hhome hcells => ?_, ?_,
      ⟨_, hopen, rfl, Buffer.opened_fresh _ _, rfl⟩, execFreeze_hide (by decide) (by decide) (by decide) t hexec⟩
    · rw [hserve, hc hnil, State.flushHeld_of_held_nil (s := s.at t) hnil, State.noDecision_of_alone (s := s.at t) halone]
    · have hpart : ((s.at t).rounds.isSome && (s.at t).duty 2) = true := (Bool.and_eq_true _ _).mpr ⟨hrounds, hduty⟩
      rw [hserve, hc hnil, State.flushHeld_of_held_nil (s := s.at t) hnil, Option.map_some,
        State.noDecision_entryAt hpart hearly hi hhome hcells]
      rfl
    · obtain ⟨hstep', hshape'⟩ := (s.at t).flushHeld.noDecision_step_shape c
      exact ⟨_, hserve, hstep'.trans hstep, hshape'.trans hshape⟩
  · obtain ⟨sv, hsv⟩ := Option.isSome_iff_exists.mp hserving
    obtain ⟨c, hc⟩ := Option.isSome_iff_exists.mp hcurrent
    obtain ⟨d, hd⟩ := State.laterStart_building (s := s.at t) hb hfrozen c
    exact ⟨_, d, exec_stepStart_of_later hsv hc t, hd⟩

end Sys2Proof.Machine
end

section
/-! PROOFS. The good rows of a bank (R45): what `physRow` does over any list of rows mapped out, then the bank's own list. -/

namespace Sys2Proof.Machine

/-! ### The row of a good index, over a list of rows mapped out -/

theorem physRow_cons_of_le {m g : Nat} (h : m ≤ g) (r : List Nat) : physRow (m :: r) g = physRow r (g + 1) := if_pos h

theorem physRow_cons_of_lt {m g : Nat} (h : g < m) (r : List Nat) : physRow (m :: r) g = g := if_neg (Nat.not_le.mpr h)

theorem physRow_of_forall_lt {l : List Nat} {g : Nat} (h : ∀ m ∈ l, g < m) : physRow l g = g := by
  cases l with
  | nil => rfl
  | cons m r => exact physRow_cons_of_lt (h m List.mem_cons_self) r

theorem le_physRow (l : List Nat) (g : Nat) : g ≤ physRow l g := by
  induction l generalizing g with
  | nil => exact Nat.le_refl g
  | cons m r ih =>
    rcases Nat.lt_or_ge g m with hlt | hle
    · rw [physRow_cons_of_lt hlt]
    · rw [physRow_cons_of_le hle]
      exact Nat.le_of_succ_le (ih (g + 1))

theorem physRow_le_add_length (l : List Nat) (g : Nat) : physRow l g ≤ g + l.length := by
  induction l generalizing g with
  | nil => exact Nat.le_refl g
  | cons m r ih =>
    rcases Nat.lt_or_ge g m with hlt | hle
    · rw [physRow_cons_of_lt hlt]
      exact Nat.le_add_right g _
    · rw [physRow_cons_of_le hle, List.length_cons]
      have := ih (g + 1)
      omega

theorem physRow_strictMono (l : List Nat) : StrictMono (physRow l) := by
  induction l with
  | nil => exact strictMono_id
  | cons m r ih =>
    intro g h hgh
    rcases Nat.lt_or_ge g m with hg | hg
    · rw [physRow_cons_of_lt hg]
      exact hgh.trans_le (le_physRow _ h)
    · rw [physRow_cons_of_le hg, physRow_cons_of_le (hg.trans hgh.le)]
      exact ih (Nat.succ_lt_succ hgh)

/-- In an ascending list the index steps past each row mapped out at or below it, and the rows left are all above it. -/
theorem physRow_notMem {l : List Nat} (hasc : l.Pairwise (· < ·)) (g : Nat) : physRow l g ∉ l := by
  induction l generalizing g with
  | nil => exact List.not_mem_nil
  | cons m r ih =>
    obtain ⟨hm, hr⟩ := List.pairwise_cons.mp hasc
    rcases Nat.lt_or_ge g m with hlt | hle
    · rw [physRow_cons_of_lt hlt]
      exact fun hmem => (List.forall_mem_cons.mpr ⟨hlt, fun q hq => hlt.trans (hm q hq)⟩ g hmem).false
    · rw [physRow_cons_of_le hle]
      exact List.not_mem_cons_of_ne_of_not_mem (hle.trans_lt (le_physRow r (g + 1))).ne' (ih hr (g + 1))

/-- Every row below `n` that is not mapped out has a good index, below the count of good rows. For a row below the first one
mapped out, the count comes from that first one: over the rest of the list it has itself for good index. -/
theorem exists_physRow_eq {l : List Nat} {n p : Nat} (hasc : l.Pairwise (· < ·)) (hl : ∀ m ∈ l, m < n) (hp : p < n) (hmem : p ∉ l) :
    ∃ g, g + l.length < n ∧ physRow l g = p := by
  induction l generalizing p with
  | nil => exact ⟨p, hp, rfl⟩
  | cons m r ih =>
    obtain ⟨hm, hr⟩ := List.pairwise_cons.mp hasc
    obtain ⟨hmn, hrn⟩ := List.forall_mem_cons.mp hl
    obtain ⟨hne, hpr⟩ := List.ne_and_not_mem_of_not_mem_cons hmem
    have hself : physRow r m = m := physRow_of_forall_lt hm
    rw [List.length_cons]
    rcases Nat.lt_or_gt_of_ne hne with hlt | hgt
    · obtain ⟨g, hg, hgm⟩ := ih hr hrn hmn fun h => (hm m h).false
      obtain rfl : g = m := (physRow_strictMono r).injective (hgm.trans hself.symm)
      exact ⟨p, by omega, physRow_cons_of_lt hlt r⟩
    · obtain ⟨g, hg, hgp⟩ := ih hr hrn hp hpr
      have hmg : m < g := (physRow_strictMono r).lt_iff_lt.mp (by rwa [hself, hgp])
      obtain ⟨k, rfl⟩ := Nat.exists_eq_add_one_of_ne_zero (Nat.ne_zero_of_lt hmg)
      exact ⟨k, by omega, (physRow_cons_of_le (Nat.le_of_lt_succ hmg) r).trans hgp⟩

/-! ### The rows mapped out of a bank -/

theorem Vat.mem_outRows {v : Vat} {bank r : Nat} : r ∈ v.outRows bank ↔ r < 2048 ∧ bank * 2048 + r ∈ v.mapOut := by
  simp only [Vat.outRows, List.mem_map, List.mem_filter, beq_iff_eq]
  constructor
  · rintro ⟨p, ⟨hp, rfl⟩, rfl⟩
    exact ⟨Nat.mod_lt p (by decide), (Nat.div_add_mod' p 2048).symm ▸ hp⟩
  · rintro ⟨hr, hmem⟩
    exact ⟨_, ⟨hmem, by omega⟩, by omega⟩

theorem Vat.outRows_ascending {v : Vat} (hasc : v.mapOut.Pairwise (· < ·)) (bank : Nat) : (v.outRows bank).Pairwise (· < ·) := by
  refine List.pairwise_map.mpr ((hasc.filter _).imp_of_mem fun {p q} hp hq hpq => ?_)
  have hpb := beq_iff_eq.mp (List.mem_filter.mp hp).2
  have hqb := beq_iff_eq.mp (List.mem_filter.mp hq).2
  omega

theorem Vat.goodRows_of_notMem_dead {v : Vat} {bank : Nat} (h : bank ∉ v.dead) : v.goodRows bank = 2048 - (v.outRows bank).length :=
  if_neg (by rwa [List.contains_iff_mem])

/-! ### The PRA of a good index -/

theorem Vat.physRow_outRows_lt {v : Vat} {bank g : Nat} (h : g < v.goodRows bank) : physRow (v.outRows bank) g < 2048 := by
  have hlive : bank ∉ v.dead := fun hdead =>
    (Nat.not_lt_zero g) (h.trans_eq (if_pos (List.contains_iff_mem.mpr hdead)))
  rw [Vat.goodRows_of_notMem_dead hlive] at h
  have := physRow_le_add_length (v.outRows bank) g
  omega

theorem Vat.pra_div {v : Vat} {bank g : Nat} (h : g < v.goodRows bank) : v.pra bank g / 2048 = bank := by
  have := Vat.physRow_outRows_lt h
  unfold Vat.pra
  omega

theorem Vat.pra_strictMono (v : Vat) (bank : Nat) : StrictMono (v.pra bank) := fun _ _ h =>
  Nat.add_lt_add_left (physRow_strictMono _ h) _

theorem Vat.pra_notMem_mapOut {v : Vat} {bank g : Nat} (hasc : v.mapOut.Pairwise (· < ·)) (h : g < v.goodRows bank) :
    v.pra bank g ∉ v.mapOut := fun hmem =>
  physRow_notMem (Vat.outRows_ascending hasc bank) g (Vat.mem_outRows.mpr ⟨Vat.physRow_outRows_lt h, hmem⟩)

theorem Vat.exists_pra_eq {v : Vat} {p : Nat} (hasc : v.mapOut.Pairwise (· < ·)) (hlive : p / 2048 ∉ v.dead) (hp : p ∉ v.mapOut) :
    ∃ g, g < v.goodRows (p / 2048) ∧ v.pra (p / 2048) g = p := by
  have hgood : p % 2048 ∉ v.outRows (p / 2048) := fun h => by
    have hmem := (Vat.mem_outRows.mp h).2
    rw [Nat.div_add_mod'] at hmem
    exact hp hmem
  obtain ⟨g, hg, hrow⟩ := exists_physRow_eq (Vat.outRows_ascending hasc _) (fun _ h => (Vat.mem_outRows.mp h).1)
    (Nat.mod_lt p (by decide)) hgood
  refine ⟨g, ?_, ?_⟩
  · rw [Vat.goodRows_of_notMem_dead hlive]
    omega
  · rw [Vat.pra, hrow, Nat.div_add_mod']

/-- Settles O22: `physRow` over the bank's ascending list of rows mapped out is strictly increasing, misses the list, and
reaches every other row (`exists_physRow_eq`); a PRA is that row in the bank. -/
theorem goodIndexNumbersGoodRows : Obligations.GoodIndexNumbersGoodRows := by
  unfold Obligations.GoodIndexNumbersGoodRows
  intro v bank hasc hlive
  refine ⟨fun g hg => ⟨Vat.pra_div hg, Vat.pra_notMem_mapOut hasc hg⟩, fun g h hgh => v.pra_strictMono bank hgh, fun p hbank hp => ?_⟩
  subst hbank
  exact Vat.exists_pra_eq hasc hlive hp

end Sys2Proof.Machine
end

section
/-! PROOFS. The commands on a request's handle (R300, R302): CANCEL_REQUEST (R313), READ_REQUEST (R327), SET_GRAMMAR (R192)
and POST_DRAFTS (R167, R419). -/

namespace Sys2Proof.Machine

/-! ### Cellar accesses write nothing to host memory -/

@[simp] theorem Ports.celIssue_host (n : Nat) (p : Ports) : (Ports.celIssue n p).host = p.host := by
  induction n generalizing p with
  | zero => rfl
  | succ n ih =>
    unfold Ports.celIssue
    split
    · exact ih _
    · rfl

@[simp] theorem State.recordAccess_host (s : State) (i : Nat) (wr : Bool) : (s.recordAccess i wr).ports.host = s.ports.host :=
  Ports.celIssue_host _ _

@[simp] theorem State.celDone_host (s : State) (use : CelUse) : (s.celDone use).ports.host = s.ports.host :=
  Ports.celIssue_host _ _

@[simp] theorem State.recordNow_host (s : State) (h : Handle) (wr : Bool) : (s.recordNow h wr).ports.host = s.ports.host := by
  rw [State.recordNow, State.celDone_host, State.recordAccess_host]

/-! ### A request changed, a record used -/

@[simp] theorem State.modReq_ports (h : Handle) (f : Request → Request) (s : State) : (s.modReq h f).ports = s.ports := rfl
@[simp] theorem State.modReq_mbox (h : Handle) (f : Request → Request) (s : State) : (s.modReq h f).mbox = s.mbox := rfl
@[simp] theorem State.useHot_ports (s : State) (h : Handle) : (s.useHot h).ports = s.ports := rfl

/-- The use of a record changes requests and ports alone. -/
theorem State.useRecord_frame (s : State) (h : Handle) : (s.useRecord h).hide [.reqs, .ports] = s.hide [.reqs, .ports] :=
  State.useRecord_hide (by decide) (by decide) h s

@[simp] theorem State.useRecord_clk (s : State) (h : Handle) : (s.useRecord h).clk = s.clk :=
  (congrArg State.clk (s.useRecord_frame h) :)
@[simp] theorem State.useRecord_ren (s : State) (h : Handle) : (s.useRecord h).ren = s.ren :=
  (congrArg State.ren (s.useRecord_frame h) :)
@[simp] theorem State.useRecord_churn (s : State) (h : Handle) : (s.useRecord h).churn = s.churn :=
  (congrArg State.churn (s.useRecord_frame h) :)
@[simp] theorem State.useRecord_mbox (s : State) (h : Handle) : (s.useRecord h).mbox = s.mbox :=
  (congrArg State.mbox (s.useRecord_frame h) :)

/-- A record comes hot, or is read and written in place, through the cellar alone (R300, R302). -/
@[simp] theorem State.useRecord_host (s : State) (h : Handle) : (s.useRecord h).ports.host = s.ports.host := by
  cases hr : s.findReq h with
  | none => simp only [State.useRecord, hr]
  | some r =>
    simp only [State.useRecord, hr]
    split
    · simp only [State.useHot_ports]
    split
    · simp only [State.useHot_ports, State.modReq_ports, State.celDone_host]
    split
    · simp only [State.useHot_ports, State.modReq_ports, State.recordNow_host]
    split <;> simp only [State.useHot_ports, State.modReq_ports, State.recordNow_host]

/-! ### What the commands read of the state -/

/-- A grammar binding is checked against rennet's images alone. -/
theorem State.grammarStatus_congr {s u : State} (hren : u.ren = s.ren) (handle start : Word) (v : Option Vocab) (follow : Bool) :
    u.grammarStatus handle start v follow = s.grammarStatus handle start v follow := by
  simp only [State.grammarStatus, State.grammarOf, hren]

theorem State.startState_congr {s u : State} (hren : u.ren = s.ren) (handle start : Word) :
    u.startState handle start = s.startState handle start := by
  simp only [State.startState, State.grammarOf, hren]

theorem State.reqVocab_congr {s u : State} (hchurn : u.churn = s.churn) (r : Request) : u.reqVocab r = s.reqVocab r := by
  simp only [State.reqVocab, hchurn]

/-- A telemetry record is made of its request, the AON time and churn's counters (Table 13-9). -/
theorem State.telemetry_congr {s u : State} (hclk : u.clk = s.clk) (hchurn : u.churn = s.churn) (r : Request) (state : Nat) :
    u.telemetry r state = s.telemetry r state := by
  simp only [State.telemetry, State.churnCounters, State.streamOf, State.now, hclk, hchurn]

theorem State.telemetry_length (s : State) (r : Request) (state : Nat) : (s.telemetry r state).length = 256 := leBytes_length _ _

theorem State.hostWrite_telemetry_host (s v : State) (dest : BitVec 64) (r : Request) (state : Nat) :
    (v.hostWrite dest (s.telemetry r state)).ports.host = v.ports.host ++ [(dest, s.telemetry r state)] := by
  have hne : (s.telemetry r state).isEmpty = false :=
    List.isEmpty_eq_false_iff.mpr (List.ne_nil_of_length_pos (by rw [State.telemetry_length]; decide))
  simp only [State.hostWrite, hne, Bool.false_eq_true, if_false, State.modPorts_ports]

/-! ### Responses of a command that has used a record -/

/-- An answer given in a state with the mailboxes of an earlier one is the earlier one's response, behind the host writes made
since. -/
theorem State.responds_answer {s v : State} {b : Sender} {pre : List (BitVec 64 × List Byte)} (hfree : s.ringFree b.ctx.toNat)
    (hmbox : v.mbox = s.mbox) (hhost : v.ports.host = s.ports.host ++ pre) (op status : Nat) (body : List Byte) :
    s.responds (v.answer b op status body) b op status body pre := by
  have hctx : v.ctx b.ctx.toNat = s.ctx b.ctx.toNat := by simp only [State.ctx, hmbox]
  have hvfree : v.ringFree b.ctx.toNat := by simpa only [State.ringFree, hctx, hmbox] using hfree
  obtain ⟨hwrite, hafter⟩ := State.answer_responds hvfree op status body
  refine ⟨?_, ?_⟩
  · rw [hwrite, hhost, List.append_nil]
    simp only [State.responseWrite, hctx]
  · rw [hafter, hctx]

section
variable {s : State} {b : Sender} (hfree : s.ringFree b.ctx.toNat) (t : Time) (h : Handle) (op : Nat)
include hfree

/-- A command refused before it names a request changes none. -/
theorem State.refuse_responds (status : Nat) :
    s.responds ((s.at t).refuse b op status) b op status [] [] ∧ ((s.at t).refuse b op status).reqs = s.reqs :=
  ⟨State.responds_answer hfree (State.at_mbox t s) (List.append_nil _).symm op status [], State.answer_reqs _ _ _ _ _⟩

/-- A handle that names no tracked request is refused (R300). -/
theorem State.onRequest_untracked (hr : s.findReq h = none) (f : State → Request → State) :
    s.responds ((s.at t).onRequest b op h f) b op stReqHandle [] [] ∧ ((s.at t).onRequest b op h f).reqs = s.reqs := by
  have hrt : (s.at t).findReq h = none := hr
  simpa only [State.onRequest, hrt] using State.refuse_responds hfree t op stReqHandle

/-- A refusal once the record is used changes no more of the requests. -/
theorem State.useRecord_refuse_responds (status : Nat) :
    s.responds (((s.at t).useRecord h).refuse b op status) b op status [] []
      ∧ (((s.at t).useRecord h).refuse b op status).reqs = ((s.at t).useRecord h).reqs :=
  ⟨State.responds_answer hfree (by rw [State.useRecord_mbox, State.at_mbox])
    (by rw [State.useRecord_host, State.at_ports, List.append_nil]) op status [], State.answer_reqs _ _ _ _ _⟩

/-- An acceptance that changes the request is answered with ST_OK. -/
theorem State.useRecord_modReq_responds (f : Request → Request) :
    s.responds ((((s.at t).useRecord h).modReq h f).answer b op stOk []) b op stOk [] []
      ∧ ((((s.at t).useRecord h).modReq h f).answer b op stOk []).reqs = (((s.at t).useRecord h).modReq h f).reqs :=
  ⟨State.responds_answer hfree (by rw [State.modReq_mbox, State.useRecord_mbox, State.at_mbox])
    (by rw [State.modReq_ports, State.useRecord_host, State.at_ports, List.append_nil]) op stOk [], State.answer_reqs _ _ _ _ _⟩

end

/-- A command on a tracked request uses its record and runs on the request as it was found. -/
theorem State.onRequest_tracked {s : State} {h : Handle} {r : Request} (hr : s.findReq h = some r) (t : Time) (b : Sender) (op : Nat)
    (f : State → Request → State) : (s.at t).onRequest b op h f = f ((s.at t).useRecord h) r := by
  have hrt : (s.at t).findReq h = some r := hr
  simp only [State.onRequest, hrt]

/-! ### The commands on a tracked request -/

section
variable {s : State} {b : Sender} {h : Handle} {r : Request} (hfree : s.ringFree b.ctx.toNat) (hr : s.findReq h = some r) (t : Time)
include hfree hr

/-- The three forms of R313, by the request's state. -/
theorem cmdCancel_tracked {u : State} (hu : u = cmdCancel b h (s.at t)) :
    if r.st = .ending then s.responds u b opCancelRequest stReqEnding [] [] ∧ u.reqs = ((s.at t).useRecord h).reqs
    else if r.st = .slotted then s.responds u b opCancelRequest stOk [] []
      ∧ u.reqs = (((s.at t).useRecord h).modReq h (fun r => { r with cancel := true })).reqs
    else u = (((s.at t).useRecord h).endOutput h endCancelled true).answer b opCancelRequest stOk [] := by
  rw [cmdCancel, State.onRequest_tracked hr] at hu
  subst hu
  cases hst : r.st with
  | ending => exact State.useRecord_refuse_responds hfree t h opCancelRequest stReqEnding
  | slotted => exact State.useRecord_modReq_responds hfree t h opCancelRequest _
  | encoding | waiting | paused => rfl

/-- The telemetry is written before the response (R327). -/
theorem cmdReadRequest_tracked (dest : BitVec 64) {u : State} (hu : u = cmdReadRequest b h dest (s.at t)) :
    u.reqs = ((s.at t).useRecord h).reqs
      ∧ if dest.toNat % 8 = 0 then s.responds u b opReadRequest stOk [BitVec.ofNat 8 r.st.code, 0, 0, 0] [(dest, (s.at t).telemetry r r.st.code)]
        else s.responds u b opReadRequest stReqParam [] [] := by
  rw [cmdReadRequest, State.onRequest_tracked hr] at hu
  by_cases hdest : dest.toNat % 8 = 0
  · rw [if_neg (not_not.mpr hdest), State.telemetry_congr (State.useRecord_clk _ h) (State.useRecord_churn _ h)] at hu
    subst hu
    rw [if_pos hdest]
    have hhost := State.hostWrite_telemetry_host (s.at t) ((s.at t).useRecord h) dest r r.st.code
    rw [State.useRecord_host, State.at_ports] at hhost
    refine ⟨?_, State.responds_answer hfree ?_ hhost _ _ _⟩
    · rw [State.answer_reqs, State.hostWrite]
      split <;> rfl
    · rw [State.hostWrite_mbox, State.useRecord_mbox, State.at_mbox]
  · rw [if_pos hdest] at hu
    subst hu
    rw [if_neg hdest]
    exact (State.useRecord_refuse_responds hfree t h opReadRequest stReqParam).symm

/-- An accepted switch waits in the request (R192). -/
theorem cmdSetGrammar_tracked (handle start : Word) {u : State} (hu : u = cmdSetGrammar b h handle start (s.at t)) :
    if r.st = .ending then s.responds u b opSetGrammar stReqEnding [] [] ∧ u.reqs = ((s.at t).useRecord h).reqs
    else if s.grammarStatus handle start (s.reqVocab r) r.sampling.follow = stOk then
      s.responds u b opSetGrammar stOk [] []
        ∧ u.reqs = (((s.at t).useRecord h).modReq h (fun r =>
            { r with switchTo := some (if handle = 0 then none else some (handle, s.startState handle start)) })).reqs
    else s.responds u b opSetGrammar (s.grammarStatus handle start (s.reqVocab r) r.sampling.follow) [] []
      ∧ u.reqs = ((s.at t).useRecord h).reqs := by
  have hren : ((s.at t).useRecord h).ren = s.ren := State.useRecord_ren _ h
  have hchurn : ((s.at t).useRecord h).churn = s.churn := State.useRecord_churn _ h
  rw [cmdSetGrammar, State.onRequest_tracked hr] at hu
  simp only [State.reqVocab_congr hchurn, State.grammarStatus_congr hren, State.startState_congr hren] at hu
  by_cases hending : r.st = .ending
  · rw [if_pos hending] at hu ⊢
    exact hu ▸ State.useRecord_refuse_responds hfree t h opSetGrammar stReqEnding
  rw [if_neg hending] at hu ⊢
  by_cases hok : s.grammarStatus handle start (s.reqVocab r) r.sampling.follow = stOk
  · rw [if_neg (not_not.mpr hok)] at hu
    rw [if_pos hok]
    exact hu ▸ State.useRecord_modReq_responds hfree t h opSetGrammar _
  · rw [if_pos hok] at hu
    rw [if_neg hok]
    exact hu ▸ State.useRecord_refuse_responds hfree t h opSetGrammar _

end

/-- How many tokens the vocabulary bound to a request has, by which posted tokens are judged (R419). -/
def State.draftVocabLen (s : State) (r : Request) : Nat := match s.reqVocab r with | some v => vocabLen v | none => 0

/-- POST_DRAFTS's fourth check fails where a set of 1 to 8 good tokens is not there whole (R419). -/
theorem draftSet_refused_iff (count : Nat) (tokens : List Word) (ok : Bool) :
    (count = 0 ∨ 8 < count ∨ (tokens.take count).length < count ∨ (!ok) = true)
      ↔ ¬ (1 ≤ count ∧ count ≤ 8 ∧ count ≤ tokens.length ∧ ok = true) := by
  rw [List.length_take]
  cases ok with
  | false => simp
  | true => simp; omega

/-- The checks of R419 in their order, once the handle is known; an accepted set replaces the one before (R167). -/
theorem cmdPostDrafts_tracked {s : State} {b : Sender} {h : Handle} {r : Request} (hfree : s.ringFree b.ctx.toNat)
    (hr : s.findReq h = some r) (t : Time) (pos0 : Word) {count : Nat} {tokens : List Word}
    (hclear : draftWordsClear count tokens = true) {u : State} (hu : u = cmdPostDrafts b h pos0 count tokens (s.at t)) :
    if r.st = .ending then s.responds u b opPostDrafts stReqEnding [] [] ∧ u.reqs = ((s.at t).useRecord h).reqs
    else if r.spec.src ≠ 2 ∧ r.spec.src ≠ 3 then s.responds u b opPostDrafts stDraftReq [] [] ∧ u.reqs = ((s.at t).useRecord h).reqs
    else if 1 ≤ count ∧ count ≤ 8 ∧ count ≤ tokens.length ∧ (tokens.take count).all (draftOk (s.draftVocabLen r)) = true then
      s.responds u b opPostDrafts stOk [] []
        ∧ u.reqs = (((s.at t).useRecord h).modReq h (fun r =>
            { r with posted := some (pos0.toNat, (tokens.take count).map (fun w => BitVec.ofNat 24 w.toNat)) })).reqs
    else s.responds u b opPostDrafts stDraftFormat [] [] ∧ u.reqs = ((s.at t).useRecord h).reqs := by
  have hchurn : ((s.at t).useRecord h).churn = s.churn := State.useRecord_churn _ h
  rw [cmdPostDrafts, hclear, Bool.not_true, if_neg Bool.false_ne_true, State.onRequest_tracked hr] at hu
  simp only [State.reqVocab_congr hchurn] at hu
  have hform := draftSet_refused_iff count tokens ((tokens.take count).all (draftOk (s.draftVocabLen r)))
  split_ifs at hu with hending hsrc hbad
  · rw [if_pos hending]
    exact hu ▸ State.useRecord_refuse_responds hfree t h opPostDrafts stReqEnding
  · rw [if_neg hending, if_pos hsrc]
    exact hu ▸ State.useRecord_refuse_responds hfree t h opPostDrafts stDraftReq
  · rw [if_neg hending, if_neg hsrc, if_neg (hform.mp hbad)]
    exact hu ▸ State.useRecord_refuse_responds hfree t h opPostDrafts stDraftFormat
  · rw [if_neg hending, if_neg hsrc, if_pos (not_not.mp (mt hform.mpr hbad))]
    exact hu ▸ State.useRecord_modReq_responds hfree t h opPostDrafts _

/-! ### The commands as firmware serves them -/

section
variable {s : State} {b : Sender} (t : Time) (h : Handle)

theorem exec_cancelRequest_of_serves (hs : s.serves b opCancelRequest) :
    exec (.cancelRequest t b h) s = .next (cmdCancel b h (s.at t)) :=
  congrArg Host.Outcome.next (State.serve_serves ((State.serves_at t).mpr hs) _)

theorem exec_readRequest_of_serves (hs : s.serves b opReadRequest) (dest : BitVec 64) :
    exec (.readRequest t b h dest) s = .next (cmdReadRequest b h dest (s.at t)) :=
  congrArg Host.Outcome.next (State.serve_serves ((State.serves_at t).mpr hs) _)

theorem exec_setGrammar_of_serves (hs : s.serves b opSetGrammar) (handle start : Word) :
    exec (.setGrammar t b h handle start) s = .next (cmdSetGrammar b h handle start (s.at t)) :=
  congrArg Host.Outcome.next (State.serve_serves ((State.serves_at t).mpr hs) _)

theorem exec_postDrafts_of_serves (hs : s.serves b opPostDrafts) (pos0 : Word) (count : Nat) (tokens : List Word) :
    exec (.postDrafts t b h pos0 count tokens) s = .next (cmdPostDrafts b h pos0 count tokens (s.at t)) :=
  congrArg Host.Outcome.next (State.serve_serves ((State.serves_at t).mpr hs) _)

end

/-- Token words with a reserved bit set are refused before the handle is looked at. -/
theorem cmdPostDrafts_reserved {count : Nat} {tokens : List Word} (hclear : draftWordsClear count tokens = false) (b : Sender)
    (h : Handle) (pos0 : Word) (s : State) : cmdPostDrafts b h pos0 count tokens s = s.refuse b opPostDrafts stCmdReserved := by
  rw [cmdPostDrafts, hclear, Bool.not_false, if_pos rfl]

/-- POST_DRAFTS with clear words on a handle that names no tracked request. -/
theorem cmdPostDrafts_untracked {s : State} {b : Sender} {h : Handle} (hfree : s.ringFree b.ctx.toNat) (hr : s.findReq h = none)
    (t : Time) (pos0 : Word) {count : Nat} {tokens : List Word} (hclear : draftWordsClear count tokens = true) :
    s.responds (cmdPostDrafts b h pos0 count tokens (s.at t)) b opPostDrafts stReqHandle [] []
      ∧ (cmdPostDrafts b h pos0 count tokens (s.at t)).reqs = s.reqs := by
  rw [cmdPostDrafts, hclear, Bool.not_true, if_neg Bool.false_ne_true]
  exact State.onRequest_untracked hfree t h opPostDrafts hr _

/-- Settles O17: each command is its meaning (`exec_…_of_serves`), framed by its `hide` law; the handle names no request
(`State.onRequest_untracked`) or one that the command's `…_tracked` lemma answers. -/
theorem requestCommandsAnswered : Obligations.RequestCommandsAnswered := by
  unfold Obligations.RequestCommandsAnswered
  intro s t b h hfree
  refine ⟨fun hs => ?_, fun dest hs => ?_, fun handle start hs => ?_, fun pos0 count tokens hclear hs => ?_,
    fun pos0 count tokens hclear hs => ?_⟩
  case refine_1 =>
    have hexec := exec_cancelRequest_of_serves t h hs
    refine ⟨_, hexec, ?_, execCancelRequest_hide (by decide) (by decide) (by decide) (by decide) (by decide) (by decide) (by decide)
      (by decide) (by decide) (by decide) t b h hexec⟩
    cases hr : s.findReq h with
    | none => exact State.onRequest_untracked hfree t h opCancelRequest hr _
    | some r => exact cmdCancel_tracked hfree hr t rfl
  case refine_2 =>
    have hexec := exec_readRequest_of_serves t h hs dest
    refine ⟨_, hexec, ?_, execReadRequest_hide (by decide) (by decide) (by decide) (by decide) (by decide) t b h dest hexec⟩
    cases hr : s.findReq h with
    | none => exact State.onRequest_untracked hfree t h opReadRequest hr _
    | some r => exact cmdReadRequest_tracked hfree hr t dest rfl
  case refine_3 =>
    have hexec := exec_setGrammar_of_serves t h hs handle start
    refine ⟨_, hexec, ?_, execSetGrammar_hide (by decide) (by decide) (by decide) (by decide) (by decide) t b h handle start hexec⟩
    cases hr : s.findReq h with
    | none => exact State.onRequest_untracked hfree t h opSetGrammar hr _
    | some r => exact cmdSetGrammar_tracked hfree hr t handle start rfl
  case refine_4 =>
    have hexec := exec_postDrafts_of_serves t h hs pos0 count tokens
    rw [cmdPostDrafts_reserved hclear] at hexec
    obtain ⟨hresponds, -⟩ := State.refuse_responds hfree t opPostDrafts stCmdReserved
    refine ⟨_, hexec, hresponds, ?_⟩
    exact (State.refuse_hide (by decide) (by decide) (by decide) b opPostDrafts stCmdReserved (s.at t)).trans (State.at_hide (by decide) t s)
  case refine_5 =>
    have hexec := exec_postDrafts_of_serves t h hs pos0 count tokens
    refine ⟨_, hexec, ?_, execPostDrafts_hide (by decide) (by decide) (by decide) (by decide) (by decide) t b h pos0 count tokens hexec⟩
    cases hr : s.findReq h with
    | none => exact cmdPostDrafts_untracked hfree hr t pos0 hclear
    | some r => exact cmdPostDrafts_tracked hfree hr t pos0 hclear rfl

end Sys2Proof.Machine
end

section
/-! PROOFS. The stores of the draw unit and of the skimmer: LOAD_LOGIT_PROGRAM and LOAD_BIAS_LIST (R117 to R120),
LOAD_STOP_SET and RELEASE_STOP_SET (R272 to R275). -/

namespace Sys2Proof.Machine

/-! ### A response leaves the stop sets alone -/

@[simp] theorem State.carried_sets (s : State) (c : Nat) : (s.carried c).skim.sets = s.skim.sets := rfl

@[simp] theorem State.ringDue_sets (s : State) (c : Nat) : (s.ringDue c).skim.sets = s.skim.sets := by
  unfold State.ringDue
  dsimp only
  (repeat' split) <;> rfl

@[simp] theorem State.bell_sets (s : State) (c : Nat) (h : Option Handle) : (s.bell c h).skim.sets = s.skim.sets := by
  rw [State.bell, State.ringDue_sets, State.modSkim_skim]
  split <;> rfl

@[simp] theorem State.hostWrite_skim (s : State) (a : BitVec 64) (bs : List Byte) : (s.hostWrite a bs).skim = s.skim := by
  unfold State.hostWrite
  split <;> rfl

@[simp] theorem State.ringWrite_sets (s : State) (c : Nat) (e : RingEntry) : (s.ringWrite c e).skim.sets = s.skim.sets := by
  unfold State.ringWrite
  dsimp only
  split
  · rw [State.bell_sets, State.modCtx_skim, State.hostWrite_skim]
  · rw [State.modCtx_skim, State.hostWrite_skim]

theorem State.answer_sets {s : State} {b : Sender} (hfree : s.ringFree b.ctx.toNat) (op status : Nat) (body : List Byte) :
    (s.answer b op status body).skim.sets = s.skim.sets := by
  have hcmds := State.ringFree_modCmds hfree (dropFirst (fun k => k.isFor b.tag op))
  have hdetaches := hfree.2.2.2
  unfold State.answer State.answerFirst
  dsimp only
  rw [State.giveResponse_free hcmds, State.tryDetaches_none (by rw [State.ringWrite_ctxs]; exact hdetaches), State.ringWrite_sets,
    State.modCtx_skim]

/-- A command that has touched neither the mailboxes nor the ports is answered, and its answer leaves alone what it has stored. -/
theorem State.answer_stored {s v u : State} {b : Sender} {op status : Nat} {body : List Byte} (hfree : s.ringFree b.ctx.toNat)
    (hu : u = v.answer b op status body) (hmbox : v.mbox = s.mbox) (hports : v.ports = s.ports) :
    s.responds u b op status body [] ∧ u.drw = v.drw ∧ u.skim.sets = v.skim.sets := by
  have hvfree : v.ringFree b.ctx.toNat := by simpa only [State.ringFree, State.ctx, hmbox] using hfree
  subst hu
  exact ⟨State.responds_answer hfree hmbox (by rw [hports, List.append_nil]) op status body, State.answer_drw _ _ _ _ _,
    State.answer_sets hvfree op status body⟩

/-! ### LOAD_LOGIT_PROGRAM -/

theorem cmdLoadProgram_of_ok {s : State} {prog image : Nat} (h : s.programStatus prog image = stOk) (b : Sender) :
    cmdLoadProgram b prog image s
      = (s.modDrw (fun d => { d with programs := tput prog (programOf image) d.programs })).answer b opLoadLogitProgram stOk [] :=
  if_neg (not_not.mpr h)

theorem cmdLoadProgram_of_refused {s : State} {prog image : Nat} (h : s.programStatus prog image ≠ stOk) (b : Sender) :
    cmdLoadProgram b prog image s = s.refuse b opLoadLogitProgram (s.programStatus prog image) := if_pos h

/-! ### LOAD_BIAS_LIST -/

/-- LOAD_BIAS_LIST takes a list whose source is known, of a good format and size, that no tracked request binds. -/
def State.takesBias (s : State) (list nent : Nat) (src : Option (List Byte)) (l : List BiasEntry) : Prop :=
  s.listBound list = false ∧ list ≤ 4095 ∧ nent ≤ 65536 ∧ src.bind (biasListOf nent) = some l
    ∧ s.drw.otherEntries list + nent ≤ Config.biasEntries

/-- The status of a bias list that is not taken, by the order of `cmdLoadBias`. -/
def State.biasRefusal (s : State) (list nent : Nat) (src : Option (List Byte)) : Nat :=
  if s.listBound list then stProgBusy
  else if 4095 < list ∨ 65536 < nent then stBiasFormat
  else match src with
    | none => stSource
    | some bs => if biasListOf nent bs = none then stBiasFormat else stBiasFull

theorem cmdLoadBias_of_takes {s : State} {list nent : Nat} {src : Option (List Byte)} {l : List BiasEntry}
    (h : s.takesBias list nent src l) (b : Sender) :
    cmdLoadBias b list nent src s = (s.modDrw (fun d => { d with bias := tput list l d.bias })).answer b opLoadBiasList stOk [] := by
  obtain ⟨hbound, hlist, hnent, hsrc, hroom⟩ := h
  obtain ⟨bs, rfl, hl⟩ := Option.bind_eq_some_iff.mp hsrc
  have hindex : ¬ (4095 < list ∨ 65536 < nent) := by omega
  simp only [cmdLoadBias, hbound, Bool.false_eq_true, if_false, hindex, hl, Nat.not_lt.mpr hroom]

theorem cmdLoadBias_of_refused {s : State} {list nent : Nat} {src : Option (List Byte)} (h : ∀ l, ¬ s.takesBias list nent src l)
    (b : Sender) : cmdLoadBias b list nent src s = s.refuse b opLoadBiasList (s.biasRefusal list nent src) := by
  unfold cmdLoadBias State.biasRefusal
  by_cases hbound : s.listBound list = true
  · simp only [hbound, if_true]
  by_cases hindex : 4095 < list ∨ 65536 < nent
  · simp only [hbound, Bool.false_eq_true, if_false, hindex, if_true]
  cases src with
  | none => simp only [hbound, Bool.false_eq_true, if_false, hindex]
  | some bs =>
    cases hl : biasListOf nent bs with
    | none => simp only [hbound, Bool.false_eq_true, if_false, hindex, hl, if_true]
    | some l =>
      have hfull : Config.biasEntries < s.drw.otherEntries list + nent := by
        by_contra hroom
        exact h l ⟨Bool.not_eq_true _ ▸ hbound, by omega, by omega, hl, by omega⟩
      simp only [hbound, Bool.false_eq_true, if_false, hindex, hl, hfull, if_true, reduceCtorEq]

/-! ### LOAD_STOP_SET -/

/-- LOAD_STOP_SET takes a set that is well formed and fits, at a free index. -/
def Skimmer.takesStop (k : Skimmer) (index len : Nat) (src : Option (List Byte)) (x : StopSet) : Prop :=
  index ≤ 4095 ∧ tget index k.sets = none ∧ src.bind (stopSetOf len) = some x ∧ k.roomFor x = true

/-- The status of a stop set that is not taken, by the order of Table 12-4. -/
def Skimmer.stopRefusal (k : Skimmer) (index len : Nat) (src : Option (List Byte)) : Nat :=
  if 4095 < index then stStopIndex
  else if (tget index k.sets).isSome then stStopBusy
  else match src with
    | none => stStopFormat
    | some bs => if stopSetOf len bs = none then stStopFormat else stStopFull

theorem cmdLoadStopSet_of_takes {s : State} {index len : Nat} {src : Option (List Byte)} {x : StopSet}
    (h : s.skim.takesStop index len src x) (b : Sender) (host : Bool) :
    cmdLoadStopSet b index host len src s = (s.modSkim (fun k => { k with sets := tput index x k.sets })).answer b opLoadStopSet stOk
      (leBytes 4 x.states ++ leBytes 4 x.edges) := by
  obtain ⟨hindex, hunused, hsrc, hroom⟩ := h
  obtain ⟨bs, rfl, hx⟩ := Option.bind_eq_some_iff.mp hsrc
  simp only [cmdLoadStopSet, Nat.not_lt.mpr hindex, if_false, hunused, Option.isSome_none, Bool.false_eq_true, hx, hroom, Bool.not_true]

/-- The one trace of a refused set is the log entry of a source that cannot be read. -/
theorem cmdLoadStopSet_of_refused {s : State} {index len : Nat} {src : Option (List Byte)} (h : ∀ x, ¬ s.skim.takesStop index len src x)
    (b : Sender) (host : Bool) :
    ∃ v : State, (v = s ∨ v = s.logErr errStopSource none index (b2n host) 0)
      ∧ cmdLoadStopSet b index host len src s = v.refuse b opLoadStopSet (s.skim.stopRefusal index len src) := by
  unfold cmdLoadStopSet Skimmer.stopRefusal
  by_cases hindex : 4095 < index
  · exact ⟨s, .inl rfl, by simp only [hindex, if_true]⟩
  by_cases hused : (tget index s.skim.sets).isSome = true
  · exact ⟨s, .inl rfl, by simp only [hindex, if_false, hused, if_true]⟩
  cases src with
  | none => exact ⟨_, .inr rfl, by simp only [hindex, if_false, hused, Bool.false_eq_true]⟩
  | some bs =>
    refine ⟨s, .inl rfl, ?_⟩
    cases hx : stopSetOf len bs with
    | none => simp only [hindex, if_false, hused, Bool.false_eq_true, hx, if_true]
    | some x =>
      have hfull : ¬ s.skim.roomFor x = true := fun hroom =>
        h x ⟨Nat.not_lt.mp hindex, Option.not_isSome_iff_eq_none.mp hused, hx, hroom⟩
      simp only [hindex, if_false, hused, Bool.false_eq_true, hx, hfull, Bool.not_false, if_true, reduceCtorEq]

/-- An error logged changes the log and the error registers. -/
theorem State.logErr_unseen (s : State) (code : Nat) (slot : Option Nat) (d0 d1 d2 : Nat) :
    (s.logErr code slot d0 d1 d2).mbox = s.mbox ∧ (s.logErr code slot d0 d1 d2).ports = s.ports
      ∧ (s.logErr code slot d0 d1 d2).skim = s.skim := by
  unfold State.logErr State.logAt
  dsimp only
  split <;> exact ⟨rfl, rfl, rfl⟩

/-! ### RELEASE_STOP_SET -/

theorem cmdReleaseStopSet_of_unloaded {s : State} {index : Nat} (hunloaded : tget index s.skim.sets = none) (b : Sender) :
    cmdReleaseStopSet b index s = s.refuse b opReleaseStopSet stStopIndex :=
  if_pos (Option.isNone_iff_eq_none.mpr hunloaded)

theorem cmdReleaseStopSet_of_loaded {s : State} {index : Nat} (hloaded : tget index s.skim.sets ≠ none) (b : Sender) :
    cmdReleaseStopSet b index s = if s.reqs.table.any (fun p => p.2.out.stop == some index) then s.refuse b opReleaseStopSet stStopBusy
      else (s.modSkim (fun k => { k with sets := tdel index k.sets })).answer b opReleaseStopSet stOk [] :=
  if_neg (mt Option.isNone_iff_eq_none.mp hloaded)

/-! ### The commands as firmware serves them -/

section
variable {s : State} {b : Sender} (t : Time)

theorem exec_loadLogitProgram_of_serves (hs : s.serves b opLoadLogitProgram) (prog : Nat) (image : BitVec 1024) :
    exec (.loadLogitProgram t b prog image) s = .next (cmdLoadProgram b prog image.toNat (s.at t)) :=
  congrArg Host.Outcome.next (State.serve_serves ((State.serves_at t).mpr hs) _)

theorem exec_loadBiasList_of_serves (hs : s.serves b opLoadBiasList) (list nent : Nat) (src : Option (List Byte)) :
    exec (.loadBiasList t b list nent src) s = .next (cmdLoadBias b list nent src (s.at t)) :=
  congrArg Host.Outcome.next (State.serve_serves ((State.serves_at t).mpr hs) _)

theorem exec_loadStopSet_of_serves (hs : s.serves b opLoadStopSet) (index : Nat) (host : Bool) (len : Nat) (src : Option (List Byte)) :
    exec (.loadStopSet t b index host len src) s = .next (cmdLoadStopSet b index host len src (s.at t)) :=
  congrArg Host.Outcome.next (State.serve_serves ((State.serves_at t).mpr hs) _)

theorem exec_releaseStopSet_of_serves (hs : s.serves b opReleaseStopSet) (index : Nat) :
    exec (.releaseStopSet t b index) s = .next (cmdReleaseStopSet b index (s.at t)) :=
  congrArg Host.Outcome.next (State.serve_serves ((State.serves_at t).mpr hs) _)

end

/-! ### What each command answers and stores -/

section
variable {s : State} {b : Sender} (hfree : s.ringFree b.ctx.toNat) (t : Time)
include hfree

theorem cmdLoadProgram_answered (prog image : Nat) {u : State} (hu : u = cmdLoadProgram b prog image (s.at t)) :
    s.responds u b opLoadLogitProgram (s.programStatus prog image) [] []
      ∧ u.drw = (if s.programStatus prog image = stOk then
          { s.drw with programs := tput prog (programOf image) s.drw.programs } else s.drw) := by
  by_cases hok : s.programStatus prog image = stOk
  · rw [cmdLoadProgram_of_ok (s := s.at t) hok] at hu
    obtain ⟨hresponds, hdrw, -⟩ := State.answer_stored hfree hu rfl rfl
    rw [if_pos hok, hok]
    exact ⟨hresponds, hdrw⟩
  · rw [cmdLoadProgram_of_refused (s := s.at t) hok] at hu
    obtain ⟨hresponds, hdrw, -⟩ := State.answer_stored hfree hu rfl rfl
    rw [if_neg hok]
    exact ⟨hresponds, hdrw⟩

theorem cmdLoadBias_answered (list nent : Nat) (src : Option (List Byte)) {u : State} (hu : u = cmdLoadBias b list nent src (s.at t)) :
    (∃ l, s.takesBias list nent src l ∧ s.responds u b opLoadBiasList stOk [] [] ∧ u.drw = { s.drw with bias := tput list l s.drw.bias })
      ∨ ((∀ l, ¬ s.takesBias list nent src l) ∧ s.responds u b opLoadBiasList (s.biasRefusal list nent src) [] [] ∧ u.drw = s.drw) := by
  by_cases htakes : ∃ l, s.takesBias list nent src l
  · obtain ⟨l, hl⟩ := htakes
    rw [cmdLoadBias_of_takes (s := s.at t) hl] at hu
    obtain ⟨hresponds, hdrw, -⟩ := State.answer_stored hfree hu rfl rfl
    exact .inl ⟨l, hl, hresponds, hdrw⟩
  · rw [not_exists] at htakes
    rw [cmdLoadBias_of_refused (s := s.at t) htakes] at hu
    obtain ⟨hresponds, hdrw, -⟩ := State.answer_stored hfree hu rfl rfl
    exact .inr ⟨htakes, hresponds, hdrw⟩

theorem cmdLoadStopSet_answered (index : Nat) (host : Bool) (len : Nat) (src : Option (List Byte)) {u : State}
    (hu : u = cmdLoadStopSet b index host len src (s.at t)) :
    (∃ x, s.skim.takesStop index len src x ∧ s.responds u b opLoadStopSet stOk (leBytes 4 x.states ++ leBytes 4 x.edges) []
        ∧ u.skim.sets = tput index x s.skim.sets)
      ∨ ((∀ x, ¬ s.skim.takesStop index len src x) ∧ s.responds u b opLoadStopSet (s.skim.stopRefusal index len src) [] []
        ∧ u.skim.sets = s.skim.sets) := by
  by_cases htakes : ∃ x, s.skim.takesStop index len src x
  · obtain ⟨x, hx⟩ := htakes
    rw [cmdLoadStopSet_of_takes (s := s.at t) hx] at hu
    obtain ⟨hresponds, -, hsets⟩ := State.answer_stored hfree hu rfl rfl
    exact .inl ⟨x, hx, hresponds, hsets⟩
  · rw [not_exists] at htakes
    obtain ⟨v, hv, hcmd⟩ := cmdLoadStopSet_of_refused (s := s.at t) htakes b host
    obtain ⟨hmbox, hports, hskim⟩ : v.mbox = s.mbox ∧ v.ports = s.ports ∧ v.skim = s.skim := by
      obtain rfl | rfl := hv
      · exact ⟨rfl, rfl, rfl⟩
      · exact State.logErr_unseen (s.at t) errStopSource none index (b2n host) 0
    obtain ⟨hresponds, -, hsets⟩ := State.answer_stored hfree (hu.trans hcmd) hmbox hports
    exact .inr ⟨htakes, hresponds, hskim ▸ hsets⟩

theorem cmdReleaseStopSet_answered (index : Nat) {u : State} (hu : u = cmdReleaseStopSet b index (s.at t)) :
    if tget index s.skim.sets = none then s.responds u b opReleaseStopSet stStopIndex [] [] ∧ u.skim.sets = s.skim.sets
    else if s.reqs.table.any (fun p => p.2.out.stop == some index) then
      s.responds u b opReleaseStopSet stStopBusy [] [] ∧ u.skim.sets = s.skim.sets
    else s.responds u b opReleaseStopSet stOk [] [] ∧ u.skim.sets = tdel index s.skim.sets := by
  by_cases hunloaded : tget index s.skim.sets = none
  · rw [cmdReleaseStopSet_of_unloaded (s := s.at t) hunloaded] at hu
    obtain ⟨hresponds, -, hsets⟩ := State.answer_stored hfree hu rfl rfl
    rw [if_pos hunloaded]
    exact ⟨hresponds, hsets⟩
  rw [cmdReleaseStopSet_of_loaded (s := s.at t) hunloaded] at hu
  rw [if_neg hunloaded]
  by_cases hnamed : s.reqs.table.any (fun p => p.2.out.stop == some index) = true
  · obtain ⟨hresponds, -, hsets⟩ := State.answer_stored hfree (hu.trans (if_pos hnamed)) rfl rfl
    rw [if_pos hnamed]
    exact ⟨hresponds, hsets⟩
  · obtain ⟨hresponds, -, hsets⟩ := State.answer_stored hfree (hu.trans (if_neg hnamed)) rfl rfl
    rw [if_neg hnamed]
    exact ⟨hresponds, hsets⟩

end

/-- Settles O11: each command is its meaning (`exec_…_of_serves`), framed by its `hide` law and answered by its `…_answered`
lemma; a list or a set is taken, and then its source gives no other, or it is refused. -/
theorem drawAndStopStoresAnswered : Obligations.DrawAndStopStoresAnswered := by
  unfold Obligations.DrawAndStopStoresAnswered
  refine ⟨fun s t b hfree => ⟨fun prog image hs => ?program, fun list nent src hs => ?bias⟩,
    fun s t b hfree => ⟨fun index len host src hs => ?load, fun index hs => ?release⟩⟩
  case program =>
    have hexec := exec_loadLogitProgram_of_serves t hs prog image
    obtain ⟨hresponds, hdrw⟩ := cmdLoadProgram_answered hfree t prog image.toNat rfl
    exact ⟨_, hexec, hresponds, hdrw,
      execLoadLogitProgram_hide (by decide) (by decide) (by decide) (by decide) (by decide) t b prog image hexec⟩
  case bias =>
    have hexec := exec_loadBiasList_of_serves t hs list nent src
    have hframe : s.onlyChanges [.clk, .drw, .skim, .mbox, .ports] (cmdLoadBias b list nent src (s.at t)) :=
      execLoadBiasList_hide (by decide) (by decide) (by decide) (by decide) (by decide) t b list nent src hexec
    obtain ⟨l, htakes, hresponds, hdrw⟩ | ⟨htakes, hresponds, hdrw⟩ := cmdLoadBias_answered hfree t list nent src rfl
    · refine ⟨_, stOk, hexec, hresponds, fun hne => absurd rfl hne, fun bs l' hsrc hl' _ _ _ _ => ⟨rfl, ?_⟩, hframe⟩
      obtain ⟨-, -, -, hl, -⟩ := htakes
      rw [hsrc, Option.bind_some, hl'] at hl
      exact Option.some.inj hl ▸ hdrw
    · refine ⟨_, s.biasRefusal list nent src, hexec, hresponds, fun _ => ⟨hdrw, rfl⟩,
        fun bs l hsrc hl hbound hlist hnent hroom => ?_, hframe⟩
      exact absurd ⟨hbound, hlist, hnent, hsrc ▸ hl, hroom⟩ (htakes l)
  case load =>
    have hexec := exec_loadStopSet_of_serves t hs index host len src
    have hframe : s.onlyChanges [.clk, .skim, .mbox, .regs, .log, .ports] (cmdLoadStopSet b index host len src (s.at t)) :=
      execLoadStopSet_hide (by decide) (by decide) (by decide) (by decide) (by decide) (by decide) t b index host len src hexec
    obtain ⟨x, htakes, hresponds, hsets⟩ | ⟨htakes, hresponds, hsets⟩ := cmdLoadStopSet_answered hfree t index host len src rfl
    · refine ⟨_, stOk, _, hexec, hresponds, fun hne => absurd rfl hne, fun bs x' _ _ hsrc hx' _ => ?_, hframe⟩
      obtain ⟨-, -, hx, -⟩ := htakes
      rw [hsrc, Option.bind_some, hx'] at hx
      obtain rfl := Option.some.inj hx
      exact ⟨rfl, hsets, rfl⟩
    · refine ⟨_, s.skim.stopRefusal index len src, [], hexec, hresponds, fun _ => ⟨hsets, rfl, rfl⟩,
        fun bs x hindex hunused hsrc hx hroom => ?_, hframe⟩
      exact absurd ⟨hindex, hunused, hsrc ▸ hx, hroom⟩ (htakes x)
  case release =>
    have hexec := exec_releaseStopSet_of_serves t hs index
    exact ⟨_, hexec, cmdReleaseStopSet_answered hfree t index rfl,
      execReleaseStopSet_hide (by decide) (by decide) (by decide) (by decide) t b index hexec⟩

end Sys2Proof.Machine
end

section
/-! PROOFS. Skim mode (R342 to R349), first part: what leaves the boot unit alone, and with it the record of the CTL cycle's
host-link accesses. -/

namespace Sys2Proof.Machine

/-! ### What a frame without the clocks and the boot unit keeps -/

/-- Every part of the state but the clocks and the boot unit. -/
def belowBoot : List StateUnit :=
  [.shell, .vat, .vatMem, .str, .drw, .ren, .churn, .skim, .coll, .reqs, .rat, .stw, .fuses, .mbox, .cmdWin, .regs, .log, .wrap,
    .ports, .free]

@[simp] theorem mem_belowBoot {x : StateUnit} : x ∈ belowBoot ↔ x ≠ .clk ∧ x ≠ .boot ∧ x ≠ .bootMem := by cases x <;> decide

theorem State.clk_eq_of_hide {s u : State} (h : u.hide belowBoot = s.hide belowBoot) : u.clk = s.clk := by
  have hc := congrArg State.clk h
  exact hc

theorem State.boot_eq_of_hide {s u : State} (h : u.hide belowBoot = s.hide belowBoot) : u.boot = s.boot := by
  have hb := congrArg State.boot h
  exact hb

/-- Between two states neither the boot unit nor the record of the CTL cycle's host-link accesses changes. -/
def State.keepsBoot (s u : State) : Prop := u.boot = s.boot ∧ u.clk.host = s.clk.host

theorem State.keepsBoot_refl (s : State) : s.keepsBoot s := ⟨rfl, rfl⟩

theorem State.keepsBoot.trans {s u v : State} (h : s.keepsBoot u) (h' : u.keepsBoot v) : s.keepsBoot v :=
  ⟨h'.1.trans h.1, h'.2.trans h.2⟩

theorem State.keepsBoot_of_hide {s u : State} (h : u.hide belowBoot = s.hide belowBoot) : s.keepsBoot u :=
  ⟨State.boot_eq_of_hide h, congrArg Clocks.host (State.clk_eq_of_hide h)⟩

theorem State.modClk_keepsBoot {f : Clocks → Clocks} (hf : ∀ c, (f c).host = c.host) (s : State) : s.keepsBoot (s.modClk f) :=
  ⟨rfl, hf s.clk⟩

theorem State.logErr_keepsBoot (s : State) (code : Nat) (slot : Option Nat) (d0 d1 d2 : Nat) :
    s.keepsBoot (s.logErr code slot d0 d1 d2) :=
  State.keepsBoot_of_hide (State.logErr_hide (by simp) (by simp) code slot d0 d1 d2 s)

theorem foldl_keepsBoot {α : Type} {f : State → α → State} (h : ∀ (s : State) x, s.keepsBoot (f s x)) (l : List α) (s : State) :
    s.keepsBoot (l.foldl f s) := by
  induction l generalizing s with
  | nil => exact s.keepsBoot_refl
  | cons x r ih => exact (h s x).trans (ih (f s x))

/-- A command keeps the boot unit where, from its own time on, its meaning does. -/
theorem State.keepsBoot_of_next {s v u : State} (t : Time) (h : (.next v : Result1) = .next u) (hv : (s.at t).keepsBoot v) :
    s.keepsBoot u := by
  cases h
  exact hv

theorem State.keepsBoot_of_frame {s v u : State} (t : Time) (h : (.next v : Result1) = .next u)
    (hv : v.hide belowBoot = (s.at t).hide belowBoot) : s.keepsBoot u :=
  State.keepsBoot_of_next t h (State.keepsBoot_of_hide hv)

theorem State.serve_keepsBoot (b : Sender) (op : Nat) {f : State → State} (hf : ∀ s : State, s.keepsBoot (f s)) (s : State) :
    s.keepsBoot (s.serve b op f) := by
  unfold State.serve
  dsimp only
  split
  · split
    · exact ⟨rfl, rfl⟩
    · exact s.keepsBoot_refl
  · split
    · split
      · exact hf s
      · exact State.keepsBoot_of_hide (State.refuse_hide (by simp) (by simp) (by simp) _ _ _ _)
    · split
      · exact hf s
      · exact s.keepsBoot_refl

/-- A mailbox command keeps the boot unit where its own effect has the frame. -/
theorem State.keepsBoot_of_served {s u : State} {t : Time} {b : Sender} {op : Nat} {f : State → State}
    (h : (.next ((s.at t).serve b op f) : Result1) = .next u) (hf : ∀ s : State, (f s).hide belowBoot = s.hide belowBoot) : s.keepsBoot u :=
  State.keepsBoot_of_next t h (State.serve_keepsBoot b op (fun s => State.keepsBoot_of_hide (hf s)) _)

/-! ### Meanings that move the clocks but not the record of accesses -/

theorem State.beginStep_host (s : State) (n : Nat) : (s.beginStep n).clk.host = s.clk.host := by
  have hmark (l : List (Nat × Nat)) (u : State) : (l.foldl (fun s d => s.markDry d.1 d.2) u).clk = u.clk := by
    refine State.clk_eq_of_hide (foldl_hide _ (fun v d => ?_) l u)
    exact State.markDry_hide (by simp) (by simp) d.1 d.2 v
  have hflush := State.clk_eq_of_hide (State.flushHeld_hide (by simp) s)
  have hdrop (gone : Row → Bool) (u : State) := State.clk_eq_of_hide (State.dropRows_hide (by simp) (by simp) (by simp) gone u)
  have hfree (u : State) := State.clk_eq_of_hide (State.freeTiles_hide (by simp) u)
  have hwork (u : State) := State.clk_eq_of_hide (State.startWork_hide (by simp) u)
  have hissue (u : State) := State.clk_eq_of_hide (State.issueAll_hide (by simp) (by simp) u)
  have hlost (u : State) := State.clk_eq_of_hide (State.keepLost_hide (by simp) (by simp) u)
  have hreweigh (u : State) := State.clk_eq_of_hide (State.reweigh_hide (by simp) u)
  simp only [State.beginStep, hreweigh, hlost, hmark, hissue, hwork, hfree, hdrop, hflush, State.modColl_clk, State.modReqs_clk,
    State.modVat_clk, State.modClk_clk, State.modShell_clk]

theorem State.beginStep_boot (s : State) (n : Nat) : (s.beginStep n).boot = s.boot := by
  have h := congrArg State.boot (State.beginStep_hide (hid := .clk :: belowBoot) (by simp) (by simp) (by simp) (by simp) (by simp)
    (by simp) (by simp) (by simp) n s)
  exact h

theorem State.beginStep_keepsBoot (s : State) (n : Nat) : s.keepsBoot (s.beginStep n) := ⟨s.beginStep_boot n, s.beginStep_host n⟩

theorem State.laterStart_keepsBoot (s : State) (b : Buffer) : s.keepsBoot (s.laterStart b) := by
  have hcross : s.keepsBoot s.crossingLog := State.keepsBoot_of_hide (State.crossingLog_hide (by simp) (by simp) (by simp) s)
  have hfreeze (u : State) : u.keepsBoot (if u.shell.frozen then u else u.freezeNow) := by
    split
    · exact u.keepsBoot_refl
    · exact State.keepsBoot_of_hide (State.freezeNow_hide (by simp) (by simp) u)
  unfold State.laterStart
  extract_lets c len a n u v w
  have hw : s.keepsBoot w := (hcross.trans (v := v) ⟨rfl, rfl⟩).trans (hfreeze v)
  refine hw.trans ?_
  split
  · refine State.keepsBoot.trans (State.keepsBoot_of_hide ?_) (State.beginStep_keepsBoot _ n)
    exact (State.logFabric_hide (by simp) (by simp) (by simp) _ _ _ _ _ _).trans (State.modShell_hide (by simp) _ w)
  · split
    · exact (w.logErr_keepsBoot _ _ _ _ _).trans (State.beginStep_keepsBoot _ n)
    · exact w.beginStep_keepsBoot n

theorem State.powerRestore_keepsBoot (s : State) (x : PowerCycle) : s.keepsBoot (s.powerRestore x) := ⟨rfl, rfl⟩

theorem State.regPower_keepsBoot (s : State) (ask : List (Nat × Bool)) (offset : Nat) : s.keepsBoot (s.regPower ask offset) := by
  have honce : s.keepsBoot (s.regPowerOnce ask offset) :=
    State.keepsBoot_of_hide (State.regPowerOnce_hide (by simp) (by simp) (by simp) (by simp) (by simp) (by simp) (by simp) ask offset s)
  exact honce.trans (State.modClk_keepsBoot (fun _ => rfl) _)

theorem State.withPower_keepsBoot {f : State → State} (hf : ∀ s : State, s.keepsBoot (f s)) (s : State) :
    s.keepsBoot (s.withPower f) := by
  unfold State.withPower
  split
  case h_1 x _ =>
    split
    · refine State.keepsBoot.trans ((s.powerRestore_keepsBoot x).trans (hf _)) ?_
      refine foldl_keepsBoot (fun u a => ?_) _ _
      exact u.regPower_keepsBoot a.1 a.2
    · exact hf s
  case h_2 => exact hf s

theorem cmdSetPower_keepsBoot (b : Sender) (banks : BitVec 64) (strainers : BitVec 16) (s : State) :
    s.keepsBoot (cmdSetPower b banks strainers s) :=
  State.withPower_keepsBoot (fun _ => State.keepsBoot_of_hide (by simp [setPower_hide])) s

theorem cmdSetVatPlan_keepsBoot (b : Sender) (l : List AreaFields) (s : State) : s.keepsBoot (cmdSetVatPlan b l s) :=
  State.withPower_keepsBoot (fun _ => State.keepsBoot_of_hide (by simp [setVatPlan_hide])) s

theorem runCommand_keepsBoot (b : Sender) (op : Nat) (body : List Byte) (src : Option (List Byte)) (s : State) :
    s.keepsBoot (runCommand b op body src s) := by
  unfold runCommand
  dsimp only
  split
  case h_19 => exact cmdSetVatPlan_keepsBoot _ _ s
  case h_20 => exact cmdSetPower_keepsBoot _ _ _ s
  all_goals
    exact State.keepsBoot_of_hide (by
      simp [State.refuse_hide, cmdIdentify_hide, cmdAttach_hide, cmdDetach_hide, cmdReadLog_hide, cmdReadBootReport_hide,
        cmdAdmit_hide, cmdCancel_hide, cmdReadRequest_hide, cmdSetGrammar_hide, cmdPostDrafts_hide, cmdEncodeOpen_hide,
        cmdAppend_hide, cmdEncodeClose_hide, cmdSetStepShape_hide, cmdSetHomeSlots_hide, cmdSetCustomer_hide, cmdSetPool_hide,
        cmdReadCustomer_hide, cmdOpenWindow_hide, cmdCloseWindow_hide, cmdSetCollective_hide, cmdLoadProgram_hide,
        cmdLoadBias_hide, cmdLoadVocab_hide, cmdReleaseVocab_hide, cmdSetPartition_hide, cmdLoadGrammar_hide,
        cmdReleaseGrammar_hide, cmdLoadStopSet_hide, cmdReleaseStopSet_hide, cmdSetAdapterPool_hide])

theorem State.runLadle_keepsBoot (s : State) (c : Nat) (k : Taken) (src : Option (List Byte)) (last : Bool) :
    s.keepsBoot (s.runLadle c k src last) := by
  have hload (on : Bool) (u : State) : u.keepsBoot (u.setLoading k on) :=
    State.keepsBoot_of_hide (State.setLoading_hide (by simp) (by simp) k on u)
  unfold State.runLadle
  extract_lets b k1 u general
  have hu : s.keepsBoot u := ⟨rfl, rfl⟩
  refine hu.trans ?_
  split
  · exact State.keepsBoot_of_hide (State.refuseTaken_hide (by simp) (by simp) (by simp) b k1 general u)
  split
  · split
    · exact (hload false u).trans (runCommand_keepsBoot _ _ _ _ _)
    · exact runCommand_keepsBoot _ _ _ _ _
  split
  · exact u.keepsBoot_refl
  split
  · exact (hload true u).trans (State.keepsBoot_of_hide (State.celAccess_hide (by simp) _ _ _ _ _ _))
  · exact runCommand_keepsBoot _ _ _ _ _

theorem State.ladle_keepsBoot (s : State) (role : Nat) (src : Option (List Byte)) (last : Bool) :
    s.keepsBoot (s.ladle role src last) := by
  unfold State.ladle
  extract_lets up brought
  split
  · exact s.keepsBoot_refl
  split
  · exact s.keepsBoot_refl
  split
  · exact s.keepsBoot_refl
  · exact State.keepsBoot.trans (u := s.modMbox _) ⟨rfl, rfl⟩ (State.runLadle_keepsBoot _ _ _ _ _)

theorem State.clockRuns_keepsBoot (s : State) (d : Nat) : s.keepsBoot (s.clockRuns d) := by
  unfold State.clockRuns
  split
  · exact s.keepsBoot_refl
  extract_lets u
  have hu : s.keepsBoot u := State.modClk_keepsBoot (fun _ => rfl) s
  split
  · have hlogged := foldl_keepsBoot (fun (v : State) x => v.logErr_keepsBoot errClockLost none x 0 0) u.clk.lost u
    exact (hu.trans hlogged).trans (State.modClk_keepsBoot (fun _ => rfl) _)
  · exact hu

end Sys2Proof.Machine
end

section
/-! PROOFS. Skim mode (R342 to R349): the commands by what they can do to the boot unit, and those that leave it alone. -/

namespace Sys2Proof.Machine

/-- What a command can do to the boot unit and to the record of the CTL cycle's host-link accesses. -/
inductive BootPart where
  /-- Nothing: a command of a mailbox. -/
  | mail
  /-- Nothing: a command of the data plane, of the clocks or of the fuses. -/
  | none
  /-- A stage of the boot ends, a core fails or a clock is lost. -/
  | event
  /-- An access of the host link. -/
  | access
  /-- An access of the test wrapper, which comes before those of the host link. -/
  | wrapper
  /-- A reset, its release, or a loss of power. -/
  | reset

def bootPart : Instr → BootPart
  | .selftestDone .. | .sramInitDone .. | .authDone .. | .loadDone .. | .ready .. | .fwInitTimeout .. => .event
  | .watchdogExpiry .. | .unhandledTrap .. | .privateSramError .. | .coreFailover .. | .clockLoss .. => .event
  | .go .. | .clear .. | .repairData .. | .registerWrite .. | .errStatus .. | .readClear .. | .tsLo .. => .access
  | .doorbell .. | .vatPwr .. | .strPwr .. => .access
  | .skReg .. => .wrapper
  | .coldReset .. | .warmReset .. | .resetRelease .. | .powerLoss .. => .reset
  | c => match mailOf c with | some _ => .mail | Option.none => .none

theorem exec_keepsBoot_of_mail {c : Instr} {s u : State} (hc : bootPart c = .mail) (h : exec c s = .next u) : s.keepsBoot u := by
  cases c with
  | identify => exact State.keepsBoot_of_served h (by simp [cmdIdentify_hide])
  | attach => exact State.keepsBoot_of_served h (by simp [cmdAttach_hide])
  | detach => exact State.keepsBoot_of_served h (by simp [cmdDetach_hide])
  | readLog => exact State.keepsBoot_of_served h (by simp [cmdReadLog_hide])
  | readBootReport => exact State.keepsBoot_of_served h (by simp [cmdReadBootReport_hide])
  | admitRequest => exact State.keepsBoot_of_served h (by simp [cmdAdmit_hide])
  | cancelRequest => exact State.keepsBoot_of_served h (by simp [cmdCancel_hide])
  | readRequest => exact State.keepsBoot_of_served h (by simp [cmdReadRequest_hide])
  | setGrammar => exact State.keepsBoot_of_served h (by simp [cmdSetGrammar_hide])
  | postDrafts => exact State.keepsBoot_of_served h (by simp [cmdPostDrafts_hide])
  | encodeOpen => exact State.keepsBoot_of_served h (by simp [cmdEncodeOpen_hide])
  | appendInput => exact State.keepsBoot_of_served h (by simp [cmdAppend_hide])
  | encodeClose => exact State.keepsBoot_of_served h (by simp [cmdEncodeClose_hide])
  | setStepShape => exact State.keepsBoot_of_served h (by simp [cmdSetStepShape_hide])
  | setHomeSlots => exact State.keepsBoot_of_served h (by simp [cmdSetHomeSlots_hide])
  | setCustomer => exact State.keepsBoot_of_served h (by simp [cmdSetCustomer_hide])
  | setPool => exact State.keepsBoot_of_served h (by simp [cmdSetPool_hide])
  | readCustomer => exact State.keepsBoot_of_served h (by simp [cmdReadCustomer_hide])
  | setVatPlan t => exact State.keepsBoot_of_next t h (State.serve_keepsBoot _ _ (cmdSetVatPlan_keepsBoot _ _) _)
  | setPower t => exact State.keepsBoot_of_next t h (State.serve_keepsBoot _ _ (cmdSetPower_keepsBoot _ _ _) _)
  | openWindow => exact State.keepsBoot_of_served h (by simp [cmdOpenWindow_hide])
  | closeWindow => exact State.keepsBoot_of_served h (by simp [cmdCloseWindow_hide])
  | setCollective => exact State.keepsBoot_of_served h (by simp [cmdSetCollective_hide])
  | loadLogitProgram => exact State.keepsBoot_of_served h (by simp [cmdLoadProgram_hide])
  | loadBiasList => exact State.keepsBoot_of_served h (by simp [cmdLoadBias_hide])
  | loadVocab => exact State.keepsBoot_of_served h (by simp [cmdLoadVocab_hide])
  | releaseVocab => exact State.keepsBoot_of_served h (by simp [cmdReleaseVocab_hide])
  | setVocabPartition => exact State.keepsBoot_of_served h (by simp [cmdSetPartition_hide])
  | loadGrammar => exact State.keepsBoot_of_served h (by simp [cmdLoadGrammar_hide])
  | releaseGrammar => exact State.keepsBoot_of_served h (by simp [cmdReleaseGrammar_hide])
  | loadStopSet => exact State.keepsBoot_of_served h (by simp [cmdLoadStopSet_hide])
  | releaseStopSet => exact State.keepsBoot_of_served h (by simp [cmdReleaseStopSet_hide])
  | setAdapterPool => exact State.keepsBoot_of_served h (by simp [cmdSetAdapterPool_hide])
  | _ => exact nomatch hc

theorem exec_keepsBoot_of_none {c : Instr} {s u : State} (hc : bootPart c = .none) (h : exec c s = .next u) : s.keepsBoot u := by
  cases c with
  | stepStart t =>
    refine State.keepsBoot_of_next t h ?_
    split
    · exact State.keepsBoot_refl _
    · exact State.beginStep_keepsBoot _ _
    · exact State.laterStart_keepsBoot _ _
  | freeze t => exact State.keepsBoot_of_frame t h (by split <;> simp [ite_hide, State.freezeNow_hide])
  | maskCutoff t => exact State.keepsBoot_of_frame t h (by split <;> simp [ite_hide, State.retryBuilds_hide, State.modShell_hide])
  | manifestRead t => exact State.keepsBoot_of_frame t h (by split <;> simp [State.readSlot_hide, State.modShell_hide])
  | tokenPortRead t => exact State.keepsBoot_of_frame t h (by split <;> simp [State.readSlot_hide, State.modShell_hide])
  | headerBeat t => exact State.keepsBoot_of_frame t h (by (repeat' split) <;> simp [State.headerBeat_hide, State.modShell_hide])
  | dataBeat t => exact State.keepsBoot_of_frame t h (by (repeat' split) <;> simp [State.dataBeat_hide, State.modShell_hide])
  | ingestDeadline t =>
    exact State.keepsBoot_of_frame t h (by
      dsimp only
      (repeat' split) <;> simp [foldl_hide, State.judgeGroup_hide, State.rowlessParts_hide, State.modShell_hide])
  | stretch t => exact State.keepsBoot_of_frame t h (by simp [State.modShell_hide])
  | frequencyChange t => exact State.keepsBoot_of_next t h (State.modClk_keepsBoot (fun _ => rfl) _)
  | manifestEntryWrite t => exact State.keepsBoot_of_frame t h (by (repeat' split) <;> simp [State.writeEntry_hide])
  | manifestBuild t => exact State.keepsBoot_of_frame t h (by simp [ite_hide, State.buildManifest_hide])
  | inboundWrite t => exact State.keepsBoot_of_frame t h (by split <;> simp [State.inbound_hide])
  | scrubVisit t => exact State.keepsBoot_of_frame t h (by simp [State.scrubBank_hide])
  | writeBack t => exact State.keepsBoot_of_frame t h (by split <;> simp [ite_hide, State.modVat_hide_mem, Vat.writeRow_banks])
  | writeBackDrop t => exact State.keepsBoot_of_frame t h (by split <;> simp [ite_hide, State.modVat_hide])
  | bankAckRise t => exact State.keepsBoot_of_frame t h (by simp [State.ackRise_hide])
  | bankInitDone t => exact State.keepsBoot_of_frame t h (by simp [State.initDone_hide])
  | bankDrainDone t => exact State.keepsBoot_of_frame t h (by split <;> simp [State.modUnit_hide])
  | bankAckFall t => exact State.keepsBoot_of_frame t h (by simp [State.ackFall_hide])
  | ackTimeout t => exact State.keepsBoot_of_frame t h (by simp [ite_hide, State.ackTimeout_hide])
  | strainerAckRise t => exact State.keepsBoot_of_frame t h (by simp [State.ackRise_hide])
  | strainerInitDone t => exact State.keepsBoot_of_frame t h (by simp [State.initDone_hide])
  | strainerReleased t => exact State.keepsBoot_of_frame t h (by simp [ite_hide, State.modUnit_hide])
  | strainerAckFall t => exact State.keepsBoot_of_frame t h (by simp [State.ackFall_hide])
  | floorUpdate t => exact State.keepsBoot_of_frame t h (by (repeat' split) <;> simp [State.modRow_hide])
  | listSelectionDone t =>
    exact State.keepsBoot_of_frame t h (by
      split <;> simp [ite_hide, State.modRow_hide, State.selectRow_hide])
  | extendBlock t =>
    exact State.keepsBoot_of_frame t h (by
      (repeat' split) <;> simp [State.askWork_hide, State.failRow_hide, State.noWork_hide, State.blockRound_hide])
  | extendBlockDone t =>
    exact State.keepsBoot_of_frame t h (by
      dsimp only
      (repeat' split) <;> simp [State.failRow_hide, State.rowReads_hide, State.runBlock_hide])
  | rowPass t =>
    exact State.keepsBoot_of_frame t h (by
      split <;> simp [ite_hide, State.askPass_hide, State.failRow_hide, State.noWork_hide])
  | rowPassDone t =>
    exact State.keepsBoot_of_frame t h (by
      dsimp only
      (repeat' split) <;> simp [State.failRow_hide, State.rowReads_hide, State.runPass_hide])
  | draw t =>
    exact State.keepsBoot_of_frame t h (by
      (repeat' split) <;> simp [State.rowFaults_hide, State.dryDraw_hide, State.drawSel_hide])
  | verify t =>
    exact State.keepsBoot_of_frame t h (by
      dsimp only
      (repeat' split) <;> simp [State.engDry_hide, State.noWork_hide, State.rowFaults_hide, State.verifySlot_hide])
  | commit t =>
    exact State.keepsBoot_of_frame t h (by
      dsimp only
      (repeat' split) <;> simp [State.dryTogether_hide, State.commitSlot_hide])
  | skimCommit t =>
    exact State.keepsBoot_of_frame t h (by
      dsimp only
      (repeat' split) <;> simp [State.ringAll_hide, State.skimOne_hide, State.modSkim_hide])
  | consumerPoll t =>
    exact State.keepsBoot_of_frame t h (by
      dsimp only
      (repeat' split) <;> simp [State.ringAll_hide, State.pailAsk_hide])
  | consumerReadDone t =>
    exact State.keepsBoot_of_frame t h (by
      (repeat' split) <;> simp [State.retryBuild_hide, State.consumerRead_hide])
  | collectiveTick t => exact State.keepsBoot_of_frame t h (by (repeat' split) <;> simp [State.collTick_hide])
  | messageSend t => exact State.keepsBoot_of_frame t h (by (repeat' split) <;> simp [State.modColl_hide, State.modPorts_hide])
  | roundTimeout t =>
    exact State.keepsBoot_of_frame t h (by
      dsimp only
      (repeat' split) <;> simp [State.collTick_hide, State.gatherTimeout_hide, State.mergedTimeout_hide, State.passTimeout_hide])
  | prefetch t =>
    refine State.keepsBoot_of_frame t h ?_
    split
    · rfl
    case h_2 f _ =>
      refine (foldl_hide _ (fun u i => ?_) _ _).trans (State.sweepPrefetched_hide (by simp) _)
      split
      · exact foldl_hide _ (fun v k => State.prefetchKey_hide (by simp) (by simp) f k v) _ _
      · rfl
  | maskFillDone t =>
    exact State.keepsBoot_of_frame t h (by
      dsimp only
      (repeat' split) <;> simp [State.celItemDone_hide, State.maskFill_hide, State.modRen_hide])
  | prefetchTune t =>
    exact State.keepsBoot_of_frame t h (by
      split <;> simp [ite_hide, State.sweepPrefetched_hide, State.modRen_hide])
  | bufferTaken t =>
    exact State.keepsBoot_of_frame t h (by
      (repeat' split) <;> simp [State.waitLine_hide, State.stopFault_hide, State.takeBuffer_hide, State.laneError_hide,
      State.lineFault_hide])
  | laneSwitch t => exact State.keepsBoot_of_frame t h (by (repeat' split) <;> simp [State.modChurn_hide])
  | vocabFillDone t =>
    exact State.keepsBoot_of_frame t h (by
      dsimp only
      (repeat' split) <;> simp [foldl_hide, State.celDone_hide, State.schedule_hide, State.modStream_hide, State.issueAllFills_hide,
      State.stopFault_hide, State.fillLands_hide, State.modChurn_hide])
  | partitionRetune t => exact State.keepsBoot_of_frame t h (by simp [ite_hide, State.modChurn_hide])
  | recordMoveDone t =>
    exact State.keepsBoot_of_frame t h (by
      split <;> simp [ite_hide, State.celDone_hide, State.modReq_hide, State.tick_hide, State.endOutput_hide])
  | epochCorrection t => exact State.keepsBoot_of_frame t h (by simp [ite_hide, State.skipFree_hide, State.modRat_hide])
  | doneWordPoll t => exact State.keepsBoot_of_frame t h (by split <;> simp [ite_hide, State.askHost_hide, State.modStw_hide])
  | doneWordReadDone t =>
    exact State.keepsBoot_of_frame t h (by
      dsimp only
      (repeat' split) <;> simp [State.doneWord_hide, State.modStw_hide])
  | ladle t => exact State.keepsBoot_of_next t h (State.ladle_keepsBoot _ _ _ _)
  | logWrite t => exact State.keepsBoot_of_frame t h (by simp [State.logWrite_hide])
  | cellarError t => exact State.keepsBoot_of_frame t h (by split <;> simp [State.logErr_hide])
  | stagingWindowWrite t => exact State.keepsBoot_of_frame t h (by simp [State.stagingWrite_hide])
  | commandWindowWrite t => exact State.keepsBoot_of_frame t h (by simp [State.windowWrite_hide])
  | fuseSvn t => exact State.keepsBoot_of_frame t h (by simp [State.writeFuseSvn_hide])
  | fuseKeyrev t => exact State.keepsBoot_of_frame t h (by simp [State.writeFuseKeyrev_hide])
  | fuseWriteDone t => exact State.keepsBoot_of_frame t h (by simp [State.modFuses_hide])
  | wirUpdate t => exact State.keepsBoot_of_frame t h (by simp [State.modWrap_hide])
  | wrapperReset t => exact State.keepsBoot_of_frame t h (by simp [State.modWrap_hide])
  | skMbist t => exact State.keepsBoot_of_frame t h (by simp [ite_hide, State.modLog_hide, State.modWrap_hide])
  | mbistDone t => exact State.keepsBoot_of_frame t h (by split <;> simp [State.modWrap_hide])
  | mbistCapture t => exact State.keepsBoot_of_frame t h (by simp [ite_hide, State.modWrap_hide])
  | ringConsumerReadDone t => exact State.keepsBoot_of_frame t h (by simp [ite_hide, State.modCtx_hide, State.ringRead_hide])
  | ringConsumerPoll t => exact State.keepsBoot_of_frame t h (by simp [ite_hide, State.ringAll_hide, State.askRing_hide])
  | clockRunsAgain t => exact State.keepsBoot_of_next t h (State.clockRuns_keepsBoot _ _)
  | entryReport t =>
    exact State.keepsBoot_of_frame t h (by
      dsimp only
      (repeat' split) <;> simp [State.modStream_hide, State.reportEntries_hide, State.waitLine_hide, State.applyWork_hide,
      State.stopWith_hide])
  | _ => exact nomatch hc

end Sys2Proof.Machine
end

section
/-! PROOFS. Skim mode (R342 to R349): register accesses, of the host link and of the test wrapper (R371, R382, R415). -/

namespace Sys2Proof.Machine

/-! ### What an access can do to the boot unit outside AWAIT_IMAGE -/

/-- Between two boot units an access comes that takes no GO: the counter at most is cleared. -/
structure Boot.accessed (b b' : Boot) : Prop where
  stage : b'.stage = b.stage
  goUndo : b'.goUndo = b.goUndo
  fcount : b'.fcount = b.fcount ∨ b'.fcount = 0

theorem Boot.accessed_refl (b : Boot) : b.accessed b := ⟨rfl, rfl, .inl rfl⟩

theorem Boot.accessed_of_eq {b b' : Boot} (h : b' = b) : b.accessed b' := h ▸ b.accessed_refl

theorem Boot.accessed.trans {a b c : Boot} (h : a.accessed b) (h' : b.accessed c) : a.accessed c where
  stage := h'.stage.trans h.stage
  goUndo := h'.goUndo.trans h.goUndo
  fcount := by
    obtain h' | h' := h'.fcount
    · rw [h']; exact h.fcount
    · exact .inr h'

theorem Boot.held.stage_ne_four {b : Boot} (h : b.held) : b.stage ≠ 4 := by
  obtain ⟨-, hstage, -⟩ := h
  omega

/-- An access leaves a held boot held, or clears its counter. -/
theorem Boot.held.accessed {b b' : Boot} (h : b.held) (ha : b.accessed b') : b'.held ∨ b'.fcount = 0 := by
  obtain ⟨hcount, hstage, hundo⟩ := h
  refine ha.fcount.imp_left fun hsame => ⟨?_, ?_, ha.goUndo.trans hundo⟩
  · rwa [hsame]
  · rwa [ha.stage]

theorem State.dropAccess_keepsBoot (s : State) (offset : Nat) (wr : Bool) : s.keepsBoot (s.dropAccess offset wr) :=
  State.keepsBoot_of_hide (State.dropAccess_hide (by simp) (by simp) offset wr s)

/-- Outside AWAIT_IMAGE a write of BOOT_CTL takes no GO (R371, R372). -/
theorem State.bootCtl_accessed {s : State} (h : s.boot.stage ≠ 4) (value : Word) :
    s.boot.accessed (s.bootCtl value).boot ∧ (s.bootCtl value).clk.host = s.clk.host := by
  have hdrop (u : State) := u.dropAccess_keepsBoot 0x014 true
  have hclear : s.boot.accessed { s.boot with fcount := 0 } := ⟨rfl, rfl, .inr rfl⟩
  unfold State.bootCtl
  extract_lets v u
  have hu : s.boot.accessed u.boot ∧ u.clk.host = s.clk.host := by
    unfold u
    split
    · exact ⟨hclear, rfl⟩
    · exact ⟨s.boot.accessed_refl, rfl⟩
  split
  · exact ⟨s.boot.accessed_refl, rfl⟩
  split
  · exact ⟨Boot.accessed_of_eq (hdrop s).1, (hdrop s).2⟩
  split
  · rw [if_neg (by simp [hu.1.stage, h])]
    exact ⟨hu.1.trans (Boot.accessed_of_eq (hdrop u).1), (hdrop u).2.trans hu.2⟩
  · exact hu

/-- Outside AWAIT_IMAGE the repair intake takes nothing (R373). -/
theorem State.repairData_keepsBoot {s : State} (h : s.boot.stage ≠ 4) (entry : Word) : s.keepsBoot (s.repairData entry) := by
  unfold State.repairData
  rw [if_neg h]
  split
  · exact s.dropAccess_keepsBoot _ _
  · exact State.keepsBoot.trans (u := s.modRegs _) ⟨rfl, rfl⟩ (State.dropAccess_keepsBoot _ _ _)

theorem State.modCtx_keepsBoot (c : Nat) (f : Context → Context) (s : State) : s.keepsBoot (s.modCtx c f) := ⟨rfl, rfl⟩

theorem State.afterRead_keepsBoot (s : State) (o : Nat) : s.keepsBoot (s.afterRead o) := by
  unfold State.afterRead
  split
  · exact s.keepsBoot_refl
  split
  · exact ⟨rfl, rfl⟩
  split
  · exact State.modClk_keepsBoot (fun _ => rfl) s
  split
  · exact ⟨rfl, rfl⟩
  split
  · exact State.modClk_keepsBoot (fun _ => rfl) s
  split
  · exact State.modCtx_keepsBoot _ _ s
  · exact s.keepsBoot_refl

theorem State.regRead_keepsBoot (s : State) (wrapper : Bool) (o size : Nat) : s.keepsBoot (s.regRead wrapper o size) := by
  unfold State.regRead
  split
  · exact ⟨rfl, rfl⟩
  split
  · exact (s.afterRead_keepsBoot o).trans ⟨rfl, rfl⟩
  split
  · exact (s.dropAccess_keepsBoot o false).trans ⟨rfl, rfl⟩
  · exact ⟨rfl, rfl⟩

/-- A write to a register other than BOOT_CTL leaves the counter as well. -/
theorem State.regWrite_of_ne {s : State} (h : s.boot.stage ≠ 4) (wrapper : Bool) {o : Nat} (ho : o ≠ 0x014) (value : Word) :
    s.boot.accessed (s.regWrite wrapper o value).boot ∧ (s.regWrite wrapper o value).boot.fcount = s.boot.fcount
      ∧ (s.regWrite wrapper o value).clk.host = s.clk.host := by
  have hkept {u : State} (hu : s.keepsBoot u) :
      s.boot.accessed u.boot ∧ u.boot.fcount = s.boot.fcount ∧ u.clk.host = s.clk.host :=
    ⟨Boot.accessed_of_eq hu.1, congrArg Boot.fcount hu.1, hu.2⟩
  unfold State.regWrite
  rw [if_neg ho]
  split
  · exact ⟨⟨rfl, rfl, .inl rfl⟩, rfl, rfl⟩
  refine hkept ?_
  split
  · exact State.repairData_keepsBoot h value
  split
  · exact s.regPower_keepsBoot _ _
  split
  · exact s.regPower_keepsBoot _ _
  split
  · exact s.regPower_keepsBoot _ _
  refine State.keepsBoot_of_hide ?_
  simp [ite_hide, State.writeErrStatus_hide, State.writeFuseSvn_hide, State.writeFuseKeyrev_hide, State.doorbell_hide,
    State.dropAccess_hide]

theorem State.regWrite_accessed {s : State} (h : s.boot.stage ≠ 4) (wrapper : Bool) (o : Nat) (value : Word) :
    s.boot.accessed (s.regWrite wrapper o value).boot ∧ (s.regWrite wrapper o value).clk.host = s.clk.host := by
  by_cases ho : o = 0x014
  · have hctl : s.regWrite wrapper o value = s.bootCtl value := if_pos ho
    rw [hctl]
    exact State.bootCtl_accessed h value
  · obtain ⟨hboot, -, hhost⟩ := State.regWrite_of_ne h wrapper ho value
    exact ⟨hboot, hhost⟩

/-- A host-link write is one of a register, or leaves the boot unit alone. -/
theorem State.hostRegWrite_eq_or_keepsBoot (s : State) (o size : Nat) (value : BitVec 64) :
    (size = 4 ∧ s.hostRegWrite o size value = s.regWrite false o (value.setWidth 32)) ∨ s.keepsBoot (s.hostRegWrite o size value) := by
  unfold State.hostRegWrite
  split
  · exact .inr s.keepsBoot_refl
  split
  · exact .inr (State.keepsBoot_of_hide (State.windowWrite_hide (by simp) (by simp) (by simp) (by simp) _ _ s))
  split
  · exact .inr (State.keepsBoot_of_hide (State.stagingWrite_hide (by simp) (by simp) (by simp) (by simp) _ _ s))
  split
  · exact .inr (s.dropAccess_keepsBoot o true)
  split
  · exact .inr (s.regPower_keepsBoot _ _)
  split
  · exact .inr (s.dropAccess_keepsBoot o true)
  case isFalse hword => exact .inl ⟨by omega, rfl⟩

theorem State.hostRegWrite_accessed {s : State} (h : s.boot.stage ≠ 4) (o size : Nat) (value : BitVec 64) :
    s.boot.accessed (s.hostRegWrite o size value).boot := by
  obtain ⟨-, heq⟩ | hkept := s.hostRegWrite_eq_or_keepsBoot o size value
  · rw [heq]
    exact (State.regWrite_accessed h false o _).1
  · exact Boot.accessed_of_eq hkept.1

/-- No write of the host link but one of BOOT_CTL's word clears the counter. -/
theorem State.hostRegWrite_fcount {s : State} (h : s.boot.stage ≠ 4) {o size : Nat} (hctl : ¬ (o = 0x014 ∧ size = 4)) (value : BitVec 64) :
    (s.hostRegWrite o size value).boot.fcount = s.boot.fcount := by
  obtain ⟨hsize, heq⟩ | hkept := s.hostRegWrite_eq_or_keepsBoot o size value
  · rw [heq]
    exact (State.regWrite_of_ne h false (fun ho => hctl ⟨ho, hsize⟩) _).2.1
  · exact congrArg Boot.fcount hkept.1

/-! ### The host link's accesses -/

/-- The commands that can clear the counter: a loss of power, and the writes that reach BOOT_CTL. -/
def clearsCount (c : Instr) : Prop :=
  ∃ a, c = .powerLoss a ∨ (∃ v, c = .clear a v ∨ c = .go a v) ∨ (∃ v, c = .registerWrite a 0x014 4 v) ∨ ∃ v, c = .skReg a v

/-- An access of the host link, outside AWAIT_IMAGE, takes no GO, and only a write that reaches BOOT_CTL clears the counter. -/
theorem exec_access {c : Instr} {s u : State} (hc : bootPart c = .access) (h : exec c s = .next u) :
    ∃ (t : Time) (a : HostAct) (f : State → State), u = (s.at t).hostAct a f ∧ ∀ v : State, v.boot.stage ≠ 4 →
      v.boot.accessed (f v).boot ∧ ((f v).boot.fcount = v.boot.fcount ∨ clearsCount c) := by
  have hkept {f : State → State} (hf : ∀ v : State, v.boot.stage ≠ 4 → (f v).boot = v.boot) (v : State) (hv : v.boot.stage ≠ 4) :
      v.boot.accessed (f v).boot ∧ ((f v).boot.fcount = v.boot.fcount ∨ clearsCount c) :=
    ⟨Boot.accessed_of_eq (hf v hv), .inl (congrArg Boot.fcount (hf v hv))⟩
  cases c with
  | go t value =>
    cases h
    exact ⟨t, _, _, rfl, fun v hv => ⟨(State.bootCtl_accessed hv value).1, .inr ⟨t, .inr (.inl ⟨value, .inr rfl⟩)⟩⟩⟩
  | clear t value =>
    cases h
    exact ⟨t, _, _, rfl, fun v hv => ⟨(State.bootCtl_accessed hv value).1, .inr ⟨t, .inr (.inl ⟨value, .inl rfl⟩)⟩⟩⟩
  | repairData t entry =>
    cases h
    exact ⟨t, _, _, rfl, hkept fun v hv => (State.repairData_keepsBoot hv entry).1⟩
  | doorbell t ctx value =>
    cases h
    exact ⟨t, _, _, rfl, hkept fun v _ => State.boot_eq_of_hide (State.doorbell_hide (by simp) (by simp) (by simp) _ value v)⟩
  | vatPwr t half value =>
    cases h
    exact ⟨t, _, _, rfl, hkept fun v _ => (v.regPower_keepsBoot _ _).1⟩
  | strPwr t value =>
    cases h
    exact ⟨t, _, _, rfl, hkept fun v _ => (v.regPower_keepsBoot _ _).1⟩
  | errStatus t value =>
    cases h
    exact ⟨t, _, _, rfl, hkept fun v _ => State.boot_eq_of_hide (by simp [ite_hide, State.dropAccess_hide, State.writeErrStatus_hide])⟩
  | readClear t read =>
    cases h
    exact ⟨t, _, _, rfl, hkept fun v _ => (v.regRead_keepsBoot false _ _).1⟩
  | tsLo t =>
    cases h
    exact ⟨t, _, _, rfl, hkept fun v _ => (v.regRead_keepsBoot false _ _).1⟩
  | registerWrite t o size value =>
    cases h
    refine ⟨t, _, _, rfl, fun v hv => ⟨State.hostRegWrite_accessed hv o size value, ?_⟩⟩
    by_cases hctl : o = 0x014 ∧ size = 4
    · obtain ⟨rfl, rfl⟩ := hctl
      exact .inr ⟨t, .inr (.inr (.inl ⟨value, rfl⟩))⟩
    · exact .inl (State.hostRegWrite_fcount hv hctl value)
  | _ => exact nomatch hc

/-- Before HLK leaves reset the port takes no access (R368). -/
theorem State.hostAct_of_closed {s : State} (h : s.inRst 4 = true) (a : HostAct) (f : State → State) : s.hostAct a f = s := if_pos h

theorem State.hostAct_of_open {s : State} (h : ¬ s.inRst 4 = true) (a : HostAct) (f : State → State) :
    s.hostAct a f
      = (f s).modClk (fun c => { c with host := some (HostCycle.add s.clk.host s.clk.ctl a s.hostSnap (f s).hostSnap) }) := if_neg h

theorem State.hostAct_accessed {s : State} {f : State → State} (hf : s.boot.accessed (f s).boot) (a : HostAct) :
    s.boot.accessed (s.hostAct a f).boot := by
  by_cases hport : s.inRst 4 = true
  · rw [State.hostAct_of_closed hport]
    exact s.boot.accessed_refl
  · rw [State.hostAct_of_open hport]
    exact hf

/-- The accesses of a CTL cycle with one more begin where those before it began, or with it. -/
theorem HostCycle.add_before (c : Option HostCycle) (ctl : Nat) (a : HostAct) (p q : HostSnap) :
    (HostCycle.add c ctl a p q).before = p ∨ ∃ x, c = some x ∧ x.after = p ∧ (HostCycle.add c ctl a p q).before = x.before := by
  unfold HostCycle.add
  split
  case h_1 x =>
    split
    case isTrue hx => exact .inr ⟨x, rfl, hx.2, rfl⟩
    case isFalse => exact .inl rfl
  case h_2 => exact .inl rfl

/-- An access that leaves the boot held has not led into it. -/
theorem State.heldInSkim.hostAct {s : State} (h : s.heldInSkim) {f : State → State} (hf : (f s).boot.held) (a : HostAct) :
    (s.hostAct a f).heldInSkim := by
  by_cases hport : s.inRst 4 = true
  · rw [State.hostAct_of_closed hport]
    exact h
  · obtain ⟨hheld, hled⟩ := h
    rw [State.hostAct_of_open hport]
    refine ⟨hf, fun y hy _ => ?_⟩
    obtain rfl := Option.some.inj hy
    obtain hb | ⟨x, hx, hafter, hb⟩ := HostCycle.add_before s.clk.host s.clk.ctl a s.hostSnap (f s).hostSnap
    · rw [hb]
      exact hheld
    · rw [hb]
      exact hled x hx (by rw [hafter]; exact hheld)

/-- The boot is held, or the counter is cleared outside AWAIT_IMAGE, so that no GO raises it. -/
def State.heldOrCleared (s : State) : Prop := s.heldInSkim ∨ s.boot.fcount = 0 ∧ s.boot.stage ≠ 4

theorem State.heldOrCleared.stage_ne_four {s : State} (h : s.heldOrCleared) : s.boot.stage ≠ 4 := by
  obtain ⟨hheld, -⟩ | ⟨-, hstage⟩ := h
  · exact hheld.stage_ne_four
  · exact hstage

theorem State.heldOrCleared.of_accessed {s u : State} (h : s.heldOrCleared) (ha : s.boot.accessed u.boot)
    (hled : s.heldInSkim → u.boot.held → u.heldInSkim) : u.heldOrCleared := by
  have hstage : u.boot.stage ≠ 4 := by
    rw [ha.stage]
    exact h.stage_ne_four
  obtain hheld | ⟨hzero, -⟩ := h
  · exact (hheld.1.accessed ha).imp (hled hheld) fun hzero => ⟨hzero, hstage⟩
  · refine .inr ⟨?_, hstage⟩
    obtain hsame | hzero' := ha.fcount
    · rw [hsame, hzero]
    · exact hzero'

theorem State.heldOrCleared.hostAct {s : State} (h : s.heldOrCleared) {f : State → State} (hf : s.boot.accessed (f s).boot)
    (a : HostAct) : (s.hostAct a f).heldOrCleared := by
  by_cases hport : s.inRst 4 = true
  · rw [State.hostAct_of_closed hport]
    exact h
  · refine h.of_accessed (State.hostAct_accessed hf a) fun hheld hafter => hheld.hostAct ?_ a
    rwa [State.hostAct_of_open hport] at hafter

/-! ### The test wrapper's access, and the host link's after it (R382, R415) -/

theorem State.hostOp_accessed {s : State} (h : s.boot.stage ≠ 4) (a : HostAct) :
    s.boot.accessed (if a.write then s.hostRegWrite a.offset a.size a.value else s.regRead false a.offset a.size).boot := by
  split
  · exact State.hostRegWrite_accessed h _ _ _
  · exact Boot.accessed_of_eq (s.regRead_keepsBoot false _ _).1

theorem State.hostAgain_accessed {s : State} (h : s.boot.stage ≠ 4) (a : HostAct) : s.boot.accessed (s.hostAgain a).boot :=
  State.hostAct_accessed (State.hostOp_accessed h a) a

theorem foldl_hostAgain_accessed (acts : List HostAct) {s : State} (h : s.boot.stage ≠ 4) :
    s.boot.accessed (acts.foldl (fun s a => s.hostAgain a) s).boot := by
  induction acts generalizing s with
  | nil => exact s.boot.accessed_refl
  | cons a acts ih =>
    have ha := State.hostAgain_accessed h a
    exact ha.trans (ih (by rwa [ha.stage]))

theorem State.heldOrCleared.hostAgain {s : State} (h : s.heldOrCleared) (a : HostAct) : (s.hostAgain a).heldOrCleared :=
  h.hostAct (State.hostOp_accessed h.stage_ne_four a) a

theorem State.heldOrCleared.foldl_hostAgain (acts : List HostAct) {s : State} (h : s.heldOrCleared) :
    (acts.foldl (fun s a => s.hostAgain a) s).heldOrCleared := by
  induction acts generalizing s with
  | nil => exact h
  | cons a acts ih => exact ih (h.hostAgain a)

theorem State.skOnce_accessed {s : State} (h : s.boot.stage ≠ 4) (v : Nat) :
    s.boot.accessed (s.skOnce v).boot ∧ (s.skOnce v).clk.host = s.clk.host := by
  unfold State.skOnce
  extract_lets o wr u w
  split
  · exact ⟨s.boot.accessed_refl, rfl⟩
  split
  · exact ⟨s.boot.accessed_refl, rfl⟩
  have hu : u.boot.stage ≠ 4 := h
  change u.boot.accessed w.boot ∧ w.clk.host = u.clk.host
  unfold w
  split
  · exact State.regWrite_accessed hu true o _
  · obtain ⟨hboot, hhost⟩ := u.regRead_keepsBoot true o 4
    exact ⟨Boot.accessed_of_eq hboot, hhost⟩

theorem State.hostFirst_some {s : State} {x : HostCycle} (h : s.hostFirst = some x) : s.clk.host = some x ∧ x.after = s.hostSnap := by
  obtain ⟨hx, hp⟩ := Option.filter_eq_some_iff.mp h
  exact ⟨hx, eq_of_beq (Bool.and_eq_true_iff.mp hp).2⟩

/-- The boot unit as it was before the accesses, but for its memories. -/
theorem State.hostRestore_accessed (s : State) (x : HostSnap) : x.boot.accessed (s.hostRestore x).boot := ⟨rfl, rfl, .inl rfl⟩

theorem State.skAccess_of_alone {s : State} (h : s.hostFirst = none) (v : Nat) : s.skAccess v = s.skOnce v := by
  unfold State.skAccess
  rw [h]

theorem State.skAccess_of_first {s : State} {x : HostCycle} (h : s.hostFirst = some x) (v : Nat) :
    s.skAccess v = x.acts.foldl (fun s a => s.hostAgain a) ((s.hostRestore x.before).skOnce v) := by
  unfold State.skAccess
  rw [h]

/-- Where the wrapper's access comes first, it and the accesses after it begin from the boot unit before them. -/
theorem State.skAccess_accessed_of_first {s : State} {x : HostCycle} (hx : s.hostFirst = some x) (h : x.before.boot.stage ≠ 4) (v : Nat) :
    x.before.boot.accessed (s.skAccess v).boot := by
  have hrestore := s.hostRestore_accessed x.before
  have honce := (State.skOnce_accessed (s := s.hostRestore x.before) (by rwa [hrestore.stage]) v).1
  have hagain := foldl_hostAgain_accessed x.acts (s := (s.hostRestore x.before).skOnce v) (by rwa [honce.stage, hrestore.stage])
  rw [State.skAccess_of_first hx]
  exact (hrestore.trans honce).trans hagain

theorem State.heldInSkim.skOnce {s : State} (h : s.heldInSkim) (v : Nat) : (s.skOnce v).heldOrCleared := by
  obtain ⟨hboot, hhost⟩ := State.skOnce_accessed h.1.stage_ne_four v
  refine State.heldOrCleared.of_accessed (.inl h) hboot fun hheld hafter => ⟨hafter, ?_⟩
  rw [hhost]
  exact hheld.2

theorem State.heldInSkim.skAccess {s : State} (h : s.heldInSkim) (v : Nat) : (s.skAccess v).heldOrCleared := by
  cases hx : s.hostFirst with
  | none =>
    rw [State.skAccess_of_alone hx]
    exact h.skOnce v
  | some x =>
    obtain ⟨hhost, hafter⟩ := State.hostFirst_some hx
    have hbefore : x.before.boot.held := h.2 x hhost (by rw [hafter]; exact h.1)
    have hrestored : (s.hostRestore x.before).heldInSkim := ⟨hbefore, fun y hy => nomatch hy⟩
    rw [State.skAccess_of_first hx]
    exact (hrestored.skOnce v).foldl_hostAgain x.acts

end Sys2Proof.Machine
end

section
/-! PROOFS. Skim mode (R342 to R349): resets, the stages of the boot and the failures of cores, and what a step leaves of a boot
held at its counter's limit. -/

namespace Sys2Proof.Machine

/-! ### What keeps a held boot held -/

/-- The stages in which a boot can be held: 0, 1 and 9. -/
def Boot.lowStage (b : Boot) : Prop := b.stage = 0 ∨ b.stage = 1 ∨ b.stage = 9

/-- Between two states the stage, the counter, the last GO and the record of accesses stay. -/
structure State.keepsCount (s u : State) : Prop where
  stage : u.boot.stage = s.boot.stage
  fcount : u.boot.fcount = s.boot.fcount
  goUndo : u.boot.goUndo = s.boot.goUndo
  host : u.clk.host = s.clk.host

theorem State.keepsBoot.keepsCount {s u : State} (h : s.keepsBoot u) : s.keepsCount u := by
  obtain ⟨hboot, hhost⟩ := h
  exact ⟨by rw [hboot], by rw [hboot], by rw [hboot], hhost⟩

theorem State.keepsCount.trans {s u v : State} (h : s.keepsCount u) (h' : u.keepsCount v) : s.keepsCount v where
  stage := h'.stage.trans h.stage
  fcount := h'.fcount.trans h.fcount
  goUndo := h'.goUndo.trans h.goUndo
  host := h'.host.trans h.host

theorem State.keepsCount_refl (s : State) : s.keepsCount s := ⟨rfl, rfl, rfl, rfl⟩

theorem State.heldInSkim.of_held {s u : State} (h : s.heldInSkim) (hheld : u.boot.held) (hhost : u.clk.host = s.clk.host) :
    u.heldInSkim := by
  refine ⟨hheld, ?_⟩
  rw [hhost]
  exact h.2

theorem State.heldInSkim.keepsCount {s u : State} (h : s.heldInSkim) (hu : s.keepsCount u) : u.heldInSkim := by
  obtain ⟨hcount, hstage, hundo⟩ := h.1
  refine h.of_held ⟨?_, ?_, hu.goUndo.trans hundo⟩ hu.host
  · rwa [hu.fcount]
  · rwa [hu.stage]

/-! ### Failures of cores and clocks -/

theorem State.haltRole_keepsCount (s : State) (role core cause : Nat) : s.keepsCount (s.haltRole role core cause) := by
  unfold State.haltRole
  extract_lets alive u v
  have hu : s.keepsBoot u := s.logErr_keepsBoot _ _ _ _ _
  have hv : u.keepsBoot v := by
    unfold v
    split
    · exact State.keepsBoot_of_hide (State.failoverEvent_hide (by simp) (by simp) (by simp) role core 0xFF cause u)
    · exact u.keepsBoot_refl
  exact (hu.trans hv).keepsCount.trans ⟨rfl, rfl, rfl, rfl⟩

theorem State.coreFails_keepsCount (s : State) (core cause : Nat) : s.keepsCount (s.coreFails core cause) := by
  unfold State.coreFails
  split
  · split
    · exact (s.logErr_keepsBoot _ _ _ _ _).keepsCount
    · exact s.keepsCount_refl
  split
  · exact s.keepsCount_refl
  case h_2.isFalse i _ _ =>
    extract_lets u v
    have hu : s.keepsCount u := (s.logErr_keepsBoot _ _ _ _ _).keepsCount
    have hv : s.keepsCount v := hu.trans ⟨rfl, rfl, rfl, rfl⟩
    refine hv.trans ?_
    split
    · exact v.haltRole_keepsCount _ _ _
    split
    · exact v.keepsCount_refl
    split
    · exact ⟨rfl, rfl, rfl, rfl⟩
    · exact v.haltRole_keepsCount _ _ _

theorem State.failover_keepsCount (s : State) : s.keepsCount s.failover := by
  unfold State.failover
  split
  · extract_lets u v
    have hu : s.keepsCount u := ⟨rfl, rfl, rfl, rfl⟩
    have hv : u.keepsBoot v := by
      unfold v
      split
      · exact State.keepsBoot_of_hide (State.takeRung_hide (by simp) (by simp) (by simp) u)
      · exact u.keepsBoot_refl
    refine (hu.trans hv.keepsCount).trans (State.keepsBoot.keepsCount ?_)
    exact State.keepsBoot_of_hide (State.failoverEvent_hide (by simp) (by simp) (by simp) _ _ _ _ v)
  · exact s.keepsCount_refl

theorem State.clockLoss_keepsCount (s : State) (d : Nat) : s.keepsCount (s.clockLoss d) := by
  unfold State.clockLoss
  split
  · exact s.keepsCount_refl
  extract_lets p u v w
  have hu : s.keepsCount u := ⟨rfl, rfl, rfl, rfl⟩
  have hv : u.keepsCount v := by
    unfold v
    split
    · exact u.keepsCount_refl
    · exact (u.logErr_keepsBoot _ _ _ _ _).keepsCount
  have hw : v.keepsCount w := ⟨rfl, rfl, rfl, rfl⟩
  refine hu.trans ?_
  split
  · exact u.keepsCount_refl
  refine (hv.trans hw).trans ?_
  split
  · exact (w.logErr_keepsBoot _ _ _ _ _).keepsCount
  · exact ⟨rfl, rfl, rfl, rfl⟩

/-! ### The self-test and the boot counter (R337, R342, R343) -/

theorem State.bootFail_boot (s : State) (raise : Bool) (cause stage d0 d1 : Nat) (fw : Word) :
    (s.bootFail raise cause stage d0 d1 fw).boot = { s.boot with
      fcount := if raise then min 3 (s.boot.fcount + 1) else s.boot.fcount, bip := false,
      fails := (⟨s.now, cause, stage, fw, BitVec.ofNat 32 d0, BitVec.ofNat 32 d1⟩ :: s.boot.fails).take 3 } :=
  (State.logErr_keepsBoot _ _ _ _ _ _).1

theorem State.bootFail_host (s : State) (raise : Bool) (cause stage d0 d1 : Nat) (fw : Word) :
    (s.bootFail raise cause stage d0 d1 fw).clk.host = s.clk.host :=
  (State.logErr_keepsBoot _ _ _ _ _ _).2

/-- A failure counted at the limit leaves the counter there. -/
theorem State.bootFail_of_limit {s : State} (h : 3 ≤ s.boot.fcount) (cause stage d0 d1 : Nat) (fw : Word) :
    (s.bootFail true cause stage d0 d1 fw).boot.stage = s.boot.stage ∧ (s.bootFail true cause stage d0 d1 fw).boot.fcount = 3
      ∧ (s.bootFail true cause stage d0 d1 fw).boot.goUndo = s.boot.goUndo
      ∧ (s.bootFail true cause stage d0 d1 fw).clk.host = s.clk.host := by
  rw [State.bootFail_boot, State.bootFail_host]
  exact ⟨rfl, min_eq_left (by omega), rfl, rfl⟩

/-- Stage 2 leads into skim mode at a count of 3 or more, and to SRAM_INIT below it; it changes neither the count nor the last
GO. -/
theorem State.countStage_boot (s : State) :
    s.countStage.boot.stage = (if 3 ≤ s.boot.fcount then 9 else 3) ∧ s.countStage.boot.fcount = s.boot.fcount
      ∧ s.countStage.boot.goUndo = s.boot.goUndo ∧ s.countStage.clk.host = s.clk.host := by
  unfold State.countStage
  extract_lets u v
  have hv : v.boot.fcount = s.boot.fcount ∧ v.boot.goUndo = s.boot.goUndo ∧ v.clk.host = s.clk.host := by
    unfold v
    split
    · rw [State.bootFail_boot, State.bootFail_host]
      exact ⟨rfl, rfl, rfl⟩
    · exact ⟨rfl, rfl, rfl⟩
  rw [hv.1]
  split
  · exact ⟨rfl, hv⟩
  · exact ⟨rfl, hv⟩

/-- Four cores that pass give the roles out and lead to stage 2. -/
theorem State.selftest_of_full {s : State} {m : BitVec 5} (h : 4 ≤ (passing m).length) :
    ∃ u : State, s.selftest m = u.countStage ∧ s.keepsCount u :=
  ⟨_, if_pos h, rfl, rfl, rfl, rfl⟩

/-- At a count of 3 or more a self-test that any core passes ends in skim mode, with the counter at its limit. -/
theorem State.selftest_of_some {s : State} {m : BitVec 5} (hcount : 3 ≤ s.boot.fcount) (hpass : passing m ≠ []) :
    (s.selftest m).boot.stage = 9 ∧ 3 ≤ (s.selftest m).boot.fcount ∧ (s.selftest m).boot.goUndo = s.boot.goUndo
      ∧ (s.selftest m).clk.host = s.clk.host := by
  suffices hcounted : ∃ u : State, s.selftest m = u.countStage ∧ 3 ≤ u.boot.fcount ∧ u.boot.goUndo = s.boot.goUndo
      ∧ u.clk.host = s.clk.host by
    obtain ⟨u, heq, hcu, hundo, hhost⟩ := hcounted
    obtain ⟨hstage, hfcount, hundo', hhost'⟩ := u.countStage_boot
    rw [if_pos hcu] at hstage
    rw [heq]
    exact ⟨hstage, by rwa [hfcount], hundo'.trans hundo, hhost'.trans hhost⟩
  by_cases hfull : 4 ≤ (passing m).length
  · obtain ⟨u, heq, hu⟩ := State.selftest_of_full (s := s) hfull
    exact ⟨u, heq, by rwa [hu.fcount], hu.goUndo, hu.host⟩
  · unfold State.selftest
    extract_lets ok give v w
    obtain ⟨-, hfcount, hundo, hhost⟩ : v.boot.stage = _ ∧ _ := State.bootFail_of_limit hcount _ _ _ _ _
    have hw : w.boot.fcount = 3 := hfcount
    rw [if_neg hfull, if_neg hpass, if_pos hw.ge]
    exact ⟨w, rfl, hw.ge, hundo, hhost⟩

/-- A self-test that no core passes halts the block where it stands (R337). -/
theorem State.selftest_of_nil {s : State} {m : BitVec 5} (hcount : 3 ≤ s.boot.fcount) (hpass : passing m = []) :
    (s.selftest m).boot.stage = s.boot.stage ∧ (s.selftest m).boot.fcount = 3 ∧ (s.selftest m).boot.goUndo = s.boot.goUndo
      ∧ (s.selftest m).clk.host = s.clk.host := by
  unfold State.selftest
  extract_lets ok give v w
  have hfull : ¬ 4 ≤ ok.length := by simp [ok, hpass]
  have hv := State.bootFail_of_limit hcount causeSelftest 1 (31 - m.toNat) 0 0
  rw [if_neg hfull, if_pos hpass]
  exact hv

theorem State.heldInSkim.selftest {s : State} (h : s.heldInSkim) (m : BitVec 5) : (s.selftest m).heldInSkim := by
  obtain ⟨hcount, hstage, hundo⟩ := h.1
  by_cases hpass : passing m = []
  · obtain ⟨hstage', hcount', hundo', hhost⟩ := State.selftest_of_nil hcount hpass
    exact h.of_held ⟨hcount'.ge, by rwa [hstage'], hundo'.trans hundo⟩ hhost
  · obtain ⟨hstage', hcount', hundo', hhost⟩ := State.selftest_of_some hcount hpass
    exact h.of_held ⟨hcount', .inr (.inr hstage'), hundo'.trans hundo⟩ hhost

theorem exec_selftestDone_of_due {s : State} (hstage : s.boot.stage = 1) (hhalt : s.boot.halt = false) (t : Time) (m : BitVec 5) :
    exec (.selftestDone t m) s = .next ((s.at t).selftest m) := by
  have hdue : (s.at t).boot.stage = 1 ∧ (!(s.at t).boot.halt) = true := ⟨hstage, by rw [State.at_boot, hhalt]; rfl⟩
  change Host.Outcome.next _ = _
  rw [if_pos hdue]

theorem exec_selftestDone_of_not_due {s : State} (h : ¬ (s.boot.stage = 1 ∧ s.boot.halt = false)) (t : Time) (m : BitVec 5) :
    exec (.selftestDone t m) s = .next (s.at t) := by
  have hnot : ¬ ((s.at t).boot.stage = 1 ∧ (!(s.at t).boot.halt) = true) := by
    rwa [State.at_boot, Bool.not_eq_true']
  change Host.Outcome.next _ = _
  rw [if_neg hnot]

/-! ### Events of the boot and of the cores -/

/-- An event does nothing where its condition fails. -/
theorem State.keepsCount_of_gate {s v u : State} {t : Time} {p : Prop} [Decidable p]
    (h : (.next (if p then v else s.at t) : Result1) = .next u) (hp : ¬ p) : s.keepsCount u := by
  rw [if_neg hp] at h
  cases h
  exact ⟨rfl, rfl, rfl, rfl⟩

/-- A core's failure, or nothing. -/
theorem State.coreFails_or_at_keepsCount (s : State) (t : Time) (p : Prop) [Decidable p] (core cause : Nat) :
    s.keepsCount (if p then (s.at t).coreFails core cause else s.at t) := by
  split
  · exact State.keepsCount.trans (u := s.at t) ⟨rfl, rfl, rfl, rfl⟩ (State.coreFails_keepsCount _ core cause)
  · exact ⟨rfl, rfl, rfl, rfl⟩

/-- Away from stages 3 and 5 to 7 only the self-test moves the boot on. -/
theorem exec_event_keepsCount {c : Instr} {s u : State} (hc : bootPart c = .event) (htest : ∀ t m, c ≠ .selftestDone t m)
    (hlow : s.boot.lowStage) (h : exec c s = .next u) : s.keepsCount u := by
  have hstage {n : Nat} (hn : n = 3 ∨ 5 ≤ n ∧ n ≤ 7) (t : Time) : (s.at t).boot.stage ≠ n := by
    change s.boot.stage ≠ n
    unfold Boot.lowStage at hlow
    omega
  cases c with
  | selftestDone t m => exact absurd rfl (htest t m)
  | sramInitDone t ue bad =>
    cases h
    rw [if_neg (fun hp => hstage (by decide) t hp.1), if_neg (fun hp => hstage (by decide) t hp.1)]
    exact ⟨rfl, rfl, rfl, rfl⟩
  | authDone t => exact State.keepsCount_of_gate h fun hp => hstage (by decide) t hp.1
  | loadDone t => exact State.keepsCount_of_gate h fun hp => hstage (by decide) t hp.1
  | ready t => exact State.keepsCount_of_gate h fun hp => hstage (by decide) t hp.1
  | fwInitTimeout t => exact State.keepsCount_of_gate h fun hp => hstage (by decide) t hp.1
  | watchdogExpiry t core =>
    cases h
    exact s.coreFails_or_at_keepsCount t _ core 1
  | unhandledTrap t core addr code =>
    cases h
    rw [if_neg (fun hp => hstage (by decide) t (eq_of_beq (Bool.and_eq_true_iff.mp hp).2))]
    exact s.coreFails_or_at_keepsCount t _ core 2
  | privateSramError t core =>
    cases h
    exact s.coreFails_or_at_keepsCount t _ core 3
  | coreFailover t =>
    cases h
    split
    · exact ⟨rfl, rfl, rfl, rfl⟩
    · exact State.keepsCount.trans (u := s.at t) ⟨rfl, rfl, rfl, rfl⟩ (State.failover_keepsCount _)
  | clockLoss t d =>
    cases h
    exact State.keepsCount.trans (u := s.at t) ⟨rfl, rfl, rfl, rfl⟩ (State.clockLoss_keepsCount _ d)
  | _ => exact nomatch hc

theorem exec_event_heldInSkim {c : Instr} {s u : State} (hc : bootPart c = .event) (hs : s.heldInSkim) (h : exec c s = .next u) :
    u.heldInSkim := by
  by_cases htest : ∃ t m, c = .selftestDone t m
  case neg => exact hs.keepsCount (exec_event_keepsCount hc (fun t m hcm => htest ⟨t, m, hcm⟩) hs.1.2.1 h)
  obtain ⟨t, m, rfl⟩ := htest
  have hat : (s.at t).heldInSkim := hs
  by_cases hdue : s.boot.stage = 1 ∧ s.boot.halt = false
  · rw [exec_selftestDone_of_due hdue.1 hdue.2] at h
    cases h
    exact hat.selftest m
  · rw [exec_selftestDone_of_not_due hdue] at h
    cases h
    exact hat

theorem exec_event_stage_nine {c : Instr} {s u : State} (hc : bootPart c = .event) (hnine : s.boot.stage = 9) (h : exec c s = .next u) :
    u.boot.stage = 9 := by
  by_cases htest : ∃ t m, c = .selftestDone t m
  case neg => exact (exec_event_keepsCount hc (fun t m hcm => htest ⟨t, m, hcm⟩) (.inr (.inr hnine)) h).stage.trans hnine
  obtain ⟨t, m, rfl⟩ := htest
  rw [exec_selftestDone_of_not_due (fun hdue => absurd (hdue.1.symm.trans hnine) (by decide))] at h
  cases h
  exact hnine

/-! ### Resets -/

/-- Between two states the steps of a reset sequence come: the counter, the last GO, the log and the record of accesses stay,
and the boot stays where it is or begins its self-test. -/
structure State.sequenced (s u : State) : Prop where
  stage : u.boot.stage = s.boot.stage ∨ u.boot.stage = 1
  fcount : u.boot.fcount = s.boot.fcount
  goUndo : u.boot.goUndo = s.boot.goUndo
  host : u.clk.host = s.clk.host
  log : u.log = s.log

theorem State.sequenced_refl (s : State) : s.sequenced s := ⟨.inl rfl, rfl, rfl, rfl, rfl⟩

theorem State.sequenced.trans {s u v : State} (h : s.sequenced u) (h' : u.sequenced v) : s.sequenced v where
  stage := by
    obtain hv | hv := h'.stage
    · rw [hv]; exact h.stage
    · exact .inr hv
  fcount := h'.fcount.trans h.fcount
  goUndo := h'.goUndo.trans h.goUndo
  host := h'.host.trans h.host
  log := h'.log.trans h.log

theorem State.sequenceStep_sequenced (s : State) (k : Nat) : s.sequenced (s.sequenceStep k) := by
  unfold State.sequenceStep
  split
  case h_9 => exact ⟨.inr rfl, rfl, rfl, rfl, rfl⟩
  all_goals exact ⟨.inl rfl, rfl, rfl, rfl, rfl⟩

theorem State.resetSequence_sequenced (s : State) (upTo : Nat) : s.sequenced (s.resetSequence upTo) := by
  refine List.foldlRecOn (motive := s.sequenced) _ _ s.sequenced_refl fun u hu i _ => hu.trans ?_
  split
  · exact (u.sequenceStep_sequenced (i + 1)).trans ⟨.inl rfl, rfl, rfl, rfl, rfl⟩
  · exact u.sequenced_refl

/-- With no GO to take back, BIP and the counter stay over a reset (R372). -/
theorem State.bootKept_of_no_undo {s : State} (h : s.boot.goUndo = none) : s.bootKept = (s.boot.bip, s.boot.fcount) := by
  unfold State.bootKept
  rw [h]

theorem State.underReset_heldInSkim {s : State} (h : s.boot.held) (cold : Bool) : (s.underReset cold).heldInSkim := by
  obtain ⟨hcount, -, hundo⟩ := h
  refine ⟨⟨?_, .inl rfl, rfl⟩, fun x hx => nomatch hx⟩
  change 3 ≤ s.bootKept.2
  rwa [State.bootKept_of_no_undo hundo]

/-- What every reset keeps (R349, R372, Table 16-5). -/
def State.resetKeeps (s u : State) : Prop :=
  (s.boot.goUndo = none → u.boot.fcount = s.boot.fcount) ∧ u.log.entries = s.log.entries ∧ u.log.next = s.log.next

theorem State.underReset_resetKeeps (s : State) (cold : Bool) : s.resetKeeps (s.underReset cold) :=
  ⟨fun h => congrArg Prod.snd (State.bootKept_of_no_undo h), rfl, rfl⟩

theorem exec_warmReset (t : Time) (s : State) :
    exec (.warmReset t) s = .next (s.at t) ∨ exec (.warmReset t) s = .next ((s.at t).underReset false) := by
  have hexec : exec (.warmReset t) s = .next (if (s.at t).clk.cold && !(s.at t).clk.rstDone then s.at t else (s.at t).underReset false) := rfl
  rw [hexec]
  split
  · exact .inl rfl
  · exact .inr rfl

theorem exec_resetRelease (t : Time) (k : Nat) (s : State) : exec (.resetRelease ⟨t, k⟩) s = .next ((s.at t).resetSequence k) := rfl

/-! ### What one command leaves of a held boot -/

theorem State.heldInSkim.sequenced {s u : State} (h : s.heldInSkim) (hu : s.sequenced u) : u.heldInSkim := by
  obtain ⟨hcount, hstage, hundo⟩ := h.1
  refine h.of_held ⟨?_, ?_, hu.goUndo.trans hundo⟩ hu.host
  · rwa [hu.fcount]
  · obtain hsame | hone := hu.stage
    · rwa [hsame]
    · exact .inr (.inl hone)

/-- The wrapper's access leaves skim mode neither by itself nor through the host link's accesses after it. -/
theorem State.skAccess_stage_nine {s : State} (hnine : s.boot.stage = 9)
    (hled : ∀ x, s.clk.host = some x → x.after.boot.stage = 9 → x.before.boot.stage = 9) (v : Nat) : (s.skAccess v).boot.stage = 9 := by
  cases hx : s.hostFirst with
  | none =>
    rw [State.skAccess_of_alone hx, (State.skOnce_accessed (by omega) v).1.stage, hnine]
  | some x =>
    obtain ⟨hhost, hafter⟩ := State.hostFirst_some hx
    have hbefore : x.before.boot.stage = 9 := hled x hhost (by rw [hafter]; exact hnine)
    rw [(State.skAccess_accessed_of_first hx (by omega) v).stage, hbefore]

/-- No command leaves a held boot but one that clears the counter. -/
theorem exec_heldInSkim {c : Instr} {s u : State} (hs : s.heldInSkim) (h : exec c s = .next u) :
    u.heldInSkim ∨ u.boot.fcount = 0 ∧ clearsCount c := by
  have hkept (hu : s.keepsBoot u) : u.heldInSkim := hs.of_held (hu.1 ▸ hs.1) hu.2
  cases hc : bootPart c with
  | mail => exact .inl (hkept (exec_keepsBoot_of_mail hc h))
  | none => exact .inl (hkept (exec_keepsBoot_of_none hc h))
  | event => exact .inl (exec_event_heldInSkim hc hs h)
  | access =>
    obtain ⟨t, a, f, rfl, hf⟩ := exec_access hc h
    have hat : (s.at t).heldInSkim := hs
    obtain ⟨hboot, hsame | hclears⟩ := hf (s.at t) hat.1.stage_ne_four
    · have hnonzero : (f (s.at t)).boot.fcount ≠ 0 := by
        have hcount := hat.1.1
        omega
      exact .inl (hat.hostAct ((hat.1.accessed hboot).resolve_right hnonzero) a)
    · exact (State.heldOrCleared.hostAct (.inl hat) hboot a).imp_right fun hcleared => ⟨hcleared.1, hclears⟩
  | wrapper =>
    cases c with
    | skReg t value =>
      have hat : (s.at t).heldInSkim := hs
      cases h
      split
      · exact (hat.skAccess value.toNat).imp_right fun hcleared => ⟨hcleared.1, t, .inr (.inr (.inr ⟨value, rfl⟩))⟩
      · exact .inl hat
    | _ => exact nomatch hc
  | reset =>
    cases c with
    | coldReset t =>
      cases h
      exact .inl (State.underReset_heldInSkim (s := s.at t) hs.1 true)
    | warmReset t =>
      have hat : (s.at t).heldInSkim := hs
      obtain hexec | hexec := exec_warmReset t s
      · cases hexec.symm.trans h
        exact .inl hat
      · cases hexec.symm.trans h
        exact .inl (State.underReset_heldInSkim hat.1 false)
    | resetRelease r =>
      have hat : (s.at r.time).heldInSkim := hs
      obtain rfl := Host.Outcome.next.inj ((exec_resetRelease r.time r.upTo s).symm.trans h)
      exact .inl (hat.sequenced (State.resetSequence_sequenced _ r.upTo))
    | powerLoss t =>
      cases h
      exact .inr ⟨rfl, t, .inl rfl⟩
    | _ => exact nomatch hc

/-- No command but a reset, its release or a loss of power leaves skim mode. -/
theorem exec_stage_nine {c : Instr} {s u : State} (hnine : s.boot.stage = 9)
    (hled : ∀ x, s.clk.host = some x → x.after.boot.stage = 9 → x.before.boot.stage = 9) (h : exec c s = .next u) :
    u.boot.stage = 9 ∨ ∃ a k, c = .coldReset a ∨ c = .warmReset a ∨ c = .resetRelease ⟨a, k⟩ ∨ c = .powerLoss a := by
  have hfour : s.boot.stage ≠ 4 := by omega
  have hkept (hu : s.keepsBoot u) : u.boot.stage = 9 := by rw [hu.1, hnine]
  cases hc : bootPart c with
  | mail => exact .inl (hkept (exec_keepsBoot_of_mail hc h))
  | none => exact .inl (hkept (exec_keepsBoot_of_none hc h))
  | event => exact .inl (exec_event_stage_nine hc hnine h)
  | access =>
    obtain ⟨t, a, f, rfl, hf⟩ := exec_access hc h
    have haccessed := State.hostAct_accessed (hf (s.at t) hfour).1 a
    exact .inl (haccessed.stage.trans hnine)
  | wrapper =>
    cases c with
    | skReg t value =>
      cases h
      split
      · exact .inl (State.skAccess_stage_nine (s := s.at t) hnine hled value.toNat)
      · exact .inl hnine
    | _ => exact nomatch hc
  | reset =>
    cases c with
    | coldReset t => exact .inr ⟨t, 0, .inl rfl⟩
    | warmReset t => exact .inr ⟨t, 0, .inr (.inl rfl)⟩
    | resetRelease r => exact .inr ⟨r.time, r.upTo, .inr (.inr (.inl rfl))⟩
    | powerLoss t => exact .inr ⟨t, 0, .inr (.inr (.inr rfl))⟩
    | _ => exact nomatch hc

theorem step_heldInSkim {s u : State} (hs : s.heldInSkim) (h : step s = .next u) : u.heldInSkim ∨ u.boot.fcount = 0 := by
  unfold step at h
  split at h
  · cases h
    exact .inl hs
  case h_2 c rest _ =>
    have hrest : State.heldInSkim { s with pending := rest } := hs
    exact (exec_heldInSkim hrest h).imp_right And.left

/-- A self-test at the counter's limit ends in skim mode, and one with the counter cleared leads to SRAM_INIT. -/
theorem exec_selftestDone_stage {s : State} (hstage : s.boot.stage = 1) (hhalt : s.boot.halt = false) (t : Time) (m : BitVec 5) :
    ∃ u, exec (.selftestDone t m) s = .next u ∧ (3 ≤ s.boot.fcount → passing m ≠ [] → u.boot.stage = 9)
      ∧ (s.boot.fcount = 0 → 4 ≤ (passing m).length → u.boot.stage = 3) := by
  refine ⟨_, exec_selftestDone_of_due hstage hhalt t m, fun hcount hpass => ?_, fun hzero hfull => ?_⟩
  · exact (State.selftest_of_some (s := s.at t) hcount hpass).1
  · obtain ⟨u, heq, hu⟩ := State.selftest_of_full (s := s.at t) hfull
    have hcount : u.boot.fcount = 0 := hu.fcount.trans hzero
    rw [heq, u.countStage_boot.1, hcount, if_neg (by decide)]

/-- Settles O7. A command's part in the boot (`bootPart`) says what it can do to it: `exec_heldInSkim` and `exec_stage_nine` go
through the parts, the self-test's end is `exec_selftestDone_stage`, and what a reset keeps is `State.underReset_resetKeeps` and
`State.resetSequence_sequenced`. -/
theorem skimModeLeft : Obligations.SkimModeLeft := by
  unfold Obligations.SkimModeLeft
  refine ⟨fun s u => step_heldInSkim, fun c s u h => ⟨fun hnine hled => exec_stage_nine hnine hled h, fun hs hzero => ?_⟩,
    fun s t m hstage hhalt => exec_selftestDone_stage hstage hhalt t m, fun s t => ⟨?_, ?_, fun k => ?_⟩⟩
  case refine_1 =>
    obtain hheld | ⟨-, hclears⟩ := exec_heldInSkim hs h
    · have hcount := hheld.1.1
      omega
    · exact hclears
  case refine_2 => exact ⟨_, rfl, (s.at t).underReset_resetKeeps true⟩
  case refine_3 =>
    obtain hexec | hexec := exec_warmReset t s
    · exact ⟨_, hexec, fun _ => rfl, rfl, rfl⟩
    · exact ⟨_, hexec, (s.at t).underReset_resetKeeps false⟩
  case refine_4 =>
    have hseq := (s.at t).resetSequence_sequenced k
    exact ⟨_, exec_resetRelease t k s, hseq.fcount, congrArg Log.entries hseq.log, congrArg Log.next hseq.log⟩

end Sys2Proof.Machine
end

section
/-! PROOFS. BOOT_CTL (R343, R371 to R373): the ACCESS bit of a dropped access, what GO and the repair list's rule do to the boot
unit, and a BOOT_CTL write by its forms. -/

namespace Sys2Proof.Machine

/-! ### ACCESS, and the other bits that an error sets in ERR_STATUS (R365, R381) -/

theorem bit_or_two_pow (x : Word) {n : Nat} (h : n < 32) : bit (x ||| BitVec.ofNat 32 (2 ^ n)).toNat n = true := by
  unfold bit
  rw [BitVec.testBit_toNat, BitVec.getLsbD_or, BitVec.getLsbD_ofNat, Nat.testBit_two_pow_self]
  simp [h]

theorem Regs.record_errStatus (r : Regs) (ctl aon code n : Nat) (d0 : Word) :
    (r.record ctl aon code n d0).errStatus = r.errStatus ||| BitVec.ofNat 32 (2 ^ n) := by
  unfold Regs.record
  extract_lets same old cand set q
  split
  · rfl
  · rfl

theorem Regs.record_sets_bit (r : Regs) (ctl aon code : Nat) (d0 : Word) {n : Nat} (h : n < 32) :
    bit (r.record ctl aon code n d0).errStatus.toNat n = true := by
  rw [Regs.record_errStatus]
  exact bit_or_two_pow _ h

theorem State.logErr_regs {code n : Nat} (hbit : errBit code = some n) (s : State) (slot : Option Nat) (d0 d1 d2 : Nat) :
    (s.logErr code slot d0 d1 d2).regs = s.regs.record s.clk.ctl s.now code n (BitVec.ofNat 32 d0) := by
  unfold State.logErr State.logAt
  rw [hbit]
  rfl

/-- An error sets its bit whether or not its entry may be written again (R404). -/
theorem State.limitedErr_sets_bit {code n : Nat} (hbit : errBit code = some n) (hn : n < 32) (s : State) (last : Option Nat)
    (d0 d1 : Nat) : bit (s.limitedErr last code d0 d1).1.regs.errStatus.toNat n = true := by
  unfold State.limitedErr
  extract_lets due
  split
  · rw [State.logErr_regs hbit]
    exact Regs.record_sets_bit _ _ _ _ _ hn
  · rw [hbit]
    exact Regs.record_sets_bit _ _ _ _ _ hn

theorem State.dropAccess_sets_access (s : State) (offset : Nat) (wr : Bool) :
    bit (s.dropAccess offset wr).regs.errStatus.toNat 5 = true :=
  State.limitedErr_sets_bit (code := errAccessDropped) (by decide) (by decide) s _ _ _

/-! ### GO and the repair list (R68, R343, R372, R373) -/

/-- A repair list without a bad entry is one that R68 allows. -/
theorem badRepair_eq_none_iff (l : List Word) :
    badRepair l = none ↔ ∀ e ∈ l, bit e.toNat 31 = true ∧ bits e.toNat 17 14 = 0 := by
  simp [badRepair, List.findIdx?_eq_none_iff]

/-- Whether R68, with the intake's OVF, rules out the repair list that GO takes. -/
def Boot.rejectsRepair (b : Boot) : Bool := b.repairOvf || (badRepair b.repair).isSome

theorem Boot.rejectsRepair_eq_false_iff (b : Boot) :
    b.rejectsRepair = false ↔ b.repairOvf = false ∧ ∀ e ∈ b.repair, bit e.toNat 31 = true ∧ bits e.toNat 17 14 = 0 := by
  rw [← badRepair_eq_none_iff, Boot.rejectsRepair, Bool.or_eq_false_iff, Option.isSome_eq_false_iff, Option.isNone_iff_eq_none]

theorem b2n_eq_zero_iff (b : Bool) : b2n b = 0 ↔ b = false := by cases b <;> decide

theorem State.go_boot (s : State) :
    s.go.boot = { s.boot with
      stage := 5, fcount := min 3 (s.boot.fcount + 1), bip := true, goLen := s.boot.imageLen, taken := s.boot.repair,
      takenOvf := s.boot.repairOvf, repairN := s.boot.repair.length, repairSt := b2n s.boot.rejectsRepair,
      goUndo := some (s.clk.ctl, s.now, s.boot.bip, s.boot.fcount) } := by
  have hbad : (if s.boot.repairOvf then some 1024 else badRepair s.boot.repair).isSome = s.boot.rejectsRepair := by
    unfold Boot.rejectsRepair
    cases s.boot.repairOvf
    · rfl
    · rfl
  unfold State.go
  extract_lets bad u
  have hu : u.boot.repairSt = b2n s.boot.rejectsRepair := congrArg b2n hbad
  rw [← hu]
  generalize bad = fault
  cases fault with
  | none => rfl
  | some i => exact (u.logErr_keepsBoot _ _ _ _ _).1

/-! ### A BOOT_CTL write by its forms (R371) -/

/-- A write of BOOT_CTL that carries the key and no reserved bit. -/
def bootCtlKeyed (v : Word) : Prop := bits v.toNat 16 16 = 0xA5C3 ∧ bits v.toNat 2 14 = 0

/-- The state after what CLEAR in a BOOT_CTL write does. -/
def State.cleared (s : State) (v : Word) : State := if bit v.toNat 1 then s.modBoot (fun b => { b with fcount := 0 }) else s

theorem State.cleared_boot (s : State) (v : Word) :
    (s.cleared v).boot = { s.boot with fcount := if bit v.toNat 1 then 0 else s.boot.fcount } := by
  unfold State.cleared
  split
  · rfl
  · rfl

theorem State.cleared_regs (s : State) (v : Word) : (s.cleared v).regs = s.regs := by
  unfold State.cleared
  split
  · rfl
  · rfl

section
variable {s : State} (hlink : s.inRst 4 = false)
include hlink

theorem State.bootCtl_of_unkeyed {v : Word} (hkey : ¬ bootCtlKeyed v) : s.bootCtl v = s.dropAccess 0x014 true := by
  have hdrop : s.inRst 2 = true ∨ bits v.toNat 16 16 ≠ 0xA5C3 ∨ bits v.toNat 2 14 ≠ 0 := .inr (not_and_or.mp hkey)
  unfold State.bootCtl
  extract_lets n u
  rw [hlink, if_neg (by decide), if_pos hdrop]

variable (hctl : s.inRst 2 = false)
include hctl

theorem State.bootCtl_of_keyed {v : Word} (hkey : bootCtlKeyed v) :
    s.bootCtl v = if bit v.toNat 0 then
        (if s.boot.stage = 4 ∧ s.boot.halt = false then (s.cleared v).go else (s.cleared v).dropAccess 0x014 true)
      else s.cleared v := by
  obtain ⟨hword, hreserved⟩ := hkey
  have htaken : ¬ (s.inRst 2 = true ∨ bits v.toNat 16 16 ≠ 0xA5C3 ∨ bits v.toNat 2 14 ≠ 0) := by simp [hctl, hword, hreserved]
  have hdue : (s.cleared v).boot.stage = 4 ∧ (!(s.cleared v).boot.halt) = true ↔ s.boot.stage = 4 ∧ s.boot.halt = false := by
    rw [State.cleared_boot, Bool.not_eq_true']
  unfold State.bootCtl
  extract_lets n u
  have hu : u = s.cleared v := rfl
  rw [hlink, if_neg (by decide), if_neg htaken, hu, if_congr hdue rfl rfl]

end

/-- GO and CLEAR, the two commands that write BOOT_CTL. -/
def writesBootCtl (c : Instr) (t : Time) (v : Word) : Prop := c = .go t v ∨ c = .clear t v

/-- With HLK out of reset a command that writes BOOT_CTL does what the write does, and besides moves the clocks alone. -/
theorem exec_writesBootCtl {s : State} {c : Instr} {t : Time} {v : Word} (hlink : s.inRst 4 = false) (hc : writesBootCtl c t v) :
    ∃ u, exec c s = .next u ∧ u.boot = ((s.at t).bootCtl v).boot ∧ u.regs = ((s.at t).bootCtl v).regs
      ∧ s.onlyChanges [.clk, .boot, .regs, .log] u := by
  have hport : ¬ (s.at t).inRst 4 = true := by simp [hlink]
  have hexec : exec c s = .next ((s.at t).hostAct ⟨true, 0x014, 4, v.setWidth 64⟩ (fun s => s.bootCtl v)) := by
    obtain rfl | rfl := hc
    · rfl
    · rfl
  rw [State.hostAct_of_open hport] at hexec
  refine ⟨_, hexec, rfl, rfl, ?_⟩
  unfold State.onlyChanges
  rw [State.modClk_hide (by simp), State.bootCtl_hide (by simp) (by simp) (by simp), State.at_hide (by simp)]

/-- A BOOT_CTL write without the key, or with reserved bits set, is dropped. -/
theorem exec_writesBootCtl_of_unkeyed {s : State} {c : Instr} {t : Time} {v : Word} (hlink : s.inRst 4 = false)
    (hkey : ¬ bootCtlKeyed v) (hc : writesBootCtl c t v) :
    ∃ u, exec c s = .next u ∧ u.boot = s.boot ∧ bit u.regs.errStatus.toNat 5 = true := by
  obtain ⟨u, hu, hboot, hregs, -⟩ := exec_writesBootCtl hlink hc
  rw [State.bootCtl_of_unkeyed (s := s.at t) hlink hkey] at hboot hregs
  refine ⟨u, hu, hboot.trans (State.dropAccess_keepsBoot _ _ _).1, ?_⟩
  rw [hregs]
  exact State.dropAccess_sets_access _ _ _

section
variable {s : State} {t : Time} {v : Word} (hlink : s.inRst 4 = false) (hctl : s.inRst 2 = false) (hkey : bootCtlKeyed v)
include hlink hctl hkey

/-- GO in AWAIT_IMAGE without a halt, after what CLEAR in the same write does. -/
theorem exec_go_of_due (hgo : bit v.toNat 0 = true) (hstage : s.boot.stage = 4) (hhalt : s.boot.halt = false) :
    ∃ u, exec (.go t v) s = .next u ∧ u.boot = ((s.at t).cleared v).go.boot ∧ s.onlyChanges [.clk, .boot, .regs, .log] u := by
  obtain ⟨u, hu, hboot, -, hframe⟩ := exec_writesBootCtl hlink (.inl rfl)
  rw [State.bootCtl_of_keyed (s := s.at t) hlink hctl hkey, if_pos hgo, if_pos ⟨hstage, hhalt⟩] at hboot
  exact ⟨u, hu, hboot, hframe⟩

/-- GO in any other state of the boot sets ACCESS. -/
theorem exec_go_of_not_due (hgo : bit v.toNat 0 = true) (hdue : s.boot.stage ≠ 4 ∨ s.boot.halt = true) :
    ∃ u, exec (.go t v) s = .next u ∧ u.boot = ((s.at t).cleared v).boot ∧ bit u.regs.errStatus.toNat 5 = true
      ∧ s.onlyChanges [.clk, .boot, .regs, .log] u := by
  have hnot : ¬ ((s.at t).boot.stage = 4 ∧ (s.at t).boot.halt = false) := by
    rw [State.at_boot, not_and_or, Bool.not_eq_false]
    exact hdue
  obtain ⟨u, hu, hboot, hregs, hframe⟩ := exec_writesBootCtl hlink (.inl rfl)
  rw [State.bootCtl_of_keyed (s := s.at t) hlink hctl hkey, if_pos hgo, if_neg hnot] at hboot hregs
  refine ⟨u, hu, hboot.trans (State.dropAccess_keepsBoot _ _ _).1, ?_, hframe⟩
  rw [hregs]
  exact State.dropAccess_sets_access _ _ _

/-- A write without GO does what CLEAR in it does. -/
theorem exec_clear_of_no_go (hgo : bit v.toNat 0 = false) :
    ∃ u, exec (.clear t v) s = .next u ∧ u.boot = ((s.at t).cleared v).boot ∧ u.regs = s.regs
      ∧ s.onlyChanges [.clk, .boot, .regs, .log] u := by
  obtain ⟨u, hu, hboot, hregs, hframe⟩ := exec_writesBootCtl hlink (.inr rfl)
  rw [State.bootCtl_of_keyed (s := s.at t) hlink hctl hkey, hgo, if_neg (by decide)] at hboot hregs
  exact ⟨u, hu, hboot, hregs.trans (State.cleared_regs _ v), hframe⟩

end

/-- Settles O30. A keyed write is one of three forms: GO that is due (`exec_go_of_due`, with `State.go_boot` for its effect and
`Boot.rejectsRepair_eq_false_iff` for R68's rule), GO that is not (`exec_go_of_not_due`), and no GO (`exec_clear_of_no_go`); what
CLEAR does in each is `State.cleared_boot`. -/
theorem bootControlWrites : Obligations.BootControlWrites := by
  unfold Obligations.BootControlWrites
  intro s t v hlink hctl
  refine ⟨fun hword hreserved => ⟨fun hgo hstage hhalt => ?_, fun hgo hdue => ?_, fun hclear hgo => ?_⟩, fun hbad => ?_⟩
  case refine_1 =>
    obtain ⟨u, hu, hboot, hframe⟩ := exec_go_of_due (t := t) hlink hctl ⟨hword, hreserved⟩ hgo hstage hhalt
    rw [State.go_boot, State.cleared_boot] at hboot
    refine ⟨u, hu, ?_⟩
    rw [hboot]
    refine ⟨rfl, rfl, rfl, rfl, rfl, ?_, hframe⟩
    exact (b2n_eq_zero_iff _).trans s.boot.rejectsRepair_eq_false_iff
  case refine_2 =>
    obtain ⟨u, hu, hboot, haccess, hframe⟩ := exec_go_of_not_due (t := t) hlink hctl ⟨hword, hreserved⟩ hgo hdue
    exact ⟨u, hu, hboot.trans (State.cleared_boot _ v), haccess, hframe⟩
  case refine_3 =>
    obtain ⟨u, hu, hboot, hregs, hframe⟩ := exec_clear_of_no_go (t := t) hlink hctl ⟨hword, hreserved⟩ hgo
    rw [State.cleared_boot, if_pos hclear] at hboot
    exact ⟨u, hu, hboot, hregs, hframe⟩
  case refine_4 =>
    have hkey : ¬ bootCtlKeyed v := not_and_or.mpr hbad
    exact ⟨exec_writesBootCtl_of_unkeyed hlink hkey (.inl rfl), exec_writesBootCtl_of_unkeyed hlink hkey (.inr rfl)⟩

end Sys2Proof.Machine
end

section
/-! PROOFS. The reports of the mailbox (IDENTIFY, READ_BOOT_REPORT and READ_LOG: R406, Tables 14-6 and 14-10), and what skim mode
refuses (R348). -/

namespace Sys2Proof.Machine

/-! ### What firmware at READY or the ROM in skim mode makes of a mailbox command -/

theorem State.skimAnswers_at {s : State} {b : Sender} (t : Time) : (s.at t).skimAnswers b ↔ s.skimAnswers b := Iff.rfl

/-- A command of R348 runs under firmware and under the ROM alike. -/
theorem State.serve_of_reports {s : State} {b : Sender} {op : Nat} (ho : opSkim op = true) (h : s.serves b op ∨ s.skimAnswers b)
    (f : State → State) : s.serve b op f = f s :=
  h.elim (fun hs => State.serve_serves hs f) (fun hk => State.serve_skim hk ho f)

section
variable {s : State} {b : Sender} (t : Time)

theorem exec_identify_of_reports (h : s.serves b opIdentify ∨ s.skimAnswers b) :
    exec (.identify t b) s = .next (cmdIdentify b (s.at t)) :=
  congrArg Host.Outcome.next (State.serve_of_reports (s := s.at t) (by decide) h _)

theorem exec_readBootReport_of_reports (h : s.serves b opReadBootReport ∨ s.skimAnswers b) :
    exec (.readBootReport t b) s = .next (cmdReadBootReport b (s.at t)) :=
  congrArg Host.Outcome.next (State.serve_of_reports (s := s.at t) (by decide) h _)

theorem exec_readLog_of_reports (h : s.serves b opReadLog ∨ s.skimAnswers b) (dest : BitVec 64) (first count : Word) :
    exec (.readLog t b dest first count) s = .next (cmdReadLog b dest first count (s.at t)) :=
  congrArg Host.Outcome.next (State.serve_of_reports (s := s.at t) (by decide) h _)

end

/-- A command of a mailbox is served under its own sender and opcode, whatever its meaning. -/
theorem exec_served_of_mailOf {c : Instr} {b : Sender} {op : Nat} (hc : mailOf c = some (b, op)) (s : State) :
    ∃ t f, exec c s = .next ((s.at t).serve b op f) := by
  cases c
  case identify | attach | detach | readLog | readBootReport | admitRequest | cancelRequest | readRequest | setGrammar | postDrafts
      | encodeOpen | appendInput | encodeClose | setStepShape | setHomeSlots | setCustomer | setPool | readCustomer | setVatPlan
      | setPower | openWindow | closeWindow | setCollective | loadLogitProgram | loadBiasList | loadVocab | releaseVocab
      | setVocabPartition | loadGrammar | releaseGrammar | loadStopSet | releaseStopSet | setAdapterPool =>
    cases hc
    exact ⟨_, _, rfl⟩
  all_goals exact nomatch hc

/-- In skim mode a mailbox command outside R348 is refused. -/
theorem exec_refused_of_skimAnswers {c : Instr} {b : Sender} {op : Nat} (hc : mailOf c = some (b, op)) (ho : opSkim op = false)
    {s : State} (h : s.skimAnswers b) : ∃ t, exec c s = .next ((s.at t).refuse b op stSkim) := by
  obtain ⟨t, f, hexec⟩ := exec_served_of_mailOf hc s
  exact ⟨t, hexec.trans (congrArg Host.Outcome.next (State.serve_skim_refused ((State.skimAnswers_at t).mpr h) ho f))⟩

/-- An answer at a command's own time is the response of the state that the command found. -/
theorem State.responds_answer_at {s : State} {b : Sender} (hfree : s.ringFree b.ctx.toNat) (t : Time) (op status : Nat) (body : List Byte) :
    s.responds ((s.at t).answer b op status body) b op status body [] :=
  State.answer_responds ((State.ringFree_at t).mpr hfree) op status body

theorem State.refuse_at_onlyChanges (s : State) (t : Time) (b : Sender) (op status : Nat) :
    s.onlyChanges [.clk, .skim, .mbox, .ports] ((s.at t).refuse b op status) :=
  (State.refuse_hide (by decide) (by decide) (by decide) b op status (s.at t)).trans (State.at_hide (by decide) t s)

/-! ### The entries that READ_LOG copies (R406) -/

/-- (FIRST − OLDEST) mod 2^32: how many of the entries held come before FIRST. -/
def Log.before (l : Log) (first : Word) : Nat := (first.toNat + 2 ^ 32 - l.oldest) % 2 ^ 32

/-- READ_LOG reads from a FIRST in range, to an aligned DEST, a COUNT of 1 to 32,768. -/
abbrev Log.readable (l : Log) (dest : BitVec 64) (first count : Word) : Prop :=
  l.before first ≤ l.entries.length ∧ dest.toNat % 32 = 0 ∧ 1 ≤ count.toNat ∧ count.toNat ≤ 32768

/-- The entries that READ_LOG copies. -/
def Log.read (l : Log) (first count : Word) : List LogEntry := (l.entries.drop (l.before first)).take count.toNat

/-- READ_LOG's response body: OLDEST, NEXT and how many entries are copied. -/
def Log.readBody (l : Log) (first count : Word) : List Byte :=
  leBytes 4 l.oldest ++ leBytes 4 l.next ++ leBytes 4 (l.read first count).length

/-- READ_LOG refuses where one part of `Log.readable` fails. -/
theorem Log.not_readable_iff {l : Log} {dest : BitVec 64} {first count : Word} :
    ¬ l.readable dest first count
      ↔ l.entries.length < l.before first ∨ dest.toNat % 32 ≠ 0 ∨ count = 0 ∨ 32768 < count.toNat := by
  have hcount : count = 0 ↔ count.toNat = 0 := BitVec.toNat_eq
  rw [Log.readable, hcount]
  omega

theorem cmdReadLog_of_readable {s : State} {dest : BitVec 64} {first count : Word} (h : s.log.readable dest first count) (b : Sender) :
    cmdReadLog b dest first count s = (s.hostWrite dest ((s.log.read first count).flatMap LogEntry.bytes)).answer b opReadLog stOk
      (s.log.readBody first count) :=
  if_neg (mt Log.not_readable_iff.mpr (not_not.mpr h))

theorem cmdReadLog_of_not_readable {s : State} {dest : BitVec 64} {first count : Word} (h : ¬ s.log.readable dest first count)
    (b : Sender) : cmdReadLog b dest first count s = s.refuse b opReadLog stLogRange :=
  if_pos (Log.not_readable_iff.mp h)

theorem LogEntry.bytes_length (e : LogEntry) : e.bytes.length = 32 := by
  simp only [LogEntry.bytes, List.length_append, leBytes_length]

theorem LogEntry.flatMap_bytes_eq_nil_iff {es : List LogEntry} : es.flatMap LogEntry.bytes = [] ↔ es = [] := by
  cases es with
  | nil => exact iff_of_true rfl rfl
  | cons e es =>
    have hne : e.bytes ≠ [] := List.ne_nil_of_length_pos (by rw [LogEntry.bytes_length]; decide)
    simp [hne]

theorem State.hostWrite_host (s : State) (a : BitVec 64) (bs : List Byte) :
    (s.hostWrite a bs).ports.host = s.ports.host ++ (if bs = [] then [] else [(a, bs)]) := by
  cases bs with
  | nil => exact (List.append_nil _).symm
  | cons x bs => rfl

/-- Entries are copied in one write, and no entry makes none. -/
theorem State.hostWrite_entries_host (s : State) (dest : BitVec 64) (es : List LogEntry) :
    (s.hostWrite dest (es.flatMap LogEntry.bytes)).ports.host
      = s.ports.host ++ (if es = [] then [] else [(dest, es.flatMap LogEntry.bytes)]) := by
  simp only [State.hostWrite_host, LogEntry.flatMap_bytes_eq_nil_iff]

/-- The entries in range are copied before the response; a request out of range is refused. -/
theorem cmdReadLog_responds {s : State} {b : Sender} (hfree : s.ringFree b.ctx.toNat) (t : Time) (dest : BitVec 64) (first count : Word) :
    if s.log.readable dest first count then
      s.responds (cmdReadLog b dest first count (s.at t)) b opReadLog stOk (s.log.readBody first count)
        (if s.log.read first count = [] then [] else [(dest, (s.log.read first count).flatMap LogEntry.bytes)])
    else s.responds (cmdReadLog b dest first count (s.at t)) b opReadLog stLogRange [] [] := by
  split
  next hread =>
    rw [cmdReadLog_of_readable (s := s.at t) hread]
    exact State.responds_answer hfree (State.hostWrite_mbox (s.at t) _ _) (State.hostWrite_entries_host (s.at t) dest _) _ _ _
  next hread =>
    rw [cmdReadLog_of_not_readable (s := s.at t) hread]
    exact State.responds_answer_at hfree t _ _ _

/-- Settles O14: each report is its meaning under firmware and ROM alike (`exec_…_of_reports`), framed by its `hide` law;
`cmdReadLog_responds` tells R406's range from what is out of it. Every other mailbox command comes to `State.serve` under its
own opcode (`exec_served_of_mailOf`), which the ROM refuses. -/
theorem reportsAndSkimRefusals : Obligations.ReportsAndSkimRefusals := by
  unfold Obligations.ReportsAndSkimRefusals
  refine ⟨fun s t b hfree => ⟨fun h => ?identify, fun h => ?bootReport, fun dest first count h => ?log⟩,
    fun s c b op hc ho h hfree => ?refused⟩
  case identify =>
    have hexec := exec_identify_of_reports t h
    exact ⟨_, hexec, State.responds_answer_at hfree t _ _ _,
      execIdentify_hide (by decide) (by decide) (by decide) (by decide) t b hexec⟩
  case bootReport =>
    have hexec := exec_readBootReport_of_reports t h
    exact ⟨_, hexec, State.responds_answer_at hfree t _ _ _,
      execReadBootReport_hide (by decide) (by decide) (by decide) (by decide) t b hexec⟩
  case log =>
    have hexec := exec_readLog_of_reports t h dest first count
    exact ⟨_, hexec, cmdReadLog_responds hfree t dest first count,
      execReadLog_hide (by decide) (by decide) (by decide) (by decide) t b dest first count hexec⟩
  case refused =>
    obtain ⟨t, hexec⟩ := exec_refused_of_skimAnswers hc ho h
    exact ⟨_, hexec, State.responds_answer_at hfree t _ _ _, s.refuse_at_onlyChanges t b op stSkim⟩

end Sys2Proof.Machine
end
